-- ==== Sys2Proof/Word.lean ====
section
/-! DEFINITION. The words of the ZB-4860 (00_scope.md, R7-R10) and the numbers that name its units:
a byte, a 64-bit register or parameter word, the indices of stacks, cores, sites, rows, vaults and links,
and a fixed group of four, one per stack. -/

namespace Sys2Proof

/-- A byte (R10). -/
abbrev Byte := BitVec 8

/-- A control register, a parameter, a scalar: 64 bits, bit 0 least significant (R7). -/
abbrev Word := BitVec 64

/-- A stack of the module, 0-3 (R18). -/
abbrev StackIx := Fin 4

/-- A logical core of a stack, 0x00-0xA7 (R26). -/
abbrev CoreIx := Fin 168

/-- A logical vault of a stack, 0-167 (R33). -/
abbrev VaultIx := Fin 168

/-- A physical site of a stack, 0-183 (R25). -/
abbrev SiteIx := Fin 184

/-- A row of the compute die, 0-7 (R24). -/
abbrev RowIx := Fin 8

/-- A link of a router: 0-3 its ports, 4-7 the bridges on the north, east, south and west edges (R412). -/
abbrev LinkIx := Fin 8

/-- Four of a kind, one per stack of the module. -/
structure Quad (α : Type) where
  q0 : α
  q1 : α
  q2 : α
  q3 : α
  deriving DecidableEq, Repr

/-- The member of index `i`. -/
def Quad.get {α : Type} (q : Quad α) (i : StackIx) : α :=
  match i with
  | 0 => q.q0
  | 1 => q.q1
  | 2 => q.q2
  | 3 => q.q3

/-- The group with the member of index `i` replaced. -/
def Quad.set {α : Type} (q : Quad α) (i : StackIx) (v : α) : Quad α :=
  match i with
  | 0 => { q with q0 := v }
  | 1 => { q with q1 := v }
  | 2 => { q with q2 := v }
  | 3 => { q with q3 := v }

/-- The same value four times. -/
def Quad.all {α : Type} (v : α) : Quad α := ⟨v, v, v, v⟩

/-- A line of 512 bytes (R8), byte 0 in the low bits, with the poison mark of each of its sixteen 32-byte words
(R152, R269): bit g of `marks` belongs to bytes 32g to 32g + 31. -/
structure Line where
  data : BitVec 4096
  marks : BitVec 16
  deriving DecidableEq, Repr

/-- A number cut to `w` bits. -/
abbrev bv (w n : Nat) : BitVec w := BitVec.ofNat w n

end Sys2Proof
end

