-- ==== Sys2Proof/Machine/Num.lean ====
section
/-! DEFINITION. Number formats and arithmetic rules (03_number_formats.md): the formats and their codes, exact
values, the one rounding of a conversion, FP32 arithmetic on exact sums and products, ZL8, block scales and the
seeded random value of stochastic rounding. -/

namespace Sys2Proof

/-- The formats of Table 4.4 (R115). -/
inductive Fmt
  | fp32 | bf16 | fp16 | e4m3 | e5m2 | e2m3 | e2m1 | zl8 | int8 | int4 | int32
  deriving DecidableEq, Repr

end Sys2Proof

namespace Sys2Proof.Machine

/-- The format of a 4-bit code (Table 4.4); codes 0xB-0xF are reserved. -/
def fmtOf (code : Nat) : Option Fmt :=
  match code with
  | 0 => some .fp32 | 1 => some .bf16 | 2 => some .fp16 | 3 => some .e4m3 | 4 => some .e5m2 | 5 => some .e2m3
  | 6 => some .e2m1 | 7 => some .zl8 | 8 => some .int8 | 9 => some .int4 | 10 => some .int32
  | _ => none

/-- The width of an element (Table 3.2). -/
def fmtWidth (f : Fmt) : Nat :=
  match f with
  | .fp32 | .int32 => 32
  | .bf16 | .fp16 => 16
  | .e4m3 | .e5m2 | .zl8 | .int8 => 8
  | .e2m3 => 6
  | .e2m1 | .int4 => 4

/-- The elements of a line (Table 3.2). -/
def fmtPerLine (f : Fmt) : Nat :=
  match f with
  | .e2m3 => 672
  | _ => 4096 / fmtWidth f

/-- Whether a format holds integers (R86). -/
def fmtIsInt (f : Fmt) : Bool :=
  match f with
  | .int8 | .int4 | .int32 => true
  | _ => false

/-- An exact value (-1)^neg × m × 2^e. -/
structure Dy where
  neg : Bool
  m : Nat
  e : Int
  deriving DecidableEq, Repr

/-- What a code stands for: an exact number, an infinity or a NaN. -/
inductive Val
  | num (d : Dy)
  | inf (neg : Bool)
  | nan
  deriving DecidableEq, Repr

/-- Exponent bits, mantissa bits and bias of a float format (Table 3.1). -/
def fmtShape (f : Fmt) : Nat × Nat × Nat :=
  match f with
  | .fp32 => (8, 23, 127)
  | .bf16 => (8, 7, 127)
  | .fp16 => (5, 10, 15)
  | .e4m3 => (4, 3, 7)
  | .e5m2 => (5, 2, 15)
  | .e2m3 => (2, 3, 1)
  | .e2m1 => (2, 1, 1)
  | _ => (8, 23, 127)

/-- The code of the largest finite magnitude (Table 3.1). -/
def fmtMaxCode (f : Fmt) : Nat :=
  match f with
  | .fp32 => 0x7F7FFFFF
  | .bf16 => 0x7F7F
  | .fp16 => 0x7BFF
  | .e4m3 => 0x7E
  | .e5m2 => 0x7B
  | .e2m3 => 0x1F
  | .e2m1 => 0x7
  | _ => 0x7F

/-- The canonical NaN of a format (R87); formats without a NaN give +0 (R101). -/
def fmtNaN (f : Fmt) : Nat :=
  match f with
  | .fp32 => 0x7FC00000
  | .bf16 => 0x7FC0
  | .fp16 => 0x7E00
  | .e4m3 => 0x7F
  | .e5m2 => 0x7E
  | .zl8 => 0x80
  | _ => 0

/-- Mantissa fields t[f] of Table 3.3; t[8] = 2^23 is a bound (R91). -/
def zlT (f : Nat) : Nat :=
  match f with
  | 0 => 0 | 1 => 759234 | 2 => 1587184 | 3 => 2490071 | 4 => 3474675 | 5 => 4548394 | 6 => 5719293 | 7 => 6996167
  | _ => 8388608

/-- The magnitude of log code `e` of ZL8: T[f] × 2^k with e − 64 = 8k + f (R90). `s` is e − 64. -/
def zlMag (s : Int) : Dy :=
  { neg := false, m := 8388608 + zlT (s % 8).toNat, e := s / 8 - 23 }

/-- The value of a signed integer of `w` bits. -/
def intVal (w n : Nat) : Int := if n < 2 ^ (w - 1) then (n : Int) else (n : Int) - (2 ^ w : Nat)

/-- An integer as an exact value. -/
def dyOfInt (i : Int) : Dy := { neg := decide (i < 0), m := i.natAbs, e := 0 }

/-- The value of code `c` of a float format of Table 3.1 (R84, R85). -/
def floatVal (f : Fmt) (c : Nat) : Val :=
  let (eb, mb, bias) := fmtShape f
  let mag := c % 2 ^ (eb + mb)
  let neg := (c / 2 ^ (eb + mb)) % 2 = 1
  let ex := mag / 2 ^ mb
  let mt := mag % 2 ^ mb
  if mag > fmtMaxCode f then
    if f ≠ .e4m3 ∧ mt = 0 then .inf neg else .nan
  else if ex = 0 then .num ⟨neg, mt, 1 - (bias : Int) - mb⟩
  else .num ⟨neg, 2 ^ mb + mt, (ex : Int) - bias - mb⟩

/-- The exact value of a code of any format (R84-R86, R90). -/
def decodeVal (f : Fmt) (c : Nat) : Val :=
  match f with
  | .zl8 =>
    if c % 256 = 0 then .num ⟨false, 0, 0⟩
    else if c % 256 = 128 then .nan
    else
      let d := zlMag (((c % 128 : Nat) : Int) - 64)
      .num { d with neg := decide (c % 256 ≥ 128) }
  | .int8 => .num (dyOfInt (intVal 8 (c % 256)))
  | .int4 => .num (dyOfInt (intVal 4 (c % 16)))
  | .int32 => .num (dyOfInt (intVal 32 (c % 2 ^ 32)))
  | f => floatVal f c

/-! ### Exact sums, products and comparison -/

/-- The integer of an exact value at a common exponent `e` no greater than its own. -/
def dyAt (d : Dy) (e : Int) : Int :=
  let n : Int := ((d.m * 2 ^ (d.e - e).toNat : Nat) : Int)
  if d.neg then -n else n

/-- The exact sum, with the sign of a zero sum of IEEE 754-2019 under round-to-nearest-even (R97). -/
def dyAdd (a b : Dy) : Dy :=
  if a.m = 0 ∧ b.m = 0 then ⟨a.neg && b.neg, 0, 0⟩
  else if a.m = 0 then b
  else if b.m = 0 then a
  else
    let e := min a.e b.e
    let s := dyAt a e + dyAt b e
    ⟨decide (s < 0), s.natAbs, e⟩

/-- The exact product. -/
def dyMul (a b : Dy) : Dy := ⟨a.neg != b.neg, a.m * b.m, a.e + b.e⟩

/-- Exact comparison: −1, 0 or 1. -/
def dyCmp (a b : Dy) : Int :=
  let e := min a.e b.e
  let x := dyAt a e
  let y := dyAt b e
  if x < y then -1 else if x = y then 0 else 1

/-- Addition of values under IEEE 754-2019 (R98), not yet rounded. -/
def valAdd (a b : Val) : Val :=
  match a, b with
  | .nan, _ => .nan
  | _, .nan => .nan
  | .inf x, .inf y => if x = y then .inf x else .nan
  | .inf x, .num _ => .inf x
  | .num _, .inf y => .inf y
  | .num x, .num y => .num (dyAdd x y)

/-- The exact product of values (R97, R98). -/
def valMul (a b : Val) : Val :=
  match a, b with
  | .nan, _ => .nan
  | _, .nan => .nan
  | .inf x, .inf y => .inf (x != y)
  | .inf x, .num d => if d.m = 0 then .nan else .inf (x != d.neg)
  | .num d, .inf y => if d.m = 0 then .nan else .inf (d.neg != y)
  | .num x, .num y => .num (dyMul x y)

/-- The negation of a value. -/
def valNeg (a : Val) : Val :=
  match a with
  | .nan => .nan
  | .inf s => .inf (!s)
  | .num d => .num { d with neg := !d.neg }

/-- The magnitude of a value. -/
def valAbs (a : Val) : Val :=
  match a with
  | .nan => .nan
  | .inf _ => .inf false
  | .num d => .num { d with neg := false }

/-- A value multiplied exactly by 2^s (R95). -/
def valScale (a : Val) (s : Int) : Val :=
  match a with
  | .num d => .num { d with e := d.e + s }
  | v => v

/-! ### Rounding -/

/-- How a unit rounds: to nearest even, by a 24-bit random value (R103), or toward plus infinity in magnitude
(the sums of R130). -/
inductive Rounding
  | rne
  | stoch (r : Nat)
  | up
  deriving DecidableEq, Repr

/-- Whether to round a quotient `fl` with remainder `rem` of `den` away from zero. -/
def roundUp (mode : Rounding) (fl rem den : Nat) : Bool :=
  match mode with
  | .rne => decide (2 * rem > den) || (decide (2 * rem = den) && decide (fl % 2 = 1))
  | .stoch r => decide (r < rem * 2 ^ 24 / den)
  | .up => decide (rem > 0)

/-- floor(log2(num / den)) for a positive ratio. -/
def ratioLog2 (num den : Nat) : Int :=
  let l : Int := (Nat.log2 num : Int) - Nat.log2 den
  let big := if l ≥ 0 then decide (num < den * 2 ^ l.toNat) else decide (num * 2 ^ (-l).toNat < den)
  if big then l - 1 else l

/-- The magnitude code, in a float format of Table 3.1 extended without an upper end, of a non-negative ratio
rounded once (R100-R103): a result above `fmtMaxCode` is an overflow. -/
def roundMag (f : Fmt) (mode : Rounding) (num den : Nat) : Nat :=
  if num = 0 then 0
  else
    let (_, mb, bias) := fmtShape f
    let qmin : Int := 1 - (bias : Int) - mb
    let q := max (ratioLog2 num den - mb) qmin
    let n := num * 2 ^ (-q).toNat
    let d := den * 2 ^ q.toNat
    let fl := n / d
    let rem := n % d
    let r := if roundUp mode fl rem d then fl + 1 else fl
    (q - qmin).toNat * 2 ^ mb + r

/-- A float code from a sign and a magnitude code, with the overflow rule of Table 3.4 (R101). -/
def floatPack (f : Fmt) (sat : Bool) (neg : Bool) (mag : Nat) : Nat :=
  let (eb, mb, _) := fmtShape f
  let s := if neg then 2 ^ (eb + mb) else 0
  if mag ≤ fmtMaxCode f then s + mag
  else
    match f with
    | .e2m3 | .e2m1 => s + fmtMaxCode f
    | .e4m3 => if sat then s + fmtMaxCode f else fmtNaN f
    | _ => if sat then s + fmtMaxCode f else s + fmtMaxCode f + 1

/-- Numerator and denominator of the magnitude of an exact value. -/
def dyRatio (d : Dy) : Nat × Nat := (d.m * 2 ^ d.e.toNat, 2 ^ (-d.e).toNat)

/-- The comparison of a positive ratio with an exact value of positive sign: num / den ≤ d. -/
def ratioLe (num den : Nat) (d : Dy) : Bool :=
  let (n, k) := dyRatio d
  decide (num * k ≤ n * den)

/-- The largest index f of Table 3.3 with t[f] ≤ μ, μ = muN / muD (step 4 of R93). -/
def zlIndex (muN muD : Nat) : Nat :=
  if zlT 7 * muD ≤ muN then 7 else if zlT 6 * muD ≤ muN then 6 else if zlT 5 * muD ≤ muN then 5
  else if zlT 4 * muD ≤ muN then 4 else if zlT 3 * muD ≤ muN then 3 else if zlT 2 * muD ≤ muN then 2
  else if zlT 1 * muD ≤ muN then 1 else 0

/-- The log code nearest to a positive ratio by round-to-nearest-even, 0 for the zero code (R93 steps 4-7). -/
def zlNearest (num den : Nat) : Nat :=
  let k := ratioLog2 num den
  -- μ = (x / 2^k − 1) × 2^23
  let n := num * 2 ^ (-k).toNat
  let d := den * 2 ^ k.toNat
  let muN := (n - d) * 8388608
  let f := zlIndex muN d
  let mid := zlT f + zlT (f + 1)          -- twice the midpoint
  let e0 : Int := 64 + 8 * k + f
  let e : Int :=
    if 2 * muN > mid * d then e0 + 1
    else if 2 * muN = mid * d then (if e0 % 2 = 0 then e0 else e0 + 1)
    else e0
  if e > 127 then 127
  else if e < 1 then
    (if ratioLe num den { zlMag (-63) with e := (zlMag (-63)).e - 1 } then 0 else 1)
  else e.toNat

/-- The log code below or at a positive ratio: the neighbour `a` of R103, 0 when no non-zero code lies below. -/
def zlFloor (num den : Nat) : Nat :=
  let k := ratioLog2 num den
  let n := num * 2 ^ (-k).toNat
  let d := den * 2 ^ k.toNat
  let e : Int := 64 + 8 * k + zlIndex ((n - d) * 8388608) d
  if e > 127 then 127 else if e < 1 then 0 else e.toNat

/-- The numerator over 2^200 of the magnitude of a ZL8 log code, an integer for every code. -/
def zlFixed (code : Nat) : Nat :=
  if code = 0 then 0
  else
    let d := zlMag ((code : Int) - 64)
    d.m * 2 ^ (200 + d.e).toNat

/-- The ZL8 log code of a positive ratio under seeded stochastic rounding (R103). -/
def zlStoch (r num den : Nat) : Nat :=
  let a := zlFloor num den
  if a ≥ 127 then 127
  else
    let va := zlFixed a
    let vb := zlFixed (a + 1)
    let dd := (num * 2 ^ 200 - va * den) * 2 ^ 24 / ((vb - va) * den)
    if r < dd then a + 1 else a

/-- Conversion to ZL8, which always saturates (R93, R103). -/
def toZL8 (mode : Rounding) (v : Val) : Nat :=
  match v with
  | .nan => 0x80
  | .inf neg => if neg then 0xFF else 0x7F
  | .num d =>
    if d.m = 0 then 0
    else
      let (n, k) := dyRatio d
      let e := match mode with
        | .stoch r => zlStoch r n k
        | _ => zlNearest n k
      if e = 0 then 0 else if d.neg then e + 128 else e

/-- Conversion to a signed integer of `w` bits: one rounding to an integer, then the end of the range (R100, R101). -/
def toInt (w : Nat) (mode : Rounding) (v : Val) : Nat :=
  let hi : Int := (2 ^ (w - 1) : Nat) - 1
  let lo : Int := -(2 ^ (w - 1) : Nat)
  let cut := fun (i : Int) => ((if i > hi then hi else if i < lo then lo else i) % (2 ^ w : Nat)).toNat
  match v with
  | .nan => 0
  | .inf neg => cut (if neg then lo else hi)
  | .num d =>
    let (n, k) := dyRatio d
    let fl := n / k
    let mag : Int := if roundUp mode fl (n % k) k then ((fl + 1 : Nat) : Int) else (fl : Int)
    cut (if d.neg then -mag else mag)

/-- The code of a value rounded once to a format (R100-R103, Table 3.4). -/
def encodeVal (f : Fmt) (sat : Bool) (mode : Rounding) (v : Val) : Nat :=
  match f with
  | .zl8 => toZL8 mode v
  | .int8 => toInt 8 mode v
  | .int4 => toInt 4 mode v
  | .int32 => toInt 32 mode v
  | f =>
    match v with
    | .nan => fmtNaN f
    | .inf neg => floatPack f sat neg (fmtMaxCode f + 1)
    | .num d =>
      let (n, k) := dyRatio d
      floatPack f sat d.neg (roundMag f mode n k)

/-- A conversion between any two formats of Table 4.4: the exact value of the source, rounded once (R100). -/
def convertCode (src tgt : Fmt) (sat : Bool) (mode : Rounding) (c : Nat) : Nat :=
  encodeVal tgt sat mode (decodeVal src c)

/-! ### FP32 arithmetic of the lanes and the accumulators -/

/-- The value of FP32 bits. -/
def f32Val (x : BitVec 32) : Val := floatVal .fp32 x.toNat

/-- A value rounded to FP32 by round-to-nearest-even, overflow to an infinity (R97, R98). -/
def f32Round (v : Val) : BitVec 32 := BitVec.ofNat 32 (encodeVal .fp32 false .rne v)

/-- FP32 addition. -/
def f32Add (a b : BitVec 32) : BitVec 32 := f32Round (valAdd (f32Val a) (f32Val b))

/-- FP32 subtraction: A + (−B). -/
def f32Sub (a b : BitVec 32) : BitVec 32 := f32Round (valAdd (f32Val a) (valNeg (f32Val b)))

/-- FP32 multiplication. -/
def f32Mul (a b : BitVec 32) : BitVec 32 := f32Round (valMul (f32Val a) (f32Val b))

/-- A × B + C with one rounding. -/
def f32Fma (a b c : BitVec 32) : BitVec 32 := f32Round (valAdd (valMul (f32Val a) (f32Val b)) (f32Val c))

/-- The accumulation step of R97: acc + p with p exact. -/
def f32Acc (acc : BitVec 32) (p : Val) : BitVec 32 := f32Round (valAdd (f32Val acc) p)

/-- The order of two values as IEEE 754-2019 compares them (R220): none when either is a NaN. −0 equals +0. -/
def valCmp (a b : Val) : Option Int :=
  match a, b with
  | .nan, _ => none
  | _, .nan => none
  | .inf x, .inf y => some (if x = y then 0 else if x then -1 else 1)
  | .inf x, .num _ => some (if x then -1 else 1)
  | .num _, .inf y => some (if y then 1 else -1)
  | .num x, .num y => some (dyCmp x y)

/-- The canonical FP32 NaN (R87). -/
def f32NaN : BitVec 32 := 0x7FC00000#32

/-- IEEE 754-2019 minimum: a NaN operand gives the canonical NaN, and −0 is below +0 (R144). -/
def f32Min (a b : BitVec 32) : BitVec 32 :=
  match valCmp (f32Val a) (f32Val b) with
  | none => f32NaN
  | some c => if c < 0 then a else if c > 0 then b else if a.msb then a else b

/-- IEEE 754-2019 maximum (R144). -/
def f32Max (a b : BitVec 32) : BitVec 32 :=
  match valCmp (f32Val a) (f32Val b) with
  | none => f32NaN
  | some c => if c > 0 then a else if c < 0 then b else if a.msb then b else a

/-! ### Block scales and products of operand elements -/

/-- The unbiased exponent of an E8M0 scale, none for the NaN code 0xFF (R94). -/
def e8m0 (c : Nat) : Option Int := if c = 255 then none else some ((c : Int) - 127)

/-- The exact product of two elements of one pass or one NBU multiply, scaled (R92, R95, R97): `sa` and `sb` are the
scales, some 0 for an unscaled operand. -/
def product (fa fb : Fmt) (a b : Nat) (sa sb : Option Int) : Val :=
  match sa, sb with
  | some x, some y =>
    if fa = .zl8 ∧ fb = .zl8 then
      if a = 128 ∨ b = 128 then .nan
      else if a = 0 ∨ b = 0 then .num ⟨false, 0, 0⟩
      else
        let d := zlMag ((((a % 128 : Nat) : Int) - 64) + (((b % 128 : Nat) : Int) - 64))
        .num { d with neg := decide (a ≥ 128) != decide (b ≥ 128) }
    else valScale (valMul (decodeVal fa a) (decodeVal fb b)) (x + y)
  | _, _ => .nan

/-- The exponent of the largest normal power of two of a scaled format (R96). -/
def scaleEmax (f : Fmt) : Int :=
  match f with
  | .e4m3 => 8
  | .e5m2 => 15
  | _ => 2

/-- The magnitude of a value as a ratio; 0 for what is not a number. -/
def valMagRatio (v : Val) : Nat × Nat :=
  match v with
  | .num d => dyRatio d
  | _ => (0, 1)

/-- Whether a value is a number. -/
def valFinite (v : Val) : Bool :=
  match v with
  | .num _ => true
  | _ => false

/-- The larger of two magnitudes given as ratios. -/
def ratioMax (a b : Nat × Nat) : Nat × Nat := if a.1 * b.2 < b.1 * a.2 then b else a

/-- The scale code of a block of FP32 values and the exponent X its elements are divided by; none where the block
holds a NaN or an infinity, or is all zero, with the code (R96). -/
def blockScale (f : Fmt) (xs : List Val) : Nat × Option Int :=
  if xs.any (fun v => !valFinite v) then (0xFF, none)
  else
    let amax := xs.foldl (fun m v => ratioMax m (valMagRatio v)) (0, 1)
    if amax.1 = 0 then (0, none)
    else
      let x := ratioLog2 amax.1 amax.2 - scaleEmax f
      if x + 127 < 0 then (0, some (-127))
      else if x + 127 > 254 then (0xFE, some 127)
      else ((x + 127).toNat, some x)

/-! ### The seeded random value (R104) -/

/-- The function mix of R104. -/
def srMix (z : BitVec 64) : BitVec 64 :=
  let a := (z ^^^ (z >>> 30)) * 0xBF58476D1CE4E5B9#64
  let b := (a ^^^ (a >>> 27)) * 0x94D049BB133111EB#64
  b ^^^ (b >>> 31)

/-- sr_bits of R104: seed, member, tick, core, operation ordinal and element. -/
def srBits (seed : Word) (member tick core op elem : Nat) : Nat :=
  let h := srMix (seed ^^^ (bv 64 (member % 65536) <<< 48) ^^^ (bv 64 (core % 256) <<< 40))
  let h := srMix (h ^^^ bv 64 tick)
  let h := srMix (h ^^^ (bv 64 (op % 65536) <<< 32) ^^^ bv 64 (elem % 2 ^ 32))
  h.toNat % 2 ^ 24

end Sys2Proof.Machine
end

