-- ==== Sys2Proof/Syntax.lean ====
section
/-! DEFINITION. The commands of the ZB-4860: one constructor of `Instr` per row of opcode_table.json, with the
operands a row needs: where it happens (stack, core, site, row or link), what an instruction word or a packet names,
and what an instrument or a physical process decides (a parity failure, a reading, a draw). -/

namespace Sys2Proof

/-- A core of a stack. -/
structure CoreAt where
  st : StackIx
  c : CoreIx
  deriving DecidableEq, Repr

/-- A physical site of a stack. -/
structure SiteAt where
  st : StackIx
  s : SiteIx
  deriving DecidableEq, Repr

/-- A row of a stack. -/
structure RowAt where
  st : StackIx
  r : RowIx
  deriving DecidableEq, Repr

/-- A link of a stack's router. -/
structure LinkAt where
  st : StackIx
  l : LinkIx
  deriving DecidableEq, Repr

/-- The engines of Table 6.1 (R168), codes 0-7. -/
inductive Engine
  | mx | vx | sx | ld | st | nl | fx | seq
  deriving DecidableEq, Repr

/-- Directions on the neighbour links, codes 0-3 (Table 7.9). -/
inductive Dir
  | north | east | south | west
  deriving DecidableEq, Repr

/-- An end specifier (Table 6.4), or NONE (R210). -/
inductive EndSpec
  | none
  | pop (q : Fin 16)
  | peek (i : Fin 64) (q : Fin 16)
  | push (q : Fin 16)
  | line (x : Fin 8192)
  deriving DecidableEq, Repr

/-- The operands of MX PASS (form P, R217). -/
structure PassOp where
  desc : BitVec 11
  woff : BitVec 12
  aoff : BitVec 12
  coff : BitVec 12
  soff : BitVec 16
  deriving DecidableEq, Repr

/-- The operands of MX DRAIN (form D, R218); `n` is N − 1, `ofmt` a code of Table 4.4. -/
structure DrainOp where
  d : EndSpec
  a : EndSpec
  n : BitVec 12
  ofmt : BitVec 4
  sat : Bool
  rnd : Bool
  t : Bool
  deriving DecidableEq, Repr

/-- The operands of a VX operation (form V, R219); `n` is N − 1. -/
structure VxOp where
  d : EndSpec
  a : EndSpec
  b : EndSpec
  c : EndSpec
  n : BitVec 12
  fmt : BitVec 4
  imm : BitVec 32
  t : Bool
  sat : Bool
  rnd : Bool
  f : Bool
  deriving DecidableEq, Repr

/-- The operands of an SX operation (form S, R224). -/
structure SxOp where
  d : EndSpec
  a : EndSpec
  b : EndSpec
  c : EndSpec
  imm : BitVec 32
  led : Bool
  les : Bool
  deriving DecidableEq, Repr

/-- The operands of LDL (form L, R226). -/
structure LdlOp where
  data : EndSpec
  stride : BitVec 16
  n : BitVec 12
  addr : Word
  x : Bool
  l : Bool
  deriving DecidableEq, Repr

/-- The operands of LDX and STX (form A, R227). -/
structure IdxOp where
  data : EndSpec
  addr : EndSpec
  n : BitVec 12
  base : Word
  x : Bool
  l : Bool
  deriving DecidableEq, Repr

/-- The operands of ATOM (form A, R229); ATYPE 0 ADD, 1 SMIN, 2 SMAX, 3 SWAP, 4 CAS. -/
structure AtomOp where
  data : EndSpec
  addr : EndSpec
  n : BitVec 12
  atype : BitVec 4
  base : Word
  x : Bool
  l : Bool
  deriving DecidableEq, Repr

/-- The operands of STL (form L, R226, R230). -/
structure StlOp where
  data : EndSpec
  mask : EndSpec
  n : BitVec 12
  addr : Word
  x : Bool
  l : Bool
  mc : Bool
  deriving DecidableEq, Repr

/-- The operands of NL SEND (form N, Table 7.9). -/
structure NlOp where
  src : EndSpec
  n : BitVec 12
  rq : Fin 16
  dir : Dir
  deriving DecidableEq, Repr

/-- The operation codes of Table 7.5. -/
inductive VxK
  | add | sub | mul | fma | min | max | abs | neg | mov | sel | and | or | xor | shl | shr | sra | bcast
  | cmpeq | cmpne | cmplt | cmple | cmpgt | cmpge
  | exp | exp2 | ln | log2 | rcp | sqrt | rsqrt | tanh | sigmoid | erf
  | cvt | cvtmx | rsum | rmin | rmax | gath | scat | scatadd
  deriving DecidableEq, Repr

/-- The operation codes of Table 7.6. -/
inductive SxK
  | add | sub | mul | and | or | xor | shl | shr | sra | sel | mov | lui | min | max
  | cmpeq | cmpne | cmplt | cmple | cmpltu | cmpleu | fadd | fmul | ffma | cvtf | cvti | kvcmd
  deriving DecidableEq, Repr

/-- FX entries (Table 7.10). -/
inductive FxOp
  | wait (flag : Fin 128) (v : Bool) (gate : Engine)
  | waitc (flag : Fin 128) (gate : Engine)
  | set (flag : Fin 128) (after : BitVec 6)
  | clr (flag : Fin 128) (after : BitVec 6)
  | signal (target : Nat) (flag : Fin 64) (after : BitVec 6)
  | tickEnd
  deriving DecidableEq, Repr

/-- Sequencer operations (Table 7.3). -/
inductive SeqOp
  | nop
  | halt
  | phase (tag : BitVec 8)
  | br (target : BitVec 18)
  | brc (src : EndSpec) (target : BitVec 18) (z : Bool)
  | loop (src : EndSpec) (count : BitVec 32) (stop : BitVec 18)
  | endloop
  deriving DecidableEq, Repr

/-- An instruction of a core, as its 128-bit word decodes (07_engine_operations.md). -/
inductive CoreOp
  | pass (o : PassOp)
  | drain (o : DrainOp)
  | vx (k : VxK) (o : VxOp)
  | sx (k : SxK) (o : SxOp)
  | ldl (o : LdlOp)
  | ldx (o : IdxOp)
  | atom (o : AtomOp)
  | stl (o : StlOp)
  | stx (o : IdxOp)
  | send (o : NlOp)
  | fx (o : FxOp)
  | seq (o : SeqOp)
  deriving DecidableEq, Repr

/-- SRAM reads of a step whose parity failed (R275): the number of the 32-byte granule (local address / 32) and
whether the repeated read failed again. -/
abbrev Upsets := List (Nat × Bool)

/-- Stored DRAM bits found flipped in the words a row read decodes (R266): the number of the 32-byte word
(local address / 32) and the bit, 0-255 data, 256-271 check. -/
abbrev DramUpsets := List (Nat × Nat)

/-- A bit that an upset inverts in a result of a pass step as it leaves the array (R129): vector, column, bit. -/
structure Flip where
  v : Nat
  col : Nat
  bit : Fin 32
  deriving DecidableEq, Repr

/-- The types of a tick token (R57). -/
inductive TokenTy
  | start | done | go | abort
  deriving DecidableEq, Repr

/-- A tick token: MEMBER, DOMAIN, TICK and DEST of Table 2.1 (R57). -/
structure Token where
  member : BitVec 14
  domain : BitVec 16
  tick : BitVec 16
  dest : BitVec 16
  deriving DecidableEq, Repr

/-- Ivton packet types (Table 12.9). -/
inductive PktType
  | rd | wr | wrm | atom | rdRsp | wrAck | atomRsp | errRsp | cmd | cmdRpl | nodeDown | mcWr | mcAck | mcDrop
  | collUp | collDown
  deriving DecidableEq, Repr

/-- An Ivton packet: the header fields of Table 12.8 and the payload (R384). `masked` says of a MC_WR that its payload has the form of a
WRM's (log 96). -/
structure Packet where
  ty : PktType
  fence : Bool := false
  unchecked : Bool := false
  resend : Bool := false
  tag : Nat := 0
  src : Nat := 0
  dst : Nat := 0
  status : Nat := 0
  addr : Nat := 0
  poison : BitVec 16 := 0
  backoff : Nat := 0
  rlen : Nat := 0
  atype : Nat := 0
  hops : Nat := 64
  domain : Nat := 0
  tick : Nat := 0
  entry : Nat := 0
  mlo : Nat := 0
  mhi : Nat := 0
  masked : Bool := false
  data : List Byte := []
  deriving DecidableEq, Repr

/-- A byte offset in instruction memory. -/
abbrev ImOff := BitVec 18

/-- A command held by a stack's command port: its issuer (a node, or 0x10000 for the module controller, R427) and
its TAG. -/
structure CmdRef where
  issuer : Nat
  tag : BitVec 32
  deriving DecidableEq, Repr

/-- A command that reads memory, with the upsets that its reads meet. -/
structure RefUpsets where
  ref : CmdRef
  upsets : Upsets
  deriving DecidableEq, Repr

/-- An access, by its number, with the upsets that it meets, the failed transmissions of its transfer over the column and the words that fail
them (R277). -/
structure AccessUpsets where
  id : Nat
  upsets : Upsets
  fails : Fin 5 := 0
  failing : BitVec 16 := 0
  deriving DecidableEq, Repr

/-- Where a KV command comes from: an issuer's command held by the port, or the record a row's agent has taken. -/
inductive KvSource
  | issuer (c : CmdRef)
  | agent (r : RowIx)
  deriving DecidableEq, Repr

/-- A near-bank unit's schedule entry of 32 bytes (Table 10.2), as its four words. -/
structure NbuEntry where
  w0 : Word
  w1 : Word
  w2 : Word
  w3 : Word
  deriving DecidableEq, Repr

/-- A DRAM row to repair: layer, bank, row (R282). -/
structure RowFail where
  layer : Fin 8
  bank : Fin 16
  row : Fin 12288
  deriving DecidableEq, Repr

/-- A column group to repair: layer, group (R283). -/
structure TileFail where
  layer : Fin 8
  group : Fin 64
  deriving DecidableEq, Repr

/-- What a data slot comes in (R378, R382): the signals of a bridge's beat for one slot, its bits, one parity signal for each of its four SRAM
words, its poison signal; or the symbols that the eight lanes of a port have brought, from where the first codeword that the slot touches is to
begin. -/
inductive SlotSignals
  | beat (bits : BitVec 256) (parity : BitVec 4) (poison : Bool)
  | lanes (symbols : List (List (BitVec 10)))
  deriving DecidableEq, Repr

/-- A data slot as a link receives it (R373, R376): the number of the slot on the link, the sequence number that it carries, its signals. -/
structure WireSlot where
  n : Nat
  seq : BitVec 24
  carried : SlotSignals
  deriving DecidableEq, Repr

/-- Who sends on a collector link (R517): a unit, by its hierarchy address; a block or region collector; the stack fault
collector, to the module collector. -/
inductive WireSender
  | unit (addr : BitVec 16)
  | block (region block : BitVec 4)
  | region (region : BitVec 4)
  | stack
  deriving DecidableEq, Repr

/-- A collector pair that reads equal in two samples (R517): its sender, and the pair, LOG to MODULE. -/
structure ErrorWire where
  sender : WireSender
  pair : Fin 5
  deriving DecidableEq, Repr

/-- What a coil test finds (R533): the failing coils, in Table 1.6 order. -/
structure CoilTest where
  failing : List (Fin 4192)
  deriving DecidableEq, Repr

/-- A sample of a hotspot's twin sensors (R468): codes in 0.125 °C, 0x800 out of range. -/
structure SensorSample where
  n : Fin 152
  a : BitVec 12
  b : BitVec 12
  deriving DecidableEq, Repr

/-- The dies of R472. -/
inductive Die
  | compute | cache | layer (l : Fin 8) | base
  deriving DecidableEq, Repr

/-- The power of the dies as measured over the last 100 µs (R472), in mW; `dram` is that of the eight layers together. -/
structure DiePower where
  compute : Nat
  cache : Nat
  dram : Nat
  base : Nat
  deriving DecidableEq, Repr

/-- A sample of the coolant (R469): flow in mL/min, inlet and outlet in 0.125 °C. -/
structure Coolant where
  flow : Nat
  inlet : Int
  outlet : Int
  deriving DecidableEq, Repr

/-- What the boot ROM samples (R19): the bridge-present senses, in the order of ID_POSITION.EDGES; bits of module flash that it finds flipped, as
(flash address, bit); whether the stack controller's code memory matches the image hash of the last VERIFY (R501). -/
structure RomSample where
  edges : BitVec 4
  flips : List (Nat × Fin 8) := []
  code : Bool := true
  deriving DecidableEq, Repr

/-- Which image VERIFY checks (R548): the one its path names, or the one fetched in a recovery. -/
inductive VerifyFrom
  | own | fetched
  deriving DecidableEq, Repr

/-- What training finds of a link's alignment (R378, R382): on a port the place in the lanes' symbols at which codewords begin and how many
symbols each lane is late; on a bridge the group of signals that the spare group carries, if one failed. -/
structure LinkAlign where
  start : Nat
  skew : List Nat
  spare : Option (Fin 132)
  deriving DecidableEq, Repr

/-- A link as PROOFING trains it (R377, R412, R488): trained or not, lanes, reach code, precoding, alignment. -/
structure LinkTrain where
  up : Bool
  lanes : BitVec 8
  reach : BitVec 2
  precode : Bool
  align : LinkAlign
  deriving DecidableEq, Repr

/-- An item of the training record (R491): a column, a bridge by edge, a port, a DRAM tile. -/
inductive TrainItem
  | column (p : SiteIx)
  | bridge (n : StackIx)
  | port (n : StackIx)
  | tile (layer : Fin 8) (p : SiteIx)
  deriving DecidableEq, Repr

/-- What PROOFING finds (R43, R257, R488, R491): sites that fail self-test; each port's training in order; each bridge's, by edge;
whether each copy of the training record reads back; of columns trained anew, the coils that their spares replace, and those beyond their spares; the items
of the record that fail their check. -/
structure Proofing where
  failed : List SiteIx
  ports : Quad LinkTrain
  bridges : Quad LinkTrain
  copies : Bool × Bool
  spares : List (SiteIx × List (Fin 4192))
  lanes : List SiteIx
  bad : List TrainItem
  deriving DecidableEq, Repr

/-- A package record (R492). -/
structure PackageRec where
  index : BitVec 2
  serial : Word
  node : BitVec 16
  rows : BitVec 8
  deriving DecidableEq, Repr

/-- A reset domain whose reset completes (Table 15.6); a base non-transit reset has a row of its own. -/
inductive ResetDomain
  | stack | transit | computeDie
  | core (c : CoreIx)
  deriving DecidableEq, Repr

/-- A PLDM firmware chunk (R582). -/
structure FwChunk where
  offset : Nat
  total : Nat
  last : Bool
  data : List Byte
  deriving DecidableEq, Repr

/-- What is measured of a tick that ends (R450): the compute die's energy in nJ; of each core that took part its MAC steps, lane operations and line
accesses; the highest 1 µs average draw in W; the 1 ms average of the fixed draw F in mW. -/
structure TickMeasure where
  die : Nat
  activity : List (Nat × Nat × Nat × Nat)
  peak : Nat
  fixed : Nat
  deriving DecidableEq, Repr

/-- The commands: one constructor per row of opcode_table.json. -/
inductive Instr
  | seqFetchDispatch (a : CoreAt) (u : Upsets)
  | nop (a : CoreAt)
  | halt (a : CoreAt)
  | phase (a : CoreAt) (tag : Fin 256)
  | br (a : CoreAt) (target : ImOff)
  | brc (a : CoreAt) (src : EndSpec) (target : ImOff) (z : Bool) (u : Upsets)
  | loop (a : CoreAt) (src : EndSpec) (count : BitVec 32) (stop : ImOff) (u : Upsets)
  | endloop (a : CoreAt)
  | engineOpStart (a : CoreAt) (e : Engine) (u : Upsets)
  | engineOpComplete (a : CoreAt) (e : Engine)
  | pass (a : CoreAt) (o : PassOp)
  | passStart (a : CoreAt)
  | passStepComplete (a : CoreAt) (flips : List Flip)
  | passReplay (a : CoreAt)
  | passRetire (a : CoreAt)
  | drain (a : CoreAt) (o : DrainOp)
  | vxAdd (a : CoreAt) (o : VxOp)
  | vxSub (a : CoreAt) (o : VxOp)
  | vxMul (a : CoreAt) (o : VxOp)
  | vxFma (a : CoreAt) (o : VxOp)
  | vxMin (a : CoreAt) (o : VxOp)
  | vxMax (a : CoreAt) (o : VxOp)
  | vxAbs (a : CoreAt) (o : VxOp)
  | vxNeg (a : CoreAt) (o : VxOp)
  | vxMov (a : CoreAt) (o : VxOp)
  | vxSel (a : CoreAt) (o : VxOp)
  | vxAnd (a : CoreAt) (o : VxOp)
  | vxOr (a : CoreAt) (o : VxOp)
  | vxXor (a : CoreAt) (o : VxOp)
  | vxShl (a : CoreAt) (o : VxOp)
  | vxShr (a : CoreAt) (o : VxOp)
  | vxSra (a : CoreAt) (o : VxOp)
  | vxBcast (a : CoreAt) (o : VxOp)
  | vxCmpeq (a : CoreAt) (o : VxOp)
  | vxCmpne (a : CoreAt) (o : VxOp)
  | vxCmplt (a : CoreAt) (o : VxOp)
  | vxCmple (a : CoreAt) (o : VxOp)
  | vxCmpgt (a : CoreAt) (o : VxOp)
  | vxCmpge (a : CoreAt) (o : VxOp)
  | vxExp (a : CoreAt) (o : VxOp)
  | vxExp2 (a : CoreAt) (o : VxOp)
  | vxLn (a : CoreAt) (o : VxOp)
  | vxLog2 (a : CoreAt) (o : VxOp)
  | vxRcp (a : CoreAt) (o : VxOp)
  | vxSqrt (a : CoreAt) (o : VxOp)
  | vxRsqrt (a : CoreAt) (o : VxOp)
  | vxTanh (a : CoreAt) (o : VxOp)
  | vxSigmoid (a : CoreAt) (o : VxOp)
  | vxErf (a : CoreAt) (o : VxOp)
  | vxCvt (a : CoreAt) (o : VxOp)
  | vxCvtmx (a : CoreAt) (o : VxOp)
  | vxRsum (a : CoreAt) (o : VxOp)
  | vxRmin (a : CoreAt) (o : VxOp)
  | vxRmax (a : CoreAt) (o : VxOp)
  | vxGath (a : CoreAt) (o : VxOp)
  | vxScat (a : CoreAt) (o : VxOp)
  | vxScatadd (a : CoreAt) (o : VxOp)
  | sxAdd (a : CoreAt) (o : SxOp)
  | sxSub (a : CoreAt) (o : SxOp)
  | sxMul (a : CoreAt) (o : SxOp)
  | sxAnd (a : CoreAt) (o : SxOp)
  | sxOr (a : CoreAt) (o : SxOp)
  | sxXor (a : CoreAt) (o : SxOp)
  | sxShl (a : CoreAt) (o : SxOp)
  | sxShr (a : CoreAt) (o : SxOp)
  | sxSra (a : CoreAt) (o : SxOp)
  | sxSel (a : CoreAt) (o : SxOp)
  | sxMov (a : CoreAt) (o : SxOp)
  | sxLui (a : CoreAt) (o : SxOp)
  | sxMin (a : CoreAt) (o : SxOp)
  | sxMax (a : CoreAt) (o : SxOp)
  | sxCmpeq (a : CoreAt) (o : SxOp)
  | sxCmpne (a : CoreAt) (o : SxOp)
  | sxCmplt (a : CoreAt) (o : SxOp)
  | sxCmple (a : CoreAt) (o : SxOp)
  | sxCmpltu (a : CoreAt) (o : SxOp)
  | sxCmpleu (a : CoreAt) (o : SxOp)
  | sxFadd (a : CoreAt) (o : SxOp)
  | sxFmul (a : CoreAt) (o : SxOp)
  | sxFfma (a : CoreAt) (o : SxOp)
  | sxCvtf (a : CoreAt) (o : SxOp)
  | sxCvti (a : CoreAt) (o : SxOp)
  | kvcmd (a : CoreAt) (o : SxOp)
  | ldl (a : CoreAt) (o : LdlOp)
  | ldx (a : CoreAt) (o : IdxOp)
  | atom (a : CoreAt) (o : AtomOp)
  | stl (a : CoreAt) (o : StlOp)
  | stx (a : CoreAt) (o : IdxOp)
  | ldstRequestIssue (a : CoreAt) (e : Engine) (u : Upsets)
  | lineLand (a : CoreAt) (req : Nat) (fails : Fin 5) (failing : BitVec 16) (u : Upsets)
  | storeAck (a : CoreAt) (req : Nat)
  | requestErrorAnswer (a : CoreAt) (req : Nat)
  | retryLaterResend (a : CoreAt) (req : Nat)
  | nlSend (a : CoreAt) (o : NlOp)
  | linkLineLand (a : CoreAt) (d : Dir) (failing : BitVec 16)
  | linkCreditReturn (a : CoreAt) (d : Dir)
  | fxWait (a : CoreAt) (flag : Fin 128) (v : Bool) (gate : Engine)
  | fxWaitc (a : CoreAt) (flag : Fin 128) (gate : Engine)
  | fxSet (a : CoreAt) (flag : Fin 128) (after : BitVec 6)
  | fxClr (a : CoreAt) (flag : Fin 128) (after : BitVec 6)
  | fxSignal (a : CoreAt) (target : Fin 256) (flag : Fin 64) (after : BitVec 6)
  | tickEnd (a : CoreAt)
  | fxEntryComplete (a : CoreAt) (ix : Fin 32)
  | rowFlagTest (r : RowAt)
  | signalDeliver (a : CoreAt) (flag : Fin 64)
  | tickEndComplete (a : CoreAt)
  | startToken (st : StackIx) (t : Token)
  | doneToken (st : StackIx) (t : Token)
  | goToken (st : StackIx) (t : Token)
  | abortToken (st : StackIx) (t : Token)
  | tickDoneSend (st : StackIx) (late : Nat) (bad : List Nat)
  | tickStart (st : StackIx) (m : TickMeasure)
  | tickOverrun (st : StackIx)
  | tickClose (st : StackIx)
  | pantryRequestArrive (a : CoreAt) (e : Engine) (t : Nat)
  | pantryWindowClose (r : RowAt) (t : Nat)
  | pantryPortIssue (r : RowAt) (t : Nat)
  | pantrySlotTake (r : RowAt) (t : Nat)
  | pantrySubbankGrant (st : StackIx) (b : RowIx) (k : Fin 16) (u : Upsets)
  | glazeDeliver (r : RowAt) (fails : Fin 5) (failing : BitVec 16)
  | vaultRequestArrive (p : SiteAt) (id : Nat) (t : Nat)
  | vaultGrant (p : SiteAt) (t : Nat) (u : DramUpsets)
  | columnTransferDone (p : SiteAt) (fails : Fin 5) (failing : BitVec 16)
  | topAccessComplete (st : StackIx) (a : AccessUpsets)
  | rateWindowStart (p : SiteAt) (t : Nat)
  | refreshDue (p : SiteAt) (bank : Fin 16) (layer : Fin 8) (t : Nat)
  | sliceBankGrant (a : CoreAt) (b : Fin 16) (u : Upsets)
  | softRowRepair (p : SiteAt) (x : RowFail)
  | softGroupRepair (p : SiteAt) (x : TileFail)
  | nbuEntryStart (p : SiteAt)
  | nbuRowOpComplete (p : SiteAt) (fails : Fin 5) (failing : BitVec 16)
  | nbuMatvec (p : SiteAt) (x : NbuEntry)
  | nbuRsum (p : SiteAt) (x : NbuEntry)
  | nbuRmin (p : SiteAt) (x : NbuEntry)
  | nbuRmax (p : SiteAt) (x : NbuEntry)
  | nbuEadd (p : SiteAt) (x : NbuEntry)
  | nbuEmul (p : SiteAt) (x : NbuEntry)
  | nbuEmin (p : SiteAt) (x : NbuEntry)
  | nbuEmax (p : SiteAt) (x : NbuEntry)
  | nbuEaxpy (p : SiteAt) (x : NbuEntry)
  | nbuEscal (p : SiteAt) (x : NbuEntry)
  | nbuScatadd (p : SiteAt) (x : NbuEntry)
  | nbuCvt (p : SiteAt) (x : NbuEntry)
  | nbuLoad (st : StackIx) (c : CmdRef)
  | nbuRun (st : StackIx) (c : CmdRef)
  | nbuGetState (st : StackIx) (c : CmdRef)
  | kvPoolConfig (st : StackIx) (src : KvSource)
  | kvSeqCreate (st : StackIx) (src : KvSource)
  | kvStepReserve (st : StackIx) (src : KvSource)
  | kvFork (st : StackIx) (src : KvSource)
  | kvFree (st : StackIx) (src : KvSource)
  | kvSetEviction (st : StackIx) (src : KvSource)
  | kvAppend (st : StackIx) (src : KvSource)
  | kvCommit (st : StackIx) (src : KvSource)
  | kvGetSeq (st : StackIx) (src : KvSource)
  | kvAgentTake (r : RowAt)
  | kvPhase (st : StackIx)
  | rd (l : LinkAt) (k : Packet)
  | wr (l : LinkAt) (k : Packet)
  | wrm (l : LinkAt) (k : Packet)
  | atomPacket (l : LinkAt) (k : Packet)
  | rdRsp (l : LinkAt) (k : Packet)
  | wrAck (l : LinkAt) (k : Packet)
  | atomRsp (l : LinkAt) (k : Packet)
  | errRsp (l : LinkAt) (k : Packet)
  | cmd (l : LinkAt) (k : Packet)
  | cmdRpl (l : LinkAt) (k : Packet)
  | nodeDown (l : LinkAt) (k : Packet)
  | mcWr (l : LinkAt) (k : Packet)
  | mcAck (l : LinkAt) (k : Packet)
  | mcDrop (l : LinkAt) (k : Packet)
  | mcTimeout (l : LinkAt)
  | collUp (l : LinkAt) (k : Packet)
  | collDown (l : LinkAt) (k : Packet)
  | packetForward (l : LinkAt) (k : Packet)
  | dataSlotReceive (l : LinkAt) (x : WireSlot)
  | ack (l : LinkAt) (seq : BitVec 24)
  | nak (l : LinkAt) (seq : BitVec 24)
  | credit (l : LinkAt) (cls : Fin 4) (freed : BitVec 16)
  | linkDown (l : LinkAt)
  | linkLockLoss (l : LinkAt)
  | linkAckTimeout (l : LinkAt)
  | reqTimeout (st : StackIx) (tag : BitVec 14)
  | ivtLostWrite (st : StackIx) (n : Fin 1024) (v : Word)
  | ivtRouteWrite (st : StackIx) (n : Fin 4096) (v : Word)
  | registerWrite (st : StackIx) (off : BitVec 24) (v : Word)
  | cmdAssemblyTimeout (st : StackIx) (src : BitVec 16) (tag : BitVec 32)
  | commandStart (st : StackIx) (c : CmdRef)
  | identify (st : StackIx) (c : CmdRef)
  | getState (st : StackIx) (c : CmdRef)
  | resetDomain (st : StackIx) (c : CmdRef)
  | quiesce (st : StackIx) (c : CmdRef)
  | write (st : StackIx) (c : CmdRef)
  | read (st : StackIx) (c : RefUpsets)
  | fill (st : StackIx) (c : CmdRef)
  | copy (st : StackIx) (c : RefUpsets)
  | scrub (st : StackIx) (c : CmdRef)
  | setRegionTag (st : StackIx) (c : CmdRef)
  | getRegionTag (st : StackIx) (c : CmdRef)
  | repairCommit (st : StackIx) (c : CmdRef)
  | loadImem (st : StackIx) (c : CmdRef)
  | jobAdmit (st : StackIx) (c : CmdRef)
  | domainJoin (st : StackIx) (c : CmdRef)
  | jobStart (st : StackIx) (c : CmdRef)
  | jobAbort (st : StackIx) (c : CmdRef)
  | partitionSet (st : StackIx) (c : CmdRef)
  | partitionDisable (st : StackIx) (c : CmdRef)
  | partitionEnable (st : StackIx) (c : CmdRef)
  | setLatencyTolerance (st : StackIx) (c : CmdRef)
  | setCap (st : StackIx) (c : CmdRef)
  | phaseOpp (st : StackIx) (c : CmdRef)
  | phaseForecast (st : StackIx) (c : CmdRef)
  | enterCold (st : StackIx) (c : CmdRef)
  | faultRead (st : StackIx) (c : CmdRef)
  | faultAck (st : StackIx) (c : CmdRef)
  | faultInject (st : StackIx) (c : CmdRef)
  | attest (st : StackIx) (c : CmdRef)
  | licenceInstall (st : StackIx) (c : CmdRef)
  | fwStage (st : StackIx) (c : CmdRef)
  | fwActivate (st : StackIx) (c : CmdRef)
  | fwFetch (st : StackIx) (c : CmdRef)
  | expectTopology (st : StackIx) (c : CmdRef)
  | getTopology (st : StackIx) (c : CmdRef)
  | setNodeId (st : StackIx) (c : CmdRef)
  | faultRecordArrive (st : StackIx)
  | errorWire (st : StackIx) (w : ErrorWire)
  | migrationComplete (a : CoreAt)
  | coilTest (p : SiteAt) (x : CoilTest)
  | capCheck (st : StackIx) (draw : Nat)
  | oppChangeComplete (st : StackIx)
  | meringueAdjust (st : StackIx) (draw : Nat)
  | arbiterPeriod (vin : Nat) (draws : Quad Nat)
  | grantArrive (st : StackIx)
  | grantWait (st : StackIx)
  | idleChoose (st : StackIx) (next : Option Nat)
  | idleExitComplete (st : StackIx)
  | sensorSample (st : StackIx) (x : List SensorSample)
  | thermalUpdate (st : StackIx) (x : DiePower)
  | governorUpdate (st : StackIx)
  | thermalModelUpdate (st : StackIx) (die : Die) (power : Nat)
  | thermtrip (st : StackIx)
  | coolantSample (x : Coolant)
  | coolantMessageRepeat (m : Fin 3)
  | coolantDerateLift (m : Fin 2)
  | coolantStopDeadline
  | coolantHoldEnd
  | romComplete (st : StackIx) (x : RomSample)
  | verifyComplete (st : StackIx) (x : VerifyFrom)
  | fwFetchTimeout (st : StackIx)
  | proofingComplete (st : StackIx) (x : Proofing)
  | packageRecord (l : LinkAt) (x : PackageRec)
  | neighbourProbe (l : LinkAt) (k : Packet)
  | probeTimeout (l : LinkAt)
  | topologyCompare (st : StackIx)
  | baseResetEnd (st : StackIx)
  | resetComplete (st : StackIx) (d : ResetDomain)
  | watchdogExpiry (st : StackIx)
  | leafReservation (st : StackIx)
  | flashImageWrite (st : StackIx)
  | housekeepingStart (slotId : BitVec 6)
  | pwrEnAssert
  | pwrEnDeassert
  | attnL
  | quiesceAbortTimeout
  | quiesceLinkStop (st : StackIx)
  | inputUndervoltage
  | inputOvervoltage
  | inputOvercurrent
  | inputRestore
  | refclkLoss
  | refclkReturn
  | mctpMessage (m : List Byte)
  | setEndpointId (eid : Byte)
  | getEndpointId
  | getMctpVersionSupport
  | getMessageTypeSupport
  | pldmBase (code : Byte) (body : List Byte)
  | pldmSensorRead (sensor : Nat)
  | requestFirmwareData (chunk : FwChunk)
  | activateFirmware
  | pwrGood
  | removeIndicator
  | aclkRestart (st : StackIx)
  | linkRetrain (l : LinkAt)
  | inTileRowOpDone (p : SiteAt) (u : DramUpsets)
  | fuseBurn (st : StackIx)
  | tagReuse (st : StackIx) (tag : BitVec 14)
  | setdasa (addr : BitVec 7)
  | entdaa (addr : BitVec 7)
  | eventReceiver (eid : Byte)
  deriving DecidableEq, Repr

end Sys2Proof
end

