-- ==== Sys2Proof/Decode.lean ====
section
/-! DEFINITION. The decoding of a command from a word. opcode_table.json gives no bits to any row (every row's list of
fields is empty and it carries no code), so no word spells a command. -/

namespace Sys2Proof

/-- The command a word spells: none, since no row of the table has bits (log 1). -/
def decodeTableWord (_nbits _w : Nat) : Option Instr := none

end Sys2Proof
end

