-- ==== Sys2Proof/Machine/Regs.lean ====
section
/-! DEFINITION. The control window: the offset of every register (R12 and the register rules of each chapter) and the
value each holds at reset. Offsets are within the 16 MiB window of one stack. -/

namespace Sys2Proof.Machine

/-! ### Offsets -/

def rIdPosition : Nat := 0x100
def rIdGeometry : Nat := 0x108
def rIdRowMap (n : Nat) : Nat := 0x140 + n * 8

def rTckConfig : Nat := 0x10000
def rTckXchg : Nat := 0x10008
def rTckDomain : Nat := 0x10010
def rTckNumber : Nat := 0x10018
def rTckStatus : Nat := 0x10020
def rTckOverrun : Nat := 0x10028
def rTckStallLog (n : Nat) : Nat := 0x10040 + n * 8

def rCore (c off : Nat) : Nat := 0x400000 + c * 0x1000 + off
def rCoreState (c : Nat) : Nat := rCore c 0x0
def rCoreFault (c : Nat) : Nat := rCore c 0x8
def rCoreImem (c : Nat) : Nat := rCore c 0x10
def rCoreFlags (c : Nat) : Nat := rCore c 0x18
def rDqCfg (c n : Nat) : Nat := rCore c (0x100 + n * 8)
def rDqStat (c n : Nat) : Nat := rCore c (0x180 + n * 8)
def rCrustCfg (c : Nat) : Nat := rCore c 0x200
def rCrustStat (c : Nat) : Nat := rCore c 0x208
def rCrustLog (c : Nat) : Nat := rCore c 0x210
def rNlStat (c : Nat) : Nat := rCore c 0x220

def rVlt (p off : Nat) : Nat := 0x100000 + p * 0x1000 + off
def rVltStatus (p : Nat) : Nat := rVlt p 0x0
def rVltRate (p : Nat) : Nat := rVlt p 0x8
def rVltCount (p : Nat) : Nat := rVlt p 0x10
def rVltWait (p : Nat) : Nat := rVlt p 0x18
def rVltSpares (p : Nat) : Nat := rVlt p 0x20
def rVltEcc (p : Nat) : Nat := rVlt p 0x28
def rVltEccLog (p : Nat) : Nat := rVlt p 0x30
def rVltSoftRepair (p n : Nat) : Nat := rVlt p (0x800 + n * 8)

def rPwrLimit : Nat := 0x20000
def rPwrStatus : Nat := 0x20008
def rPwrIdle : Nat := 0x20010
def rPwrOpp (n : Nat) : Nat := 0x20800 + n * 8
def rPwrTag (n : Nat) : Nat := 0x21000 + n * 8
def rThmCfg : Nat := 0x30000
def rThmCoolant : Nat := 0x30008
def rThmAllow : Nat := 0x30010
def rThmHot (n : Nat) : Nat := 0x30100 + n * 8

def rFltStatus : Nat := 0x40000
def rFltCfg : Nat := 0x40008
def rFltRepairCfg : Nat := 0x40010
def rFltBlock (n : Nat) : Nat := 0x40040 + n * 8
def rFltRowPend (n : Nat) : Nat := 0x400C0 + n * 8
def rFltSev (n : Nat) : Nat := 0x40100 + n * 8
def rFltPoisonSev : Nat := 0x40200

def rNbu (p off : Nat) : Nat := 0x200000 + p * 0x1000 + off
def rNbuCfg (p : Nat) : Nat := rNbu p 0x0
def rNbuStatus (p : Nat) : Nat := rNbu p 0x8
def rNbuCount (p : Nat) : Nat := rNbu p 0x10
def rNbuLog (p : Nat) : Nat := rNbu p 0x18

def rKvePool : Nat := 0x300000
def rKveSeqtab : Nat := 0x300008
def rKveCfg : Nat := 0x300010
def rKveStatus : Nat := 0x300018
def rKveCount : Nat := 0x300020
def rKveLog : Nat := 0x300028
def rKveClass (n : Nat) : Nat := 0x300100 + n * 8
def rKveFree (n : Nat) : Nat := 0x300180 + n * 8

def rIvtNode : Nat := 0x80000
def rIvtCredit : Nat := 0x80010
def rIvtCfg : Nat := 0x80018
def rIvtInflight : Nat := 0x80020
def rIvtHopsCnt : Nat := 0x80028
def rIvtLink (n : Nat) : Nat := 0x80100 + n * 8
def rIvtLinkCnt (n : Nat) : Nat := 0x80140 + n * 8
def rIvtMcLog : Nat := 0x80200
def rIvtMcMiss (n : Nat) : Nat := 0x80208 + n * 8
def rIvtMcgrpA (n : Nat) : Nat := 0x90000 + n * 16
def rIvtMcgrpB (n : Nat) : Nat := 0x90008 + n * 16
def rIvtLost (n : Nat) : Nat := 0xA0000 + n * 8
def rIvtRoute (n : Nat) : Nat := 0xC0000 + n * 8

def rSecFuse : Nat := 0x600000
def rSecFw : Nat := 0x600008
def rSecLeaf : Nat := 0x600010
def rSecLicence : Nat := 0x600018
def rBruState : Nat := 0x700000
def rBruReset : Nat := 0x700008
def rBruTime : Nat := 0x700010

/-! ### Fault sources (Table 16.2, R515) -/

/-- The severity codes (R513). -/
def sevLog : Nat := 0
def sevCorrected : Nat := 1
def sevJob : Nat := 2
def sevStack : Nat := 3
def sevModule : Nat := 4

/-- Whether Table 16.2 lists a source. -/
def sourceListed (n : Nat) : Bool :=
  decide (1 ≤ n ∧ n ≤ 6) || decide (0x10 ≤ n ∧ n ≤ 0x13) || decide (0x20 ≤ n ∧ n ≤ 0x2D)
    || decide (0x40 ≤ n ∧ n ≤ 0x4B) || decide (0x50 ≤ n ∧ n ≤ 0x54) || decide (0x60 ≤ n ∧ n ≤ 0x65)
    || decide (0x70 ≤ n ∧ n ≤ 0x79) || decide (0x80 ≤ n ∧ n ≤ 0x83)

/-- Whether another register holds a source's severity (Table 16.2). -/
def sourceElsewhere (n : Nat) : Bool :=
  decide (0x10 ≤ n ∧ n ≤ 0x13) || decide (n = 0x21) || decide (n = 0x4B) || decide (n = 0x54) || decide (n = 0x75)

/-- The default severity of a source (Table 16.2). -/
def sourceDefault (n : Nat) : Nat :=
  if n = 1 then sevJob
  else if n = 4 ∨ n = 0x20 ∨ n = 0x2D ∨ (0x40 ≤ n ∧ n ≤ 0x44) ∨ n = 0x60 ∨ n = 0x73 ∨ n = 0x74 then sevCorrected
  else if n = 0x78 ∨ n = 0x79 then sevModule
  else if (0x11 ≤ n ∧ n ≤ 0x13) ∨ (0x21 ≤ n ∧ n ≤ 0x2C) ∨ (0x48 ≤ n ∧ n ≤ 0x4B) ∨ (0x50 ≤ n ∧ n ≤ 0x54)
    ∨ n = 0x61 ∨ n = 0x62 ∨ n = 0x75 ∨ n = 0x80 then sevJob
  else sevLog

/-- The reset value of FLT_SEVn: the defaults of the listed sources that it holds (R541). -/
def fltSevReset (n : Nat) : Nat :=
  (List.range 16).foldl (fun acc j =>
    let src := 16 * n + j
    if sourceListed src && !sourceElsewhere src then acc + sourceDefault src * 2 ^ (4 * j) else acc) 0

/-! ### Reset values -/

/-- The value a register holds at reset, by its offset (the reset columns of the register tables; 0 where a table
gives 0 or no register lies at the offset). The crust registers are those of the M-cores, which have the crust: at a V-core or an
S-core their offsets hold no register (R136; DESIGN CHOICE, log 7). -/
def resetValue (off : Nat) : Word :=
  bv 64 (
    if 0x140 ≤ off ∧ off < 0x180 then 0x71F
    else if off = rTckConfig then 0x000000004002010D
    else if 0x400000 ≤ off ∧ off < 0x480000 then (if off % 0x1000 = 0x200 then 0x202 else 0)
    else if 0x100000 ≤ off ∧ off < 0x1B8000 then (if off % 0x1000 = 8 then 0x400 else 0)
    else if off = rFltPoisonSev then 0x12492
    else if off = rFltCfg then 2
    else if off = rFltRepairCfg then 0x00400401
    else if 0x40100 ≤ off ∧ off < 0x40180 then fltSevReset ((off - 0x40100) / 8)
    else if off = rKveCfg then 2
    else if off = rIvtNode then 0xFFFFFFFF0000FFFF
    else if off = rIvtCredit then 0x007D000400000100
    else if off = rIvtCfg then 0x00640000000007D0
    else if 0xC0000 ≤ off ∧ off < 0xC8000 then 0xFFFFFFFFFFFFFFFF
    else if off = rPwrLimit then 0x0898019000000208
    else if off = rPwrIdle then 0x00050000000186A0
    else if 0x20800 ≤ off ∧ off < 0x21000 then 0x500
    else if off = rThmCfg then 0x00320A0000000002
    else if off = rThmCoolant then 0x0000000000800000
    else 0)

/-! ### Fields -/

/-- The field of `w` bits of a word from bit `lo`. -/
def fld (x : Word) (lo w : Nat) : Nat := x.toNat / 2 ^ lo % 2 ^ w

/-- The word with the field of `w` bits from bit `lo` replaced. -/
def setFld (x : Word) (lo w v : Nat) : Word :=
  bv 64 (x.toNat - fld x lo w * 2 ^ lo + (v % 2 ^ w) * 2 ^ lo)

/-- A saturating field: `v` added, held at its maximum. -/
def addSat (x : Word) (lo w v : Nat) : Word := setFld x lo w (min (2 ^ w - 1) (fld x lo w + v))

end Sys2Proof.Machine
end

