-- ==== Sys2Proof/Config.lean ====
section
/-! DEFINITION. What the manual leaves to the implementation or to another standard: constants and functions
WITHOUT a body, so that no proof can see what they are. Each is named in the assumption log. -/

namespace Sys2Proof.Config

/-- The correctly rounded value of a function of Table 5.2 where the interval evaluation of
`Machine/Real.lean` runs out of precision (log 9): an unstated value, function code and argument bits. -/
opaque vxUnresolved : Nat → BitVec 32 → BitVec 32

/-- The value `k` of a random draw of the stack (the LM-OTS randomizer of a level-1 signature, R550): the
`k`-th free value (log 8). -/
opaque freeWord : Nat → BitVec 256

/-- ROOT_HASH and ROM_HASH, fixed at mask design (Table 17.2; log 8). -/
opaque rootHash : BitVec 256
opaque romHash : BitVec 256

/-- ID_SEED and ID_I of each stack, burnt at manufacture (Table 17.2; log 8). -/
opaque idSeed : Nat → BitVec 256
opaque idI : Nat → BitVec 128

/-- The vendor's signature in the identity certificate of each stack (R550; log 8). -/
opaque certSignature : Nat → List Byte

/-- The module serial, SERIAL (Table 17.2; log 8). -/
opaque serial : BitVec 64

/-- The decay factor `e^(-x)` of R472 and R473 as the controller rounds it, which the manual does not state (log 11). -/
opaque decay : Rat → Rat

/-- The weights of the activity count, fixed per stack at manufacture (R450; log 11): by stack index, of a MAC step (0), a lane operation (1), a line
access (2). -/
opaque activityWeight : Nat → Nat → Nat

/-- The firmware image that module flash holds when the module is delivered (R544, R546; log 24). -/
opaque shippedImage : List Byte

/-- The body of a PLDM or MCTP control response that another standard fixes (R578, R580; log 12): the code of the
request and its bytes. -/
opaque sidebandBody : Nat → List Byte → List Byte

/-- A value that the manual leaves unstated where the machine goes on: the number of its log entry and the cycle at which
it arises. Free: nothing constrains it (log 20 and every entry that names it). -/
opaque unstated : Nat → Nat → Nat

end Sys2Proof.Config
end

