-- ==== Sys2Proof/Machine/Hss.lean ====
section
/-! DEFINITION. Lists of bytes, and the algorithms of trust (17): SHA-256, the signatures LMS and HSS of RFC 8554 with the parameter sets of
Table 17.1, and the identity of a stack as its fuses give it (R542, R543, R550). -/

namespace Sys2Proof.Machine
open Sys2Proof

/-! ### Numbers as bytes (R7) -/

/-- The number of a list of bytes, little-endian. -/
def bytesNat (bs : List Byte) : Nat := bs.foldr (fun b acc => b.toNat + 256 * acc) 0

/-- The `n` little-endian bytes of a number. -/
def natBytes (n v : Nat) : List Byte := (List.range n).map (fun i => bv 8 (v / 256 ^ i))

/-- The big-endian strings of RFC 8554: a number of 16 or 32 bits as its bytes, and the number of a list of bytes. -/
def u16str (n : Nat) : List Byte := (natBytes 2 n).reverse
def u32str (n : Nat) : List Byte := (natBytes 4 n).reverse
def strNat (bs : List Byte) : Nat := bytesNat bs.reverse

/-! ### SHA-256 (FIPS 180-4, R542; log 8) -/

/-- The round constants. -/
def shaK : List (BitVec 32) :=
  [0x428a2f98, 0x71374491, 0xb5c0fbcf, 0xe9b5dba5, 0x3956c25b, 0x59f111f1, 0x923f82a4, 0xab1c5ed5]
  ++ [0xd807aa98, 0x12835b01, 0x243185be, 0x550c7dc3, 0x72be5d74, 0x80deb1fe, 0x9bdc06a7, 0xc19bf174]
  ++ [0xe49b69c1, 0xefbe4786, 0x0fc19dc6, 0x240ca1cc, 0x2de92c6f, 0x4a7484aa, 0x5cb0a9dc, 0x76f988da]
  ++ [0x983e5152, 0xa831c66d, 0xb00327c8, 0xbf597fc7, 0xc6e00bf3, 0xd5a79147, 0x06ca6351, 0x14292967]
  ++ [0x27b70a85, 0x2e1b2138, 0x4d2c6dfc, 0x53380d13, 0x650a7354, 0x766a0abb, 0x81c2c92e, 0x92722c85]
  ++ [0xa2bfe8a1, 0xa81a664b, 0xc24b8b70, 0xc76c51a3, 0xd192e819, 0xd6990624, 0xf40e3585, 0x106aa070]
  ++ [0x19a4c116, 0x1e376c08, 0x2748774c, 0x34b0bcb5, 0x391c0cb3, 0x4ed8aa4a, 0x5b9cca4f, 0x682e6ff3]
  ++ [0x748f82ee, 0x78a5636f, 0x84c87814, 0x8cc70208, 0x90befffa, 0xa4506ceb, 0xbef9a3f7, 0xc67178f2]

/-- The initial hash value. -/
def shaInit : List (BitVec 32) :=
  [0x6a09e667, 0xbb67ae85, 0x3c6ef372, 0xa54ff53a, 0x510e527f, 0x9b05688c, 0x1f83d9ab, 0x5be0cd19]

def rotr (x : BitVec 32) (n : Nat) : BitVec 32 := (x >>> n) ||| (x <<< (32 - n))

/-- A 32-bit word from four bytes, the first most significant. -/
def beWord (bs : List Byte) : BitVec 32 := bs.foldl (fun w b => (w <<< 8) ||| b.setWidth 32) 0

/-- The bytes of a 32-bit word, the most significant first. -/
def wordBe (w : BitVec 32) : List Byte := (natBytes 4 w.toNat).reverse

/-- The message schedule extended to 64 words; the words are held newest first. -/
def shaExtend : Nat → List (BitVec 32) → List (BitVec 32)
  | 0, ws => ws
  | n + 1, ws =>
    let a := ws.getD 14 0
    let b := ws.getD 1 0
    let s0 := rotr a 7 ^^^ rotr a 18 ^^^ (a >>> 3)
    let s1 := rotr b 17 ^^^ rotr b 19 ^^^ (b >>> 10)
    shaExtend n ((ws.getD 15 0 + s0 + ws.getD 6 0 + s1) :: ws)

/-- One round on the eight working variables. -/
def shaRound (v : List (BitVec 32)) (kw : BitVec 32) : List (BitVec 32) :=
  match v with
  | [a, b, c, d, e, f, g, h] =>
    let t1 := h + (rotr e 6 ^^^ rotr e 11 ^^^ rotr e 25) + ((e &&& f) ^^^ (~~~e &&& g)) + kw
    let t2 := (rotr a 2 ^^^ rotr a 13 ^^^ rotr a 22) + ((a &&& b) ^^^ (a &&& c) ^^^ (b &&& c))
    [t1 + t2, a, b, c, d + t1, e, f, g]
  | v => v

/-- One block of 64 bytes. -/
def shaBlock (h : List (BitVec 32)) (bs : List Byte) : List (BitVec 32) :=
  let w := (List.range 16).map (fun i => beWord ((bs.drop (4 * i)).take 4))
  let ws := (shaExtend 48 w.reverse).reverse
  let v := (shaK.zip ws).foldl (fun v e => shaRound v (e.1 + e.2)) h
  List.zipWith (· + ·) h v

/-- The blocks of a padded message. -/
def shaBlocks : Nat → List (BitVec 32) → List Byte → List (BitVec 32)
  | 0, h, _ => h
  | n + 1, h, bs => shaBlocks n (shaBlock h (bs.take 64)) (bs.drop 64)

/-- SHA-256 of a list of bytes. -/
def sha256 (m : List Byte) : List Byte :=
  let n := m.length
  let blocks := (n + 9 + 63) / 64
  let padded := m ++ [0x80#8] ++ List.replicate (64 * blocks - n - 9) 0 ++ (natBytes 8 (8 * n)).reverse
  (shaBlocks blocks shaInit padded).flatMap wordBe

/-- A hash held as a number, as its bytes. -/
def hashBytes (h : BitVec 256) : List Byte := (natBytes 32 h.toNat).reverse

/-! ### LM-OTS with parameter set LMOTS_SHA256_N32_W8 (RFC 8554 section 4; Table 17.1) -/

/-- A list of bytes cut into `n` strings of 32. -/
def hashParts (n : Nat) (bs : List Byte) : List (List Byte) := (List.range n).map (fun i => (bs.drop (32 * i)).take 32)

/-- `n` steps of Winternitz chain `i` of leaf `q`, from step `a` on. -/
def otsChain (I : List Byte) (q i : Nat) (a n : Nat) (t : List Byte) : List Byte :=
  match n with
  | 0 => t
  | n + 1 => otsChain I q i (a + 1) n (sha256 (I ++ u32str q ++ u16str i ++ [bv 8 a] ++ t))

/-- The digits of a message: the bytes of its hash, then those of the checksum. -/
def otsDigits (I : List Byte) (q : Nat) (c msg : List Byte) : List Nat :=
  let h := sha256 (I ++ u32str q ++ u16str 0x8181 ++ c ++ msg)
  let sum := h.foldl (fun n b => n + (255 - b.toNat)) 0
  (h ++ u16str sum).map (fun b => b.toNat)

/-- The hash of the ends of the chains: the LM-OTS public key. -/
def otsKey (I : List Byte) (q : Nat) (ends : List (List Byte)) : List Byte := sha256 (I ++ u32str q ++ u16str 0x8080 ++ ends.flatten)

/-- The public key that a signature of a message leads to. -/
def otsCandidate (I : List Byte) (q : Nat) (c msg : List Byte) (ys : List (List Byte)) : List Byte :=
  otsKey I q (((otsDigits I q c msg).zip ys).zipIdx.map (fun e => otsChain I q e.2 e.1.1 (255 - e.1.1) e.1.2))

/-- The private value of chain `i` of leaf `q` (RFC 8554 Appendix A). -/
def otsPrivate (I seed : List Byte) (q i : Nat) : List Byte := sha256 (I ++ u32str q ++ u16str i ++ [0xFF#8] ++ seed)

/-- The public key of leaf `q`, and its signature of a message with randomizer `c`. -/
def otsPublic (I seed : List Byte) (q : Nat) : List Byte :=
  otsKey I q ((List.range 34).map (fun i => otsChain I q i 0 255 (otsPrivate I seed q i)))
def otsSign (I seed : List Byte) (q : Nat) (c msg : List Byte) : List Byte :=
  u32str 4 ++ c ++ (otsDigits I q c msg).zipIdx.flatMap (fun e => otsChain I q e.2 0 e.1 (otsPrivate I seed q e.2))

/-! ### LMS (RFC 8554 section 5): `h` is the height of the tree, `ty` its type code -/

/-- The values of a leaf and of an inner node of a tree, by node number. -/
def lmsLeaf (I : List Byte) (r : Nat) (k : List Byte) : List Byte := sha256 (I ++ u32str r ++ u16str 0x8282 ++ k)
def lmsInner (I : List Byte) (r : Nat) (a b : List Byte) : List Byte := sha256 (I ++ u32str r ++ u16str 0x8383 ++ a ++ b)

/-- The value at the root that the value of node `r` and its path lead to. -/
def lmsClimb (I : List Byte) (path : List (List Byte)) (r : Nat) (t : List Byte) : List Byte :=
  match path with
  | [] => t
  | p :: ps => lmsClimb I ps (r / 2) (if r % 2 = 1 then lmsInner I (r / 2) p t else lmsInner I (r / 2) t p)

/-- The length of an LMS signature: 1,772 bytes for H20, 1,612 for H15. -/
def lmsLength (h : Nat) : Nat := 1132 + 32 * h

/-- Whether an LMS signature of a message verifies under a public key of 56 bytes. -/
def lmsVerify (h ty : Nat) (key msg sig : List Byte) : Bool :=
  let I := (key.drop 8).take 16
  let q := strNat (sig.take 4)
  decide (key.length = 56 ∧ key.take 4 = u32str ty ∧ (key.drop 4).take 4 = u32str 4) &&
  decide (sig.length = lmsLength h ∧ (sig.drop 4).take 4 = u32str 4 ∧ (sig.drop 1128).take 4 = u32str ty ∧ q < 2 ^ h) &&
  decide (lmsClimb I (hashParts h (sig.drop 1132)) (2 ^ h + q)
      (lmsLeaf I (2 ^ h + q) (otsCandidate I q ((sig.drop 8).take 32) msg (hashParts 34 (sig.drop 40)))) = key.drop 24)

/-- The value of node `r` at height `k` above the leaves of a tree. -/
def lmsTree (h : Nat) (I seed : List Byte) (k r : Nat) : List Byte :=
  match k with
  | 0 => lmsLeaf I r (otsPublic I seed (r - 2 ^ h))
  | k + 1 => lmsInner I r (lmsTree h I seed k (2 * r)) (lmsTree h I seed k (2 * r + 1))

/-- The public key of a tree, and its signature of a message with leaf `q`. -/
def lmsPublic (h ty : Nat) (I seed : List Byte) : List Byte := u32str ty ++ u32str 4 ++ I ++ lmsTree h I seed h 1
def lmsSign (h ty : Nat) (I seed : List Byte) (q : Nat) (c msg : List Byte) : List Byte :=
  u32str q ++ otsSign I seed q c msg ++ u32str ty ++ (List.range h).flatMap (fun i => lmsTree h I seed i (((2 ^ h + q) / 2 ^ i) ^^^ 1))

/-! ### HSS with two levels (RFC 8554 section 6; Table 17.1) -/

/-- Whether an HSS signature of a message verifies under a public key of 60 bytes. -/
def hssVerify (h ty : Nat) (key msg sig : List Byte) : Bool :=
  let m := lmsLength h
  let next := (sig.drop (4 + m)).take 56
  decide (key.take 4 = u32str 2 ∧ sig.take 4 = u32str 1 ∧ sig.length = 60 + 2 * m) &&
  lmsVerify h ty (key.drop 4) next ((sig.drop 4).take m) && lmsVerify h ty next msg (sig.drop (60 + m))

/-- A signature of the vendor: LMS_SHA256_M32_H20 at each level, 3,604 bytes. -/
def vendorVerify (key msg sig : List Byte) : Bool := hssVerify 20 8 key msg sig

/-- The level-0 leaf index q of an HSS signature (R543, R547). -/
def hssLeaf (sig : List Byte) : Nat := strNat ((sig.drop 4).take 4)

/-! ### The identity of a stack (R543, R550): LMS_SHA256_M32_H15 at each level -/

/-- ID_SEED and ID_I of stack `i` as bytes. -/
def idSeed (i : Nat) : List Byte := hashBytes (Config.idSeed i)
def idI (i : Nat) : List Byte := (natBytes 16 (Config.idI i).toNat).reverse

/-- ID_PUB: T[1] of the level-0 tree. -/
def idPub (i : Nat) : List Byte := lmsTree 15 (idI i) (idSeed i) 15 1

/-- The 60-byte identity public key: the level-0 public key that ID_PUB and ID_I form, under L = 2. -/
def identityKey (i : Nat) : List Byte := u32str 2 ++ u32str 7 ++ u32str 4 ++ idI i ++ idPub i

/-- MODULE_KEYS and MODULE_ID_HASH. -/
def moduleKey (i : Nat) : List Byte := sha256 (identityKey i)
def moduleIdHash : List Byte := sha256 ((List.range 4).flatMap moduleKey)

/-- What the seed of stack `i` gives for level-1 tree `j` under a last byte. -/
def idDerive (i j : Nat) (b : Byte) : List Byte := sha256 (idSeed i ++ idI i ++ u32str j ++ [b])

/-- I_j and SEED_j of a level-1 tree, and its public key. -/
def treeI (i j : Nat) : List Byte := (sha256 (idI i ++ u32str j ++ [0x01#8])).take 16
def treeSeed (i j : Nat) : List Byte := idDerive i j 0x02#8
def treeKey (i j : Nat) : List Byte := lmsPublic 15 7 (treeI i j) (treeSeed i j)

/-- The identity signature of stack `i` over a message with leaf `u`: 3,284 bytes. The level-0 signature of the level-1 key takes its randomizer
from the seed; that of the message takes `c`, a draw of the random number generator. -/
def identitySign (i u : Nat) (c : BitVec 256) (msg : List Byte) : List Byte :=
  let j := u / 32768
  u32str 1 ++ lmsSign 15 7 (idI i) (idSeed i) j (idDerive i j 0x03#8) (treeKey i j) ++ treeKey i j
    ++ lmsSign 15 7 (treeI i j) (treeSeed i j) (u % 32768) (hashBytes c) msg

/-- The certificate that a stack is delivered with: 3,684 bytes, the last 3,604 of them the vendor's signature. -/
def certificate (i : Nat) : List Byte :=
  identityKey i ++ natBytes 8 Config.serial.toNat ++ [bv 8 i] ++ List.replicate 11 0 ++ (List.range 3604).map (fun k => (Config.certSignature i).getD k 0)

end Sys2Proof.Machine
end

