-- ==== Sys2Proof/Machine/Table.lean ====
section
/-! DEFINITION. Sparse tables in one canonical form: a list of (key, value) pairs with strictly rising keys and no
entry equal to what an unlisted key reads as. Memory is such a table of bytes. Equal tables are equal data. -/

namespace Sys2Proof.Machine

/-- A sparse table. -/
abbrev Tbl (α : Type) := List (Nat × α)

/-- The entry of key `k`, if listed. -/
def tfind {α : Type} (t : Tbl α) (k : Nat) : Option α :=
  match t with
  | [] => none
  | (a, v) :: r => if a = k then some v else if k < a then none else tfind r k

/-- The value at key `k`; `d k` where it is not listed. -/
def tget {α : Type} (d : Nat → α) (t : Tbl α) (k : Nat) : α := (tfind t k).getD (d k)

/-- The table without key `k`. -/
def tdel {α : Type} (t : Tbl α) (k : Nat) : Tbl α :=
  match t with
  | [] => []
  | (a, v) :: r => if a = k then r else if k < a then (a, v) :: r else (a, v) :: tdel r k

/-- The table with `v` at key `k`, as a listed entry. -/
def tput {α : Type} (t : Tbl α) (k : Nat) (v : α) : Tbl α :=
  match t with
  | [] => [(k, v)]
  | (a, w) :: r => if a = k then (k, v) :: r else if k < a then (k, v) :: (a, w) :: r else (a, w) :: tput r k v

/-- The table with `v` at key `k`; a value equal to the default is not listed. -/
def tset {α : Type} [DecidableEq α] (d : Nat → α) (t : Tbl α) (k : Nat) (v : α) : Tbl α :=
  if v = d k then tdel t k else tput t k v

/-- Strictly rising keys, all at least `lo`. -/
def risingFrom {α : Type} (lo : Nat) (t : Tbl α) : Bool :=
  match t with
  | [] => true
  | (a, _) :: r => decide (lo ≤ a) && risingFrom (a + 1) r

/-- The canonical form. -/
def tblWf {α : Type} [DecidableEq α] (d : Nat → α) (t : Tbl α) : Bool :=
  risingFrom 0 t && t.all (fun e => decide (e.2 ≠ d e.1))

end Sys2Proof.Machine
end

