-- ==== Sys2Proof/Machine/State.lean ====
section
/-! DEFINITION. The state of the module: every register, queue, buffer, counter, mode and pin that the manual gives
it, as plain data; the queue of waiting commands; the reasons for which a step could stop; and the module at reset. -/

namespace Sys2Proof.Machine

/-! ### Cores (04, 05, 06, 07) -/

/-- The states of a core (R191). -/
inductive RunState
  | halted | running | faulted
  deriving DecidableEq, Repr

/-- An open loop of the sequencer (R214): where its body starts, its ENDLOOP, the times the body is still to run. -/
structure LoopFrame where
  body : Nat
  stop : Nat
  left : Nat
  deriving DecidableEq, Repr

/-- An entry of a data queue (R177): a line the consumer may read, or a line reserved by operation `uid` as its
line `i`, or pushed by it and not visible yet (R120). -/
inductive Slot
  | full
  | held (uid : Nat) (i : Nat)
  deriving DecidableEq, Repr

/-- A data queue (R174, R177, R179): the ring position of its head, its entries oldest first, the largest COUNT of the
job, the scalars popped of the head line, and the scalars written of the tail line with their poison. -/
structure DQ where
  head : Nat
  slots : List Slot
  high : Nat
  popped : Nat
  part : List (Word × Bool)
  deriving DecidableEq, Repr

/-- How far an operation has come: lines of its main operand read, lines written or pushed, the operand lines read and
not used yet, the output elements not yet in a line (code, poison), the scale bytes likewise with the scale lines
written, the lanes of a reduction, the element count, requests completed, members that its
multicasts missed and the report of the first such multicast (R230, R414). -/
structure Prog where
  i : Nat := 0
  out : Nat := 0
  got : List Line := []
  scal : List (Word × Bool) := []
  buf : List (Nat × Bool) := []
  sbuf : List (Nat × Bool) := []
  sout : Nat := 0
  lanes : List (BitVec 32 × Bool) := []
  elem : Nat := 0
  bad : Bool := false
  fin : Nat := 0
  missed : BitVec 256 := 0
  report : Word := 0
  deriving DecidableEq, Repr

/-- A pass descriptor as PASS resolves it (R114, R217): its index, its fields with the offsets applied. -/
structure PassDesc where
  idx : Nat
  flag : Nat
  m : Nat
  crepe : Bool
  feed : Bool
  out : Nat
  accIn : Bool
  wfmt : Fmt
  afmt : Fmt
  wscale : Bool
  ascale : Bool
  ofmt : Fmt
  sat : Bool
  rnd : Bool
  dq : Nat
  wq : Option Nat
  wline : Nat
  wspos : Nat
  aq : Option Nat
  aline : Nat
  aspos : Nat
  accin : Nat
  accout : Nat
  deriving DecidableEq, Repr

/-- A running pass (R118-R135): its descriptor, whether PASS_START has started it, the tick and the stochastic ordinal
of its dispatch, the results of the steps completed so far (one list of 32-bit words with poison per vector), the
vectors written to accumulator lines, the drained elements pushed, whether it is a replay, whether its replay failed,
whether it waits for PASS_REPLAY, and its first mismatch: its report, whether CORE_CRUST_LOG took it, whether an injected
check is behind it or the failed replay (R134, R135, R138, R526). -/
structure PassRun where
  d : PassDesc
  started : Bool
  tick : Nat
  ord : Nat
  res : List (List (BitVec 32 × Bool))
  wrote : Nat
  pushed : Nat
  replay : Bool
  cell : Bool
  broken : Bool
  miss : Option (Word × Bool × Bool)
  deriving DecidableEq, Repr

/-- An entry of an engine's instruction queue (R171): the number of its dispatch, its operation, or none for the gate
marker of the FX entry of the same number (R184); whether its engine has started it and its work is done; its ordinal
among stochastic operations (R104); how far it has come; its pass. -/
structure QEntry where
  uid : Nat
  op : Option CoreOp
  started : Bool
  done : Bool
  tick : Nat
  ord : Nat
  prog : Prog
  pass : Option PassRun
  deriving DecidableEq, Repr

/-- An entry of the FX queue (R183): its dispatch number, its operation, and, for a WAITC on a row flag, whether its
test was granted (R186). -/
structure FxEntry where
  uid : Nat
  op : FxOp
  granted : Bool
  deriving DecidableEq, Repr

/-- What answers a request of an LD or ST engine (R228, R232). -/
inductive ReqAnswer
  | waiting
  | line (l : Line)
  | acked
  | error (status : Nat)
  deriving DecidableEq, Repr

/-- An outstanding request of a core (R228): its engine and operation, its line number in it, the node it goes to (none
for the stack itself), the address, whether it stores, data and byte mask stored, how many accesses or packets it still
waits for, whether it has reached its row port, what it has read so far, its answer. -/
structure CoreReq where
  id : Nat
  e : Engine
  uid : Nat
  i : Nat
  node : Option Nat
  addr : Nat
  write : Bool
  data : Line
  mask : BitVec 512
  parts : Nat
  arrived : Bool
  result : Line
  answer : ReqAnswer
  deriving DecidableEq, Repr

/-- A line in flight on a neighbour link (R154, R158): sender's operation, receiver queue, the line, transmissions. -/
structure LinkLine where
  uid : Nat
  rq : Nat
  line : Line
  sent : Nat
  deriving DecidableEq, Repr

/-- The incoming side of a link at its receiver (R155, R158): lines in flight in order, landed lines waiting for their
queue, credits on their way back, and the sender's free credits. -/
structure LinkIn where
  flight : List LinkLine
  landed : List LinkLine
  returning : Nat
  credits : Nat
  deriving DecidableEq, Repr

/-- A core (R168-R206). Beside its local flags stand the cycle of the last write to them, the flags as that cycle began, those that a SET
has written in it and those that a WAITC has taken in it (R185, R186). -/
structure Core where
  run : RunState
  participating : Bool
  pc : Nat
  phase : BitVec 8
  nextPhase : BitVec 8
  loops : List LoopFrame
  seqCur : Option CoreOp
  seqGate : Option Nat
  seqStopped : Bool
  seqStall : Bool
  seqHold : Bool
  halting : Bool
  uid : Nat
  stoch : Nat
  flags : BitVec 64
  flagsAt : Nat
  flagsWere : BitVec 64
  flagsSet : BitVec 64
  flagsTaken : BitVec 64
  mx : List QEntry
  vx : List QEntry
  sx : List QEntry
  ld : List QEntry
  st : List QEntry
  nl : List QEntry
  fx : List FxEntry
  dqs : Tbl DQ
  tickEnd : Bool
  reqs : List CoreReq
  signals : List (Nat × Nat)
  valid : BitVec 512
  gen : BitVec 16
  image : List Byte
  nlIn : List LinkIn
  sramPoison : Nat
  deriving DecidableEq, Repr

def DQ.empty : DQ := ⟨0, [], 0, 0, []⟩
def LinkIn.empty : LinkIn := ⟨[], [], 0, 8⟩

/-- A core at reset: HALTED, nothing dispatched, no line valid (R191, R194, R203-R208). -/
def Core.reset : Core where
  run := .halted
  participating := false
  pc := 0
  phase := 0
  nextPhase := 0
  loops := []
  seqCur := none
  seqGate := none
  seqStopped := false
  seqStall := false
  seqHold := false
  halting := false
  uid := 0
  stoch := 0
  flags := 0
  flagsAt := 0
  flagsWere := 0
  flagsSet := 0
  flagsTaken := 0
  mx := []
  vx := []
  sx := []
  ld := []
  st := []
  nl := []
  fx := []
  dqs := []
  tickEnd := false
  reqs := []
  signals := []
  valid := 0
  gen := 0
  image := []
  nlIn := [LinkIn.empty, LinkIn.empty, LinkIn.empty, LinkIn.empty]
  sramPoison := 0

/-! ### Memory requests, vault controllers, slices and the pantry (05, 08, 09) -/

/-- Who waits for a memory access: a request of a core, a responder transaction of the router, a multicast copy, a row
operation of a near-bank unit (R237, R391, R397, R303); a memory command of stack firmware, by the number of its run and whether the access
writes (R431); the KV engine at the agent of a row (R347). -/
inductive Origin
  | core (c : Nat) (req sub : Nat)
  | packet (txn : Nat)
  | nbu (p : Nat) (op : Nat)
  | firmware (run : Nat) (write : Bool)
  | kv (row : Nat)
  deriving DecidableEq, Repr

/-- What an access does to its line: reads it; writes the masked bytes; performs a 64-bit atomic at byte `off`
(R229, R391); or the read, combination and write of a near-bank unit (R305): an element operation of Table 10.4 with the
line it carries, or additions to elements in order (position, value, poison); or a row command of the KV engine, whose data the engine takes and
gives once all the rows of its command are granted (R347, log 84). -/
inductive AccessKind
  | read
  | write
  | atomic (aty : Nat) (off : Nat) (operand compare : Word)
  | rmwElem (op : Nat) (t : Bool) (imm : BitVec 32)
  | rmwAdds (t : Bool) (adds : List (Nat × BitVec 32 × Bool))
  | row (write : Bool)
  deriving DecidableEq, Repr

/-- An access to one line of local memory: its origin, what it does, the data and byte mask it writes, the cycles of its
arrival and grant, what it has read (for a row of DRAM as stored, with its syndromes, until the column has delivered it),
the cycle until which a refusal holds it back (R592), whether its target has performed it, and whether injected checks are
behind the syndromes of its row (R526). -/
structure Access where
  id : Nat
  origin : Origin
  kind : AccessKind
  addr : Nat
  data : Line
  mask : BitVec 512
  arrived : Nat
  granted : Nat
  result : Line
  unchecked : Bool
  syn : List (BitVec 16)
  refused : Option Nat
  done : Bool
  inj : Bool := false
  deriving DecidableEq, Repr

/-- A data slot given to a transfer (R242, R255): its first cycle, how many cycles it holds, its direction. -/
structure VaultSlot where
  cycle : Nat
  len : Nat
  write : Bool
  deriving DecidableEq, Repr

/-- A repair entry of a vault (R281, Table 9.14): row or column group, layer, bank, row, group, spare. -/
structure Repair where
  group : Bool
  layer : Nat
  bank : Nat
  row : Nat
  grp : Nat
  spare : Nat
  deriving DecidableEq, Repr

/-- A soft column-group repair under way in a tile (R283): the repair with its spare, and the row operations done, 16 banks in turn row by row. -/
structure GroupRun where
  r : Repair
  ptr : Nat
  deriving DecidableEq, Repr

/-- A vault controller and its column (R240-R262, R281-R286, R304-R307, R533): requests on their way to it from its own
core, its two queues, the near-bank requests and the requests of stack firmware, the cycle at which each bank becomes free, the data slots given, granted
transfers not yet delivered, writes of granted RMWs still to be granted (bank, cycle from which, access), the cycle of the
last grant and its direction, the window of 1,024 cycles and the rows granted in it, the path (0 coils, 1 TSV lanes in
compatible mode, 2 TSV lanes as fallback), the coil spares in use, the refresh timer's start and the refreshes issued per
bank, fuse entries, repairs that firmware is to make, group repairs under way, rows found correctable by the last scrub, the cycles of recent
COL_REPLAY raises, refreshes that fell due on a bank while the write of an RMW was still
to be granted there (R249), whether a coil test is due, layers in self-refresh and on the doubled refresh rate, the row commands granted in the
present tick (R450), the cycle since which the next row operation of a soft repair waits, and the
index of the last entry that the site's near-bank unit has started (R327). -/
structure VaultCtl where
  entering : List Access
  top : List Access
  base : List Access
  nbu : List Access
  firm : List Access
  busy : Tbl Nat
  slots : List VaultSlot
  flight : List Access
  rmw : List (Nat × Nat × Access)
  owed : Tbl Nat
  lastGrant : Option Nat
  lastWrite : Option Bool
  window : Nat
  rows : Nat
  path : Nat
  coilSpares : List Nat
  refreshFrom : Nat
  refreshes : Tbl Nat
  fuses : List Repair
  wanted : List Repair
  groups : List GroupRun
  repairAt : Option Nat
  scrubbed : List Nat
  replays : List Nat
  testDue : Bool
  selfRefresh : BitVec 8
  hot : BitVec 8
  tickRows : Nat
  nbuEntry : Nat
  deriving DecidableEq, Repr

def VaultCtl.reset : VaultCtl where
  entering := []
  top := []
  base := []
  nbu := []
  firm := []
  busy := []
  slots := []
  flight := []
  rmw := []
  owed := []
  lastGrant := none
  lastWrite := none
  window := 0
  rows := 0
  path := 0
  coilSpares := []
  refreshFrom := 0
  refreshes := []
  fuses := []
  wanted := []
  groups := []
  repairAt := none
  scrubbed := []
  replays := []
  testDue := false
  selfRefresh := 0
  hot := 0
  tickRows := 0
  nbuEntry := 0

/-- An entry of a near-bank unit's schedule as it runs (R306, R310-R317): its index and words, N and the lines of A, B
and D after the selectors, how many of its reads have been requested and how many lines consumed, delivered lines that
wait for earlier ones, the lines of its vector buffer and scales, accumulators, output elements not yet in a line, the
writes not yet requested (line, what, content), lines written so far, elements produced, and its ordinal among the
stochastic entries of the tick. -/
structure NbuJob where
  idx : Nat
  e : NbuEntry
  n : Nat
  a : Nat
  b : Nat
  d : Nat
  rd : Nat
  used : Nat
  ready : List (Nat × Line)
  vec : List Line
  acc : List (BitVec 32 × Bool)
  buf : List (Nat × Bool)
  pend : List (Nat × AccessKind × Line)
  out : Nat
  elem : Nat
  ord : Nat
  deriving DecidableEq, Repr

/-- What a near-bank unit runs in a tick or for NBU_RUN (R318, R325): tick, member and seed for R317, the command that
asked for it, the entries still to run, the parameter line once read, the entry that has started, the ordinal of the next
stochastic entry, and whether a fault of Table 10.5 was raised. -/
structure NbuRun where
  tick : Nat
  member : Nat
  seed : Word
  cmd : Option CmdRef
  todo : List Nat
  params : Option Line
  job : Option NbuJob
  stoch : Nat
  failed : Bool
  deriving DecidableEq, Repr

/-- The near-bank unit of a logical vault (R301): its schedule, what it runs, and whether it has run entries in the
present tick; the entries of a tick that wait for an NBU_RUN to end. -/
structure Nbu where
  sched : List NbuEntry
  run : Option NbuRun
  ran : Bool
  next : Option NbuRun
  deriving DecidableEq, Repr

def Nbu.reset : Nbu := ⟨[], none, false, none⟩

/-- A merge window of a row port (R161): its line, the ACLK cycle it opened, its opener, the accesses that joined it (core, access),
whether it has closed and may issue from the cycle named, the cycle it issued in, and whether a request opened it on its arrival, not one that had
waited for the slot (R163, R164). -/
structure PortWindow where
  addr : Nat
  opened : Nat
  opener : Nat
  members : List (Nat × Nat)
  closed : Option Nat
  issued : Nat
  fresh : Bool
  deriving DecidableEq, Repr

/-- A write held by a row port, and the cycle it issued in (R162, R252). -/
structure PortWrite where
  core : Nat
  id : Nat
  addr : Nat
  arrived : Nat
  issued : Nat
  deriving DecidableEq, Repr

/-- What a pantry sub-bank is asked to do (R253): by the row port of a row for a window, by one for a write, by the KV agent of a row for an
access, or by Ivton through the column; of the last two with the ACLK cycle from which they are there. -/
inductive PantryOp
  | window (r : Nat) (w : PortWindow)
  | write (r : Nat) (w : PortWrite)
  | kv (r : Nat) (a : Access) (at_ : Nat)
  | ivton (id : Nat) (at_ : Nat)
  deriving DecidableEq, Repr

/-- A reply that a row's KV agent owes (R343): its number, the data queue that it goes to, its line once the command
has acted. -/
structure KvReply where
  id : Nat
  dq : Nat
  line : Option (List Word)
  deriving DecidableEq, Repr

/-- A row: its flags as the S-core holds them, writes of flags on their way to the S-core (cycle of issue, set or
clear, flag), the cycle of the last test (R148, R186), its KV agent's command queue, the record it has taken and acts on with the number of its reply, and the replies it owes (R149, R343), its row port (R161-R164) with the requests that wait for a slot as (cycle of arrival, core, access), the
reads performed for it that are not yet on the glaze bus, each with its cycle there, and the last cycle in which the bus was taken (R165). -/
structure Row where
  flags : BitVec 64
  flagOps : List (Nat × Bool × Nat)
  flagTest : Option Nat
  kvq : List (List Byte)
  kvTaken : Option (Nat × List Byte)
  kvReplies : List KvReply
  windows : List PortWindow
  writes : List PortWrite
  waiting : List (Nat × Nat × Nat)
  glaze : List (PortWindow × Line × Nat)
  lastIssue : Option Nat
  lastGlaze : Option Nat
  deriving DecidableEq, Repr

def Row.reset : Row := ⟨0, [], none, [], none, [], [], [], [], [], none, none⟩

/-! ### The router (12) -/

/-- Who made a requester transaction (R389): access `sub` of request `req` of core `c`. -/
structure TxnFor where
  core : Nat
  req : Nat
  sub : Nat
  deriving DecidableEq, Repr

/-- The life of a tag (R389, R390, R393): its request is outstanding; was refused and may be resent from a cycle on;
completed as lost by a timeout and not reusable until a second REQ_TIMEOUT has passed from the cycle named. -/
inductive TagState
  | open_
  | refused (until_ : Nat)
  | timedOut (at_ : Nat)
  deriving DecidableEq, Repr

/-- A requester transaction: its packet as sent, the link it left on last, the cycle of its first sending, its place in the order of issue. -/
structure Txn where
  for_ : TxnFor
  pkt : Packet
  link : Nat
  sentAt : Nat
  state : TagState
  order : Nat
  deriving DecidableEq, Repr

/-- A multicast in progress at its source (R398): the core request it belongs to, group, members, which are covered and
which count as missing, cycle of sending. -/
structure McRun where
  core : Nat
  req : Nat
  tag : Nat
  group : Nat
  members : Nat
  covered : BitVec 256
  missing : BitVec 256
  sentAt : Nat
  deriving DecidableEq, Repr

/-- A responder transaction (R391, R392, R394): the request, the link it arrived on, whether its access has been
started, whether it is a multicast copy (R397), whether it has been performed and only its response waits to be sent, whether its response is
to be discarded (R404). -/
structure Rsp where
  id : Nat
  pkt : Packet
  link : Nat
  started : Bool
  multicast : Bool
  performed : Bool
  discard : Bool
  deriving DecidableEq, Repr

/-- A data slot in a retry buffer (R376): its sequence number, the cycle it was last sent, how often it has been sent, its bits and their parity (R277). -/
structure RetrySlot where
  seq : Nat
  at_ : Nat
  sends : Nat
  bits : BitVec 256
  parity : BitVec 4
  deriving DecidableEq, Repr

/-- A packet that waits for link credit (R374): the link in whose receive buffer it stands, 8 for a packet of the stack's own, and the responder
transaction that it answers (R391). -/
structure Waiting where
  pkt : Packet
  from_ : Nat
  rsp : Option Nat
  deriving DecidableEq, Repr

/-- A symbol that waits for a link-control slot (R375): its KIND, its content, in how many control slots it is still to stand, whether it has
stood in one already. -/
structure CtlSymbol where
  kind : Nat
  content : Word
  copies : Nat
  placed : Bool
  deriving DecidableEq, Repr

/-- A packet whose payload slots are coming in (R373, R376): its header, where that names a packet type, payload slots so far and still to come,
payload bytes so far, payload words to be marked poisoned. -/
structure Assembly where
  head : Option Packet
  got : Nat
  left : Nat
  body : List Byte
  marks : BitVec 16
  deriving DecidableEq, Repr

/-- A link (R373-R376, R378, R396): sequence numbers of the next data slot sent and received, numbers of the next slot sent and received, the retry
buffer, free credits by class, slots freed to the partner by class, packets that wait for credit, multicast copies that wait in the branch
queue with the cycle each was queued, symbols that wait for a control slot, the message bits of the codeword being filled and their number,
codewords received and counted, the packet whose slots are coming in, packets received whole that wait for the router, failures of the slot now
awaited, the cycle of the last ACK, and by class the count of the last CREDIT. -/
structure Link where
  txSeq : Nat
  rxSeq : Nat
  txSlot : Nat
  rxSlot : Nat
  retry : List RetrySlot
  credits : List Nat
  granted : List Nat
  waiting : List Waiting
  branch : List (Packet × Nat)
  symbols : List CtlSymbol
  fill : Nat
  filled : Nat
  words : Nat
  asm : Option Assembly
  inbox : List Packet
  fails : Nat
  lastAck : Nat
  seen : List Nat
  deriving DecidableEq, Repr

def Link.reset : Link :=
  { txSeq := 0, rxSeq := 0, txSlot := 0, rxSlot := 0, retry := [], credits := [0, 0, 0, 0], granted := [0, 0, 0, 0], waiting := [], branch := [],
    symbols := [], fill := 0, filled := 0, words := 0, asm := none, inbox := [], fails := 0, lastAck := 0, seen := [0, 0, 0, 0] }

/-- A collective entry that runs for a tick at a member (R400): the entry, the tick, whether the member has sent its done
of that tick and read its SRC lines, those lines, the children's partials as (child, line, content), whether the
accumulated lines have gone up or, at member 0, down, the result lines written so far, whether the entry's words read
poisoned (R402), whether COLL_STALL was raised for it. -/
structure CollRun where
  entry : Nat
  tick : Nat
  started : Bool
  own : List Line
  got : List (Nat × Nat × Line)
  up : Bool
  written : List Nat
  poisoned : Bool
  stalled : Bool
  deriving DecidableEq, Repr

/-- The router and the collective engine of a stack; `lostNow` holds the nodes marked as lost with the cycle of each, those of the latest cycle alone (R15); `tokens` holds the tick tokens of which a second copy may still come, with the cycle each came
(R375). -/
structure Router where
  tags : Tbl Txn
  mcs : List McRun
  rsps : List Rsp
  backoff : List (Nat × Nat)
  links : Tbl Link
  aligns : Tbl LinkAlign
  tokens : List (TokenTy × Token × Nat)
  coll : List CollRun
  lostNow : List (Nat × Nat)
  deriving DecidableEq, Repr

def Router.reset : Router := ⟨[], [], [], [], [], [], [], [], []⟩

/-! ### Ticks, domains and jobs (02, 13) -/

/-- The states of a partition (Table 13.10). -/
inductive PState
  | idle | admitted | running | disabling | disabled
  deriving DecidableEq, Repr

/-- What a member is doing (R48, R59, R60, R81): nothing; waiting for go(0); running tick t; waiting at the barrier to
start the next tick. -/
inductive TickPhase
  | idle | starting | run | barrier
  deriving DecidableEq, Repr

/-- A member's job and tick state: program mask P, compatible mode, rounding seed, last tick, licences in force
(R4, R436); whether a domain was joined, its member list and collective entries (R51, R399); what each child's START
carried, by child index (R57, R59); own JOB_START reached, START sent or, at the leader, go(0) decided; what the member is doing;
whether the tick is counted as overrun, whether it closed (R67, R68); ticks for which the member has sent its own done,
ticks for which it has sent done to its parent, ticks done received by child index, go received (all counts of ticks);
tick hold (R71), whether a coil test has begun it (R533), and an ABORT that waits for its end; whether the job is to end, whether under R70, and the fault source
(R70, R439). -/
structure Tick where
  mask : BitVec 8
  compat : Bool
  seed : Word
  lastTick : Nat
  licence : Nat
  joined : Bool
  members : List Nat
  entries : List (List Word)
  starts : List (Nat × BitVec 16)
  ownStart : Bool
  startSent : Bool
  phase : TickPhase
  overrun : Bool
  closed : Bool
  doneSent : Nat
  upSent : Nat
  doneRecv : Tbl Nat
  goRecv : Nat
  hold : Bool
  testHold : Bool
  abortOwed : Bool
  ending : Bool
  aborted : Bool
  endSource : Nat
  deriving DecidableEq, Repr

def Tick.reset : Tick where
  mask := 0
  compat := false
  seed := 0
  lastTick := 0
  licence := 0
  joined := false
  members := []
  entries := []
  starts := []
  ownStart := false
  startSent := false
  phase := .idle
  overrun := false
  closed := false
  doneSent := 0
  upSent := 0
  doneRecv := []
  goRecv := 0
  hold := false
  testHold := false
  abortOwed := false
  ending := false
  aborted := false
  endSource := 0

/-! ### Power and heat (14) -/

/-- An entry of the forecast (R471): first tick, ticks, tag. -/
structure Forecast where
  first : Nat
  ticks : Nat
  tag : Nat
  deriving DecidableEq, Repr

/-- The power and thermal controllers of a stack: the cap in force (R446); the point at which ACLK runs, the point chosen
last, the change in progress, whether ACLK is stopped (R449); whether CAP_OVER and GRANT_WAIT were raised for the tick
(R447, R457) and whether a tick start waits for its grant; tags whose peak has been observed (R450); averages of the draw, in W
(R446, R454); the floor Φ and the cycle at which it held (R454); the grant, that of the last period and the pred of the present tick (R456); the idle state, the cycle at which an exit in
progress ends, the draws of the last SIMMER and BANKED (R458-R461); whether filler runs; the forecast (R471); the
allowances (R464, R465) and the allowance that a forecast sets per allowance with its first and last tick (R473); which hard-limit actions hold
(R466); modelled temperatures and resistances by die (R472: 0 compute, 1 cache, 2 base, 8 + l layer l), with the power last measured of each and the latest
measurements, each with its cycle; the stack slope in force; the fixed draw F of the cache and base dies (R450); a coolant stop in force and its hold begun (R470). -/
structure Power where
  cap : Nat
  capNext : Option Nat
  point : Nat
  target : Nat
  change : Option Nat
  stopped : Bool
  capOver : Bool
  grantWait : Bool
  grantRaised : Bool
  peakSeen : BitVec 256
  draw : Rat
  floor : Rat
  floorAt : Nat
  grant : Rat
  predNow : Rat
  idle : Nat
  exitEnd : Option Nat
  pSimmer : Rat
  pBanked : Rat
  meringue : Bool
  forecast : List Forecast
  allowCompute : Rat
  allowDram : Rat
  allowStack : Rat
  allowGov : Rat
  ahead : List (Nat × Nat × Nat × Rat)
  hardCompute : BitVec 2
  hardLayers : BitVec 8
  hardBase : Bool
  temps : Tbl Rat
  resist : Tbl Rat
  powerLog : List (Nat × DiePower)
  fixed : Rat
  coolantStop : Bool
  coolantHold : Bool
  diePower : Tbl Rat
  sigma : Rat
  deriving DecidableEq, Repr

def Power.reset : Power where
  cap := 520
  capNext := none
  point := 0
  target := 0
  change := none
  stopped := false
  capOver := false
  grantWait := false
  grantRaised := false
  peakSeen := 0
  draw := 0
  floor := 0
  floorAt := 0
  grant := 0
  predNow := 0
  idle := 0
  exitEnd := none
  pSimmer := 95
  pBanked := 30
  meringue := false
  forecast := []
  allowCompute := 0
  allowDram := 0
  allowStack := 0
  allowGov := 0
  ahead := []
  hardCompute := 0
  hardLayers := 0
  hardBase := false
  temps := []
  resist := []
  powerLog := []
  fixed := 0
  coolantStop := false
  coolantHold := false
  diePower := []
  sigma := 100

/-! ### The command port and the KV engine (11, 13) -/

/-- A command that a port holds (R419, R420): its issuer and TAG, the link (8 none; 16 more where it named no node and is answered on
that link, R494, R548) and packet tag with which it came,
the cycle of its acceptance, header words 0 and 1, its parameters, its payload, whether it has begun work whose end it waits for, and the tick in
which it acted, once it has (R444). -/
structure Cmd where
  ref : CmdRef
  link : Nat
  ptag : Nat
  at_ : Nat
  w0 : Word
  w1 : Word
  p : List Word
  data : List Byte
  begun : Bool := false
  acted : Option Word := none
  deriving DecidableEq, Repr

/-- A command that is being assembled (R388, R426): source node, packet tag, the cycle of its first segment, the link it
came on, its segments as (ADDR, bytes). -/
structure Asm where
  src : Nat
  ptag : Nat
  at_ : Nat
  link : Nat
  segs : List (Nat × List Byte)
  deriving DecidableEq, Repr

/-- A command port (R426-R429): commands being assembled, accepted commands not started in order, commands started and
not answered. -/
structure Port where
  asm : List Asm
  held : List Cmd
  started : List Cmd
  deriving DecidableEq, Repr

/-- A line that a KV command reads or writes, and whether it writes part of a word of it (R271, R347). -/
structure KvTouch where
  addr : Nat
  write : Bool
  part : Bool
  deriving DecidableEq, Repr

/-- An access that the KV engine has asked for: for which command (none: the phase), its line, the access, whether it has been performed, and the
words that its transfer could not deliver (R277). -/
structure KvAsk where
  src : Option KvSource
  line : KvTouch
  id : Nat
  done : Bool
  failing : BitVec 16
  deriving DecidableEq, Repr

/-- The KV engine of a stack (11): trays of the live sequences and the slots that back tray entries 0, 1, …, both by
sequence; pins to be released at the next phase, one entry per pin as (class, page); the issuer commands that wait for
their tick; the phase commands that S-cores pushed, as (row, reply, record); the tick of the job's latest phase, and that of the latest phase of
any job (R361); lines that the command in progress has read or written, which is empty between commands; the accesses asked for and not used up. -/
structure Kv where
  trays : Tbl Nat
  backing : Tbl (List Nat)
  pins : List (Nat × Nat)
  waiting : List Cmd
  queued : List (Nat × Nat × List Byte)
  phaseTick : Nat
  latest : Nat
  touched : List KvTouch
  asked : List KvAsk
  deriving DecidableEq, Repr

def Port.reset : Port := ⟨[], [], []⟩
def Kv.reset : Kv := ⟨[], [], [], [], [], 0, 0, [], []⟩

/-- Where a stack stands in its bring-up (R485, Table 13.4): off, then the codes 0-7. -/
inductive Boot
  | off | rom | verify | proofing | discover | admitting | ready | held | quiesced
  deriving DecidableEq, Repr

/-! ### Faults (16) -/

/-- A fault on its way to the stack collector (R518): source number (Table 16.2), hierarchy address (R38), the logical
core and vault concerned, the two detail words (Table 16.3), whether it is attributed to that core, whether an
injected check raised it (R526), the queue position of the operation where the unit's own report does not hold it (R204), the tick and job in
which it was raised, none where no job ran (R520), and the pair that an ERROR_WIRE reports, as its sender's key and its severity (R517). -/
structure Raise where
  source : Nat
  addr : Nat
  core : Option Nat := none
  vault : Option Nat := none
  detail0 : Word := 0
  detail1 : Word := 0
  attributed : Bool := false
  injected : Bool := false
  qpos : Nat := 0
  tick : Word := BitVec.allOnes 64
  job : Option Nat := none
  wire : Option (Nat × Nat) := none
  deriving DecidableEq, Repr


/-- A held fault record (Table 16.3): SEQ, source, address, programmed severity and severity raised, ESCALATED, INJECTED
and MODULE_SOURCE, partition (0xFF none), COUNT, TICK (all ones when no job ran), nanoseconds since module power-on,
logical core and vault (0xFF none), the detail words; and, for R520, the number of the job and the cycle of its first
raise. -/
structure Record where
  seq : Nat
  source : Nat
  addr : Nat
  prog : Nat
  sev : Nat
  escalated : Bool
  injected : Bool
  fromModule : Bool
  part : Nat
  count : Nat
  tick : Word
  ns : Nat
  core : Nat
  vault : Nat
  detail0 : Word
  detail1 : Word
  job : Option Nat
  cycle : Nat
  deriving DecidableEq, Repr

/-- A pair of a collector link that has read equal and is treated as asserted (R517): the key of its sender, its severity, the SEQ of the
record of its ERROR_WIRE once that has reached the collector (0 where none is held of it), whether an injection made it read equal. -/
structure Wire where
  key : Nat
  pair : Nat
  seq : Option Nat
  injected : Bool
  deriving DecidableEq, Repr

/-- A stack's fault collector (R519-R523): the records in ascending SEQ, the next SEQ, records dropped, the highest
severity dropped when OVERFLOW_HIGH is set, the number of the present or last job (the model's own count, R520), the
pairs treated as asserted (R517). -/
structure Collector where
  records : List Record
  next : Nat
  dropped : Nat
  high : Option Nat
  job : Nat
  wires : List Wire
  deriving DecidableEq, Repr

def Collector.reset : Collector := ⟨[], 1, 0, none, 0, []⟩

/-- What a fuse burn of a stack writes (R43, R286, R547, R552, R556): a failed site, a repair entry with the soft entry
it replaces, the epoch, the SVN, REVOKE, the licence floor. -/
inductive Burn
  | site (p : Nat)
  | repair (p : Nat) (soft : Nat) (r : Repair)
  | epoch (n : Nat)
  | svn (n : Nat)
  | revoke (n : Nat)
  | lfuse (n : Nat)
  deriving DecidableEq, Repr

/-- The repair at a job boundary (R529, R530): whether it is in progress and since which cycle, the failed sites that it repairs, the cores still to
migrate in order, each with the site it moves to, the sites to which cores have moved so far, the row maps to apply; of the core that migrates now the
row operations done, a read and a write for each line, and the cycle since which the next one waits; and the cores that a reset kept from migrating, as
(core, old site, new site). -/
structure Mend where
  since : Option Nat
  taken : List Nat
  moves : List (Nat × Nat)
  moved : Tbl Nat
  maps : Tbl Word
  line : Nat
  lineAt : Option Nat
  unmoved : List (Nat × Nat × Nat)
  deriving DecidableEq, Repr

def Mend.reset : Mend := ⟨none, [], [], [], [], 0, none, []⟩

/-! ### Bring-up, resets, removal (15) -/

/-- A reset that runs on a stack (R499-R502): its domain (1 stack, 2 base non-transit, 3 base transit, 4 compute die,
5 core), its core, the cycle of its assertion, the command that is answered at its end; for a base non-transit reset whether a store was
counted as not performed or a collective entry abandoned, those entries with their tick, the bring-up state to which the stack returns
with its HELD_REASON and MISMATCH, and whether tick hold began with it. For a transit reset `runs` names the links that were up. -/
structure ResetRun where
  domain : Nat
  core : Nat
  since : Nat
  cmd : Option CmdRef
  lost : Bool
  runs : List (Nat × Nat)
  resume : Boot
  state : Word
  held : Bool
  deriving DecidableEq, Repr

/-- A QUIESCE (R505): whether running jobs are aborted, whether it drains (0), has answered or is drained (1), or has sent LINK_DOWN (2), and
whether it is of the whole module. -/
structure Quiesce where
  abort : Bool
  stage : Nat
  all : Bool
  deriving DecidableEq, Repr

/-- What bring-up and discovery keep (R485-R498): cycles at which bring-up, PROOFING and the present state began, cycles excluded by R487,
whether the start was a COLD exit or module power-on, links whose probe waits for an answer, neighbours found as (link, node, port), packages over bridges
that agree as (link, stack index); the copy of the training record used last (R489). -/
structure BringUp where
  since : Nat
  proofAt : Nat
  stateAt : Nat
  waited : Nat
  fromCold : Bool
  powerOn : Bool
  probing : List Nat
  neighbours : List (Nat × Nat × Nat)
  packages : List (Nat × Nat)
  copy : Option Nat
  deriving DecidableEq, Repr

def BringUp.reset : BringUp := ⟨0, 0, 0, 0, false, false, [], [], [], none⟩

/-! ### Trust (17) -/

/-- The recovery of an image (R548): the source asked (links in their order, from 0), the bytes that came, the total length once known, the
offset and the length of the piece asked for. -/
structure Fetch where
  source : Nat
  got : List Byte
  total : Option Nat
  piece : Nat
  ask : Nat
  deriving DecidableEq, Repr

/-- Fuses, image store, leaves and licence of a stack (R43, R543-R562): fused SVN, REVOKE, LFUSE, EPOCH; the RUN image and the staged bytes with their
announced length and whether they are verified; a recovery in progress; the END of the reservation in progress; the licence held; the
LICENCE_INSTALL that waits for its burns; whether the RUN image was activated and module flash is to take it once the stack is READY (R549); the
level-1 trees built (R552). -/
structure Trust where
  svn : Nat
  revoke : Nat
  lfuse : Nat
  epoch : Nat
  run : List Byte
  stage : List Byte
  stageLen : Nat
  verified : Bool
  fetch : Option Fetch
  reserving : Option Nat
  licence : Option (List Byte)
  installing : Option CmdRef
  activated : Bool
  trees : List Nat
  deriving DecidableEq, Repr

def Trust.reset : Trust := ⟨0, 0, 0, 0, [], [], 0, false, none, none, none, none, false, []⟩

/-! ### Long memory commands (09, 13) -/

/-- A SCRUB or SET_REGION_TAG that runs in the tiles (R270, R287): its command, whether it re-encodes and to COMPUTE, the lines still to
do by logical vault as (line, end), the regions changed, counts of words checked, corrected, uncorrectable, poisoned and skipped,
uncorrectable words found, for R285 the errors found as (vault, layer, group, row) and the groups decided on as (vault, layer, group), and by logical
vault the cycle since which its next line waits. -/
structure TileRun where
  cmd : CmdRef
  retag : Option Bool
  left : Tbl (Nat × Nat)
  regions : BitVec 12
  checked : Nat
  corrected : Nat
  bad : Nat
  poisoned : Nat
  skipped : Nat
  found : List Nat
  groups : List (Nat × Nat × Nat × Nat)
  decided : List (Nat × Nat × Nat)
  since : Tbl Nat
  deriving DecidableEq, Repr

/-- A READ, WRITE, FILL or COPY that runs (R431, R594): its number, its command, by site the next line to read and to write with the end of the share,
the lines read and not used up, whether one of them lay in a COMPUTE region, and the accesses asked for and not performed. -/
structure BulkRun where
  id : Nat
  cmd : CmdRef
  reads : Tbl (Nat × Nat)
  writes : Tbl (Nat × Nat)
  lines : List (Nat × Line)
  unchecked : Bool
  asked : Nat
  deriving DecidableEq, Repr

/-- A REPAIR_COMMIT that waits for its burns: its command, entries burnt so far, entries left soft. -/
structure CommitRun where
  cmd : CmdRef
  burned : Nat
  left : Nat
  deriving DecidableEq, Repr
/-- What left a stack: a packet on a link, its data slots following one another; a token, and any other symbol, given to a link's control slots; a
data slot sent again; a link-control slot, by its number; a codeword of a port, by lanes (R378); a command reply to the module controller
(R425); a package record on a bridge (R492). -/
inductive Sent
  | packet (l : Nat) (k : Packet)
  | token (l : Nat) (t : TokenTy) (k : Token)
  | symbol (l : Nat) (kind : Nat) (content : Word)
  | slot (l seq : Nat) (bits : BitVec 256)
  | control (l n : Nat) (bits : BitVec 256)
  | codeword (l : Nat) (lanes : List (List Nat))
  | reply (bytes : List Byte)
  | package (l : Nat) (record : PackageRec)
  deriving DecidableEq, Repr

/-- A stack of the module. Of each pantry sub-bank the ACLK cycle from which it is free, and the latest ACLK cycle that a command of a row port has named (R252,
R253); of the SRAM words, by address / 8, those whose stored parity bit is not the one that R274 gives. -/
structure Stack where
  regs : Tbl Word
  boot : Boot
  part : Nat
  pstate : PState
  tick : Tick
  cores : Tbl Core
  rows : Tbl Row
  vaults : Tbl VaultCtl
  nbus : Tbl Nbu
  slices : Tbl (List Access)
  subbanks : Tbl (List PantryOp)
  subfree : Tbl Nat
  aclk : Nat
  entering : List Access
  topside : List Access
  mem : List Host.Cell
  marks : Tbl (BitVec 16)
  parity : Tbl Bool
  tags : Tbl (BitVec 12)
  peers : Quad Nat
  router : Router
  port : Port
  kv : Kv
  computeOn : Bool
  nextId : Nat
  bus : List Raise
  inject : Tbl Nat
  sent : List Sent
  power : Power
  faults : Collector
  burns : List Burn
  burnt : List Nat
  mend : Mend
  resetting : Option ResetRun
  quiesce : Option Quiesce
  immediate : Bool
  bring : BringUp
  trust : Trust
  tiles : List TileRun
  bulk : List BulkRun
  commit : Option CommitRun
  cold : Bool
  portsOpen : Bool
  fuseMaps : Tbl Word
  deriving DecidableEq, Repr


/-! ### The module controller (14, 15, 16, 17, 18) -/

/-- A message of the module controller to the fleet manager (R474, R497, R506, R513, R580): which it is, the stack where one applies, its content. -/
inductive Event
  | coolantForecast (q slope crossing : Rat)
  | coolantLow (q factor : Rat)
  | coolantWarm (inlet factor : Rat)
  | coolantStop (flows : List Nat)
  | thermalForecast (st die tag first : Nat)
  | sensorFail (st hotspot : Nat) (a b : BitVec 12)
  | removalRequest
  | geometryChange (st old new : Nat)
  | moduleFault (st seq source : Nat)
  deriving DecidableEq, Repr

/-- An event as it is sent (R580): the endpoint that the bus owner named as event receiver, the module serial, the event. -/
structure EventSent where
  dest : Byte
  serial : Word
  event : Event
  deriving DecidableEq, Repr

/-- A sample of the coolant: flow in mL/min, inlet and outlet in 0.125 °C. -/
structure CoolSample where
  flow : Nat
  inlet : Int
  outlet : Int
  deriving DecidableEq, Repr

/-- Coolant as the module controller sees it (R469, R470, R581): samples of the last second, newest first; samples taken; the last one-second averages of
the flow, newest first; qualified; decline; low flow and warm inlet in force with their factors and the cycle since which each has stayed clear; the cycle of a
stop's detection, whether its hold has begun, and the cycle since which flow has recovered; cycles of the last repeated messages. -/
structure CoolCtl where
  samples : List CoolSample
  taken : Nat
  seconds : List Rat
  qualified : Bool
  decline : Bool
  low : Bool
  lowFactor : Rat
  lowClear : Option Nat
  warm : Bool
  warmFactor : Rat
  warmClear : Option Nat
  stop : Option Nat
  ended : Bool
  flowBack : Option Nat
  saidDecline : Nat
  saidLow : Nat
  saidWarm : Nat
  deriving DecidableEq, Repr

def CoolCtl.reset : CoolCtl := ⟨[], 0, [], false, false, false, 1, none, false, 1, none, none, false, none, 0, 0, 0⟩

/-- The module controller. Pins and supplies: the housekeeping supply, SLOT_ID as sampled, PWR_EN and the cycle of its last deassertion, PWR_GOOD, VIN_PKG
on, the cycle of the last module power-on, input state (Table 18.10, sensor 0x0050), overcurrent and thermal latches, REFCLK present, THERMTRIP_L asserted, FAULT_L asserted,
the blue indicator (0 off, 1 blinking, 2 steady), the quiesce that ATTN_L began with its cycle (R506). Power: B, S, the caps kept, the
grants, reclaim marks, the pool of the last period, the module limit in force, whether it rises after a derate has lifted (R445, R456, R469). Coolant. Record copies by
stack (R525). Messages sent to the fleet manager and on the sideband, newest first. I3C address, endpoint ID, event receiver. Module flash: the firmware image,
its writes still to make by stack, whether a write cut short has left a part of an image there (R549), the two training records by stack (R489), the two
leaf records by stack (R552), the licence store's two copies and the copy used last, the identity certificates (R550); a record is none where nothing has
been written. The kept expected topology (R497). Whether the input was lost other than by PWR_EN since the last module power-on (R525). Activation over PLDM in progress, with the next
stack (R582). Counters of power cycles and large thermal cycles (R590), with the extremes of each compute hotspot's present swing. -/
structure ModCtl where
  supply : Bool
  slotId : BitVec 6
  pwrEn : Bool
  enLow : Nat
  pwrGood : Bool
  vin : Bool
  onAt : Nat
  input : Nat
  overcurrent : Bool
  thermal : Bool
  refclk : Bool
  thermtripL : Bool
  faultL : Bool
  blue : Nat
  attn : Option Nat
  budget : Nat
  slope : Nat
  caps : Quad Nat
  grants : Quad Rat
  reclaim : Quad Bool
  pool : Rat
  limit : Rat
  rising : Bool
  cool : CoolCtl
  copies : Quad (List Record)
  events : List EventSent
  out : List (List Byte)
  i3c : Option (BitVec 7)
  eid : Byte
  receiver : Option Byte
  flash : List Byte
  flashQueue : List Nat
  flashOpen : Bool
  training : Quad (Option (List Byte) × Option (List Byte))
  leaves : Quad (Option (List Byte) × Option (List Byte))
  licences : Option (List Byte) × Option (List Byte)
  licenceLast : Bool
  certs : Quad (List Byte)
  lost : Bool
  expected : Option (List Byte)
  activating : Option Nat
  powerCycles : Nat
  thermalCycles : Nat
  swings : Tbl (Int × Int × Bool)
  deriving DecidableEq, Repr

def ModCtl.reset : ModCtl where
  supply := false
  slotId := 0
  pwrEn := false
  enLow := 0
  pwrGood := false
  vin := false
  onAt := 0
  input := 0
  overcurrent := false
  thermal := false
  refclk := true
  thermtripL := false
  faultL := false
  blue := 0
  attn := none
  budget := 2200
  slope := 400
  caps := Quad.all 520
  grants := Quad.all 0
  reclaim := Quad.all false
  pool := 0
  limit := 0
  rising := false
  cool := CoolCtl.reset
  copies := Quad.all []
  events := []
  out := []
  i3c := none
  eid := 0
  receiver := none
  flash := Config.shippedImage
  flashQueue := []
  flashOpen := false
  training := Quad.all (none, none)
  leaves := Quad.all (none, none)
  licences := (none, none)
  licenceLast := false
  certs := ⟨certificate 0, certificate 1, certificate 2, certificate 3⟩
  lost := false
  expected := none
  activating := none
  powerCycles := 0
  thermalCycles := 0
  swings := []
/-- Why a step could stop with a fault. No rule of the manual stops the module: what goes wrong in it is a fault
record, a poison mark, an error answer or a refused command, all of them next states. The reason below is raised by no
meaning of this model. -/
inductive Fault
  /-- Raised by nothing: the manual gives every command an effect. Safe. -/
  | none
  deriving DecidableEq, Repr

/-- Why a step could be refused. -/
inductive Refusal
  /-- A command that has no meaning in the model yet, by its mnemonic. Safe: the model stops. -/
  | notModelled (mnemonic : String)
  deriving DecidableEq, Repr

/-- The module: the time in CCLK cycles of 0.4 ns, its four stacks, its controller, the registers of each stack as the present cycle found
them (by which a bit set in the cycle is known, R15), the number of free values drawn (the model's own counter, no register of the manual)
and the queue of waiting commands, first in, first out. -/
structure State where
  now : Nat
  quad : Quad Stack
  mc : ModCtl
  dawn : Quad (Tbl Word)
  freeIx : Nat
  pending : List Instr
  deriving DecidableEq, Repr

/-- A stack as module power-on leaves it. -/
def Stack.reset : Stack where
  regs := []
  boot := .off
  part := 0
  pstate := .idle
  tick := Tick.reset
  cores := []
  rows := []
  vaults := []
  nbus := []
  slices := []
  subbanks := []
  subfree := []
  aclk := 0
  entering := []
  topside := []
  mem := []
  marks := []
  parity := []
  tags := []
  peers := Quad.all 0xFFFF
  router := Router.reset
  port := Port.reset
  kv := Kv.reset
  computeOn := false
  nextId := 0
  bus := []
  inject := []
  sent := []
  power := Power.reset
  faults := Collector.reset
  burns := []
  burnt := []
  mend := Mend.reset
  resetting := none
  quiesce := none
  immediate := false
  bring := BringUp.reset
  trust := Trust.reset
  tiles := []
  bulk := []
  commit := none
  cold := false
  portsOpen := false
  fuseMaps := []

/-- The module right after reset. -/
def State.reset : State where
  now := 0
  quad := Quad.all Stack.reset
  mc := ModCtl.reset
  dawn := Quad.all []
  freeIx := 0
  pending := []

end Sys2Proof.Machine
end

