-- ==== Sys2Proof/Machine/Mem.lean ====
section
/-! DEFINITION. The memory of a stack (08_vaults_and_pantry.md, 09_memory_integrity.md): the local map, the DRAM word
code, region tags, SRAM granules, and the one operation that reads a line and the one that writes masked bytes of it. -/

namespace Sys2Proof.Machine

/-! ### Bytes -/

/-- What a byte of memory that nothing has written reads as (log 2; R279 leaves it open). DESIGN CHOICE, unsafe. -/
def unwritten (_ : Nat) : Byte := 0

/-- A byte of memory. -/
def readByte (m : List Host.Cell) (a : Nat) : Byte := tget unwritten m a

/-- Memory with one byte written. -/
def writeByte (m : List Host.Cell) (a : Nat) (v : Byte) : List Host.Cell := tset unwritten m a v

/-- The canonical form of memory. -/
def Memory.wf (m : List Host.Cell) : Bool := tblWf unwritten m

/-- The number whose little-endian bytes are `f i`, `n` of them. -/
def leNat (f : Nat → Byte) (n : Nat) : Nat :=
  match n with
  | 0 => 0
  | k + 1 => leNat f k + (f k).toNat * 256 ^ k

/-- The 64-bit word at byte `i` of a list. -/
def word64At (bs : List Byte) (i : Nat) : Word := bv 64 (bytesNat ((bs.drop i).take 8))

/-- Memory with bytes written from address `a` on. -/
def writeBytes (m : List Host.Cell) (a : Nat) (bs : List Byte) : List Host.Cell :=
  match bs with
  | [] => m
  | b :: r => writeBytes (writeByte m a b) (a + 1) r

/-! ### Lines -/

def Line.byte (l : Line) (i : Nat) : Byte := (l.data >>> (8 * i)).setWidth 8
def Line.zero : Line := ⟨0, 0⟩

/-- A line of zeros with every word poisoned (R231, R232). -/
def Line.lost : Line := ⟨0, 0xFFFF#16⟩

/-- A line from bytes, byte 0 first; missing bytes are 0. -/
def lineOfBytes (bs : List Byte) (marks : BitVec 16) : Line := ⟨bv 4096 (bytesNat bs), marks⟩

/-- The bytes of a line. -/
def lineBytes (l : Line) : List Byte := (List.range 512).map (Line.byte l)

/-- Element `i` of width `w` of a line (Table 3.2: elements of every width are packed from bit 0 up, R89). -/
def lineEl (w : Nat) (l : Line) (i : Nat) : Nat := l.data.toNat / 2 ^ (w * i) % 2 ^ w

/-- Whether element `i` of width `w` lies in a poisoned word: any word that holds one of its bits. -/
def elPoison (w : Nat) (l : Line) (i : Nat) : Bool :=
  l.marks.getLsbD (w * i / 256) || l.marks.getLsbD ((w * i + w - 1) / 256)

/-- The elements of a line in a format, with their poison. -/
def lineEls (f : Fmt) (l : Line) : List (Nat × Bool) :=
  (List.range (fmtPerLine f)).map (fun i => (lineEl (fmtWidth f) l i, elPoison (fmtWidth f) l i))

/-- Elements packed from bit 0 up, from element number `i` on. -/
def packFrom (w : Nat) (i : Nat) (els : List (Nat × Bool)) : Line :=
  match els with
  | [] => ⟨0, 0⟩
  | (c, p) :: r =>
    let l := packFrom w (i + 1) r
    ⟨l.data ||| (bv 4096 (c % 2 ^ w) <<< (w * i)),
     if p then l.marks ||| (1#16 <<< (w * i / 256)) ||| (1#16 <<< ((w * i + w - 1) / 256)) else l.marks⟩

/-- A line of elements of a format, padded with zeros (R89). -/
def packLine (f : Fmt) (els : List (Nat × Bool)) : Line := packFrom (fmtWidth f) 0 els

/-- The 32-bit elements of a line with their poison. -/
def line32 (l : Line) : List (BitVec 32 × Bool) :=
  (List.range 128).map (fun i => ((l.data >>> (32 * i)).setWidth 32, l.marks.getLsbD (i / 8)))

/-- A line of 32-bit elements. -/
def pack32 (els : List (BitVec 32 × Bool)) : Line := packFrom 32 0 (els.map (fun e => (e.1.toNat, e.2)))

/-- The 64 scalars of a line with their poison (R179). -/
def line64 (l : Line) : List (Word × Bool) :=
  (List.range 64).map (fun i => ((l.data >>> (64 * i)).setWidth 64, l.marks.getLsbD (i / 4)))

/-- A line of 64-bit scalars; scalars not written are 0 (R179). -/
def pack64 (els : List (Word × Bool)) : Line := packFrom 64 0 (els.map (fun e => (e.1.toNat, e.2)))

/-! ### The local map (Table 8.1) -/

/-- Where a local address lies: byte offset in a logical vault; byte offset in a pantry row bank; offset in the window
of a logical core; offset in the control window; nowhere (R235, R236). -/
inductive Place
  | vault (v : Nat) (o : Nat)
  | pantry (b : Nat) (o : Nat)
  | window (c : Nat) (o : Nat)
  | control (o : Nat)
  | nowhere
  deriving DecidableEq, Repr

/-- The decoding of a local address (Table 8.1). -/
def place (a : Nat) : Place :=
  if a < 0x1F80000000 then .vault (a / 0x30000000) (a % 0x30000000)
  else if 0x4000000000 ≤ a ∧ a < 0x4024000000 then .pantry ((a - 0x4000000000) / 0x4800000) ((a - 0x4000000000) % 0x4800000)
  else if 0x5000000000 ≤ a ∧ a < 0x50A8000000 then .window ((a - 0x5000000000) / 0x1000000) (a % 0x1000000)
  else if 0xF000000000 ≤ a ∧ a < 0xF001000000 then .control (a % 0x1000000)
  else .nowhere

/-- The local address of a core's window. -/
def windowBase (c : Nat) : Nat := 0x5000000000 + c * 0x1000000

/-- The kinds of core (Table 1.5, R26). -/
inductive CoreKind
  | m | v | s
  deriving DecidableEq, Repr

def coreKind (c : Nat) : CoreKind := if c < 0x80 then .m else if c < 0xA0 then .v else .s

/-- The row of a logical core (R26). -/
def coreRow (c : Nat) : Nat :=
  if c < 0x80 then c / 16 else if c < 0xA0 then (c - 0x80) / 4 else c - 0xA0

/-- Lines of scratch or data SRAM (R111, R140, R147). -/
def scratchLines (k : CoreKind) : Nat :=
  match k with
  | .m => 4096
  | .v => 8192
  | .s => 2048

/-- Lines of instruction memory (R195). -/
def imemLines (k : CoreKind) : Nat :=
  match k with
  | .s => 512
  | _ => 128

/-- The part of a core window an offset lies in (R111, R139, R147, R195, R235). -/
inductive WindowPart
  | scratch (o : Nat)
  | imem (o : Nat)
  | slice (o : Nat)
  | rejected
  deriving DecidableEq, Repr

def windowPart (k : CoreKind) (o : Nat) : WindowPart :=
  if o < scratchLines k * 512 then .scratch o
  else if 0x400000 ≤ o ∧ o < 0x400000 + imemLines k * 512 then .imem (o - 0x400000)
  else if 0x800000 ≤ o then .slice (o - 0x800000)
  else .rejected

/-- The local address of scratch or data SRAM line `x` of core `c`. -/
def scratchAddr (c x : Nat) : Nat := windowBase c + x * 512

/-- The layer, bank and row of line `x` of a vault (R238). -/
def lineLayer (x : Nat) : Nat := x % 8
def lineBank (x : Nat) : Nat := x / 8 % 16
def lineRow (x : Nat) : Nat := x / 128

/-! ### Parity of SRAM words (R274) -/

/-- The XOR of the low `n` bits of a number. -/
def xorBits (x : Nat) : Nat → Bool
  | 0 => false
  | n + 1 => xor (x.testBit n) (xorBits x n)

/-- The index of the SRAM word at a local address within its array, of 8 bytes a word: scratch or data SRAM, instruction memory or slice of a
core, a row bank of the pantry, or the stack controller's memories under the control window (log 97). -/
def sramIndex (a : Nat) : Nat :=
  match place a with
  | .window c o => (match windowPart (coreKind c) o with | .scratch x => x / 8 | .imem x => x / 8 | .slice x => x / 8 | .rejected => 0)
  | .pantry _ o => o / 8
  | .control o => o / 8
  | _ => 0

/-- The parity bit that R274 gives the SRAM word at a local address: of its 64 data bits and of the bits of its index. -/
def sramParity (m : List Host.Cell) (a : Nat) : Bool :=
  let d := leNat (fun i => readByte m (a / 8 * 8 + i)) 8
  xor (xorBits d 64) (xorBits (sramIndex a) 64)

/-! ### Sites (R24-R27) -/

/-- The register value of a stack. -/
def reg (s : Stack) (off : Nat) : Word := tget resetValue s.regs off

/-- A stack with a register's stored value replaced. -/
def setReg (s : Stack) (off : Nat) (v : Word) : Stack := { s with regs := tset resetValue s.regs off v }

/-- Position of M-site `m` and V-site `j` in a row (R24). -/
def mSitePos (m : Nat) : Nat := if m < 8 then m + 2 else m + 3
def vSitePos (j : Nat) : Nat := if j < 2 then j else j + 18

/-- The site that the row maps give a logical core (R25, R27). -/
def mapSite (map : Word) (c : Nat) : Nat :=
  let r := coreRow c
  match coreKind c with
  | .m =>
    let f := fld map 0 5
    let k := c % 16
    r * 23 + mSitePos (if k < f then k else k + 1)
  | .v =>
    let f := fld map 8 3
    let k := c % 4
    r * 23 + vSitePos (if k < f then k else k + 1)
  | .s => r * 23 + 10

/-- The site that hosts a logical core: the one it has migrated to in a repair under way (R530), or that of its row's
map. -/
def coreSite (s : Stack) (c : Nat) : Nat :=
  match tfind s.mend.moved c with
  | some p => p
  | none => mapSite (reg s (rIdRowMap (coreRow c))) c

/-- Whether a row is retired (R46). -/
def rowRetired (s : Stack) (r : Nat) : Bool := fld (reg s (rIdRowMap r)) 31 1 = 1

/-- The logical core that a site hosts, if any. -/
def siteCore (s : Stack) (p : Nat) : Option Nat :=
  (List.range 168).find? (fun c => decide (coreSite s c = p))

/-- Hierarchy address of a site on the compute die, of its slice, vault controller, near-bank unit and column (R38). -/
def haSite (p : Nat) : Nat := 0xA000 + (p / 23) * 0x100 + p % 23
def haSlice (p : Nat) : Nat := 0x9000 + (p / 23) * 0x100 + p % 23
def haVault (p : Nat) : Nat := 0x0000 + (p / 23) * 0x100 + p % 23
def haNbu (p : Nat) : Nat := (p / 23) * 0x100 + 0x20 + p % 23
def haColumn (p : Nat) : Nat := (p / 23) * 0x100 + 0x40 + p % 23
def haTile (layer p : Nat) : Nat := 0x1000 + layer * 0x1000 + p
def haPantry (b : Nat) : Nat := 0x9000 + b * 0x100 + 0x17
def haGlaze (r : Nat) : Nat := 0x9000 + r * 0x100 + 0x19
def haKvAgent (r : Nat) : Nat := 0x9000 + r * 0x100 + 0x1A
def haController : Nat := 0x0900
def haCollector : Nat := 0x0905
def haCollective : Nat := 0x0906
def haRouter : Nat := 0x0808
def haLink (l : Nat) : Nat := 0x0800 + l

/-! ### The DRAM word code (R263-R268) -/

/-- The parity-check columns of data bits: the 256 smallest 16-bit values of weight 3 (Table 9.2). -/
def hdList : List (BitVec 16) :=
  ((List.range 13).flatMap (fun h => (List.range h).flatMap (fun m => (List.range m).map (fun l =>
    bv 16 (2 ^ h + 2 ^ m + 2 ^ l))))).take 256

/-- The parity-check column of tag bit `j` (Table 9.2). -/
def hl (j : Nat) : BitVec 16 :=
  if j < 4 then 0x5#16 <<< j
  else if j < 18 then 0x3#16 <<< (j - 3)
  else if j < 22 then 0x9#16 <<< (j - 18)
  else 0x11#16 <<< (j - 22)

/-- XOR of the columns of the set bits of a word, from bit `i` on. -/
def xorCols (cols : List (BitVec 16)) (bit : Nat → Bool) (i : Nat) : BitVec 16 :=
  match cols with
  | [] => 0
  | h :: r => (if bit i then h else 0) ^^^ xorCols r bit (i + 1)

/-- The check value of R266. -/
def check (d : BitVec 256) (tag : Nat) (poison : Bool) : BitVec 16 :=
  let c := xorCols hdList d.getLsbD 0 ^^^ xorCols ((List.range 25).map hl) tag.testBit 0
  if poison then c ^^^ 0xFFFF#16 else c

/-- The location tag of a word (Table 9.1). -/
def locTag (layer bank row word : Nat) : Nat := layer * 2 ^ 22 + bank * 2 ^ 18 + row * 16 + word

/-- What a decode finds (Table 9.3). -/
inductive DecodeEvent
  | clean | poisonSeen | corrected | uncorrectable
  deriving DecidableEq, Repr

/-- The decoder of Table 9.3: data and syndrome give the data delivered, its mark and the event (R267). -/
def decodeWord (d : BitVec 256) (s : BitVec 16) : BitVec 256 × Bool × DecodeEvent :=
  if s = 0 then (d, false, .clean)
  else if s = 0xFFFF#16 then (d, true, .poisonSeen)
  else
    match hdList.findIdx? (fun h => h = s) with
    | some i => (d ^^^ (1#256 <<< i), false, .corrected)
    | none =>
      if (List.range 16).any (fun k => decide (s = 1#16 <<< k)) then (d, false, .corrected)
      else (d, true, .uncorrectable)

/-! ### Reading and writing a line -/

/-- The stored mark of the 32-byte word at word number `g` = address / 32: in DRAM the syndrome that its stored check
value gives under its own tag (PROTECTED) or the check value itself (COMPUTE); in SRAM 0xFFFF where the granule's
poison bit is set (R263, R269, R274). -/
def markOf (s : Stack) (g : Nat) : BitVec 16 := tget (fun _ => 0) s.marks g

/-- The tag bits of a vault's regions: bit j is 1 when region j is COMPUTE (R239, R432). -/
def tagsOf (s : Stack) (v : Nat) : BitVec 12 := tget (fun _ => 0) s.tags v

/-- How a line's words are held. -/
inductive Holding
  | coded | unchecked | sram
  deriving DecidableEq, Repr

/-- Whether line `l` of vault `v` has been re-encoded by a SET_REGION_TAG that has not come to the end of the line's region yet (R270). -/
def reencoded (s : Stack) (v l : Nat) : Bool :=
  s.tiles.any (fun t => t.retag.isSome && (match tfind t.left v with
    | some (n, _) => decide (n / 131072 = l / 131072 ∧ l < n)
    | none => false))

/-- How the line at a local address is held (R239, R269, R270, R274). -/
def holding (s : Stack) (a : Nat) : Holding :=
  match place a with
  | .vault v o => if (tagsOf s v).getLsbD (o / 0x4000000) != reencoded s v (o / 512) then .unchecked else .coded
  | _ => .sram

/-- The 512 data bytes stored at a line address. -/
def rawLine (s : Stack) (a : Nat) : BitVec 4096 := bv 4096 (leNat (fun i => readByte s.mem (a + i)) 512)

/-- Word `w` of line data. -/
def wordOf (d : BitVec 4096) (w : Nat) : BitVec 256 := (d >>> (256 * w)).setWidth 256

/-- Line data from its sixteen words. -/
def joinWords (f : Nat → BitVec 256) : BitVec 4096 :=
  (List.range 16).foldl (fun acc w => acc ||| ((f w).setWidth 4096 <<< (256 * w))) 0

/-- Sixteen marks from a predicate. -/
def joinMarks (f : Nat → Bool) : BitVec 16 :=
  (List.range 16).foldl (fun acc w => if f w then acc ||| (1#16 <<< w) else acc) 0

/-- The syndromes or marks of a line's sixteen words. -/
def lineSyn (s : Stack) (a : Nat) : List (BitVec 16) := (List.range 16).map (fun w => markOf s (a / 32 + w))

/-- A line delivered from data, syndromes and the way it is held (R267, R269, R275). -/
def deliver (h : Holding) (d : BitVec 4096) (syn : List (BitVec 16)) : Line :=
  match h with
  | .coded =>
    let dec := fun w => decodeWord (wordOf d w) (syn.getD w 0)
    ⟨joinWords (fun w => (dec w).1), joinMarks (fun w => (dec w).2.1)⟩
  | .unchecked => ⟨d, joinMarks (fun w => decide (syn.getD w 0 = 0xFFFF#16))⟩
  | .sram => ⟨d, joinMarks (fun w => decide (syn.getD w 0 ≠ 0))⟩

/-- The line at a line address, as a read delivers it. -/
def readLine (s : Stack) (a : Nat) : Line := deliver (holding s a) (rawLine s a) (lineSyn s a)

/-- The bits of a byte mask that fall in word `w`. -/
def maskWord (mask : BitVec 512) (w : Nat) : BitVec 32 := (mask >>> (32 * w)).setWidth 32

/-- The whole-line mask. -/
def fullMask : BitVec 512 := BitVec.allOnes 512

/-- The mask of `n` bytes from byte `o`. -/
def spanMask (o n : Nat) : BitVec 512 := ((1#512 <<< n) - 1#512) <<< o

/-- Whether a mask covers some word only in part (R271). -/
def maskPartial (mask : BitVec 512) : Bool :=
  (List.range 16).any (fun w => decide (maskWord mask w ≠ 0 ∧ maskWord mask w ≠ BitVec.allOnes 32))

/-- The data of word `w` with the masked bytes of `new` merged in. -/
def mergeWord (old new : BitVec 256) (m : BitVec 32) : BitVec 256 :=
  (List.range 32).foldl (fun acc i =>
    if m.getLsbD i then
      (acc &&& ~~~(0xFF#256 <<< (8 * i))) ||| (new &&& (0xFF#256 <<< (8 * i)))
    else acc) old

/-- Data and stored mark of one word after a write (R269, R271-R273, R276). `rmw` says that another word of the line
is written in part, so the row is read and corrected words are written back. -/
def writeWord (h : Holding) (rmw : Bool) (old : BitVec 256) (syn : BitVec 16) (new : BitVec 256) (poison : Bool)
    (m : BitVec 32) : BitVec 256 × BitVec 16 :=
  if m = BitVec.allOnes 32 then (new, if poison then 0xFFFF#16 else 0)
  else if m = 0 then
    match h with
    | .coded =>
      if rmw then
        let (d, _, e) := decodeWord old syn
        if e = .corrected then (d, 0) else (old, syn)
      else (old, syn)
    | _ => (old, syn)
  else
    match h with
    | .coded =>
      let (d, bad, _) := decodeWord old syn
      (mergeWord d new m, if bad || poison then 0xFFFF#16 else 0)
    | _ => (mergeWord old new m, if poison then 0xFFFF#16 else syn)

/-- The stack with the data bytes and marks of one line replaced. -/
def putLine (s : Stack) (a : Nat) (d : BitVec 4096) (syn : Nat → BitVec 16) : Stack :=
  { s with
    mem := writeBytes s.mem a ((List.range 512).map (fun i => (d >>> (8 * i)).setWidth 8))
    marks := (List.range 16).foldl (fun t w => tset (fun _ => 0) t (a / 32 + w) (syn w)) s.marks }

/-- The parity bit stored with the SRAM word at a local address: the one of its last write, or not the one of R274 after an upset (R275). -/
def storedParity (s : Stack) (a : Nat) : Bool := xor (sramParity s.mem a) (tget (fun _ => false) s.parity (a / 8))

/-- The parity bits of the SRAM words that a masked write of the line at `a` touches, generated anew (R274). -/
def freshParity (s : Stack) (a : Nat) (mask : BitVec 512) : Stack :=
  { s with parity := s.parity.filter (fun e => decide (e.1 / 64 ≠ a / 512 ∨ (mask >>> (8 * (e.1 % 64))).setWidth 8 = 0#8)) }

/-- The stack with the masked bytes of a line written. -/
def writeLine (s : Stack) (a : Nat) (l : Line) (mask : BitVec 512) : Stack :=
  let h := holding s a
  let old := rawLine s a
  let part := maskPartial mask
  let new := fun w =>
    writeWord h part (wordOf old w) (markOf s (a / 32 + w)) (wordOf l.data w) (l.marks.getLsbD w) (maskWord mask w)
  putLine (freshParity s a mask) a (joinWords (fun w => (new w).1)) (fun w => (new w).2)

/-- Whether a write stores a poisoned word in a PROTECTED region, a point of Table 9.8 (R231, R291). -/
def storesPoison (s : Stack) (a : Nat) (l : Line) (mask : BitVec 512) : Bool :=
  holding s a = .coded && (List.range 16).any (fun w => l.marks.getLsbD w && decide (maskWord mask w ≠ 0))

/-- Stored DRAM bits flipped by upsets (R266): a data bit changes the data and the syndrome by its column, a check bit
the syndrome alone. Nothing happens where the word is not in DRAM. -/
def flipDram (s : Stack) (u : DramUpsets) : Stack :=
  u.foldl (fun s x =>
    let g := x.1
    let b := x.2
    match place (g * 32) with
    | .vault _ _ =>
      if b < 256 then
        let a := g * 32 + b / 8
        { s with
          mem := writeByte s.mem a (readByte s.mem a ^^^ (1#8 <<< (b % 8)))
          marks := tset (fun _ => 0) s.marks g
            (if holding s (g * 32) = .coded then markOf s g ^^^ hdList.getD b 0 else markOf s g) }
      else { s with marks := tset (fun _ => 0) s.marks g (markOf s g ^^^ (1#16 <<< (b - 256))) }
    | _ => s) s

end Sys2Proof.Machine
end

