-- ==== Sys2Proof/Machine/Ops.lean ====
section
/-! DEFINITION. The named operations over a stack: its cores, rows and vault controllers, raising a fault, numbering. -/

namespace Sys2Proof.Machine

/-! ### Stacks, cores, rows, sites -/

/-- ceil(n / k). -/
def ceilDiv (n k : Nat) : Nat := (n + k - 1) / k

/-- Stack `i` of the module. -/
def State.stack (s : State) (i : StackIx) : Stack := s.quad.get i

/-- The module with stack `i` replaced. -/
def State.setStack (s : State) (i : StackIx) (x : Stack) : State := { s with quad := s.quad.set i x }

/-- The module with stack `i` changed by `f`. -/
def State.onStack (s : State) (i : StackIx) (f : Stack → Stack) : State := s.setStack i (f (s.stack i))

/-- Core `c` of a stack. -/
def Stack.core (s : Stack) (c : Nat) : Core := tget (fun _ => Core.reset) s.cores c

/-- The stack with core `c` replaced. -/
def Stack.setCore (s : Stack) (c : Nat) (k : Core) : Stack := { s with cores := tset (fun _ => Core.reset) s.cores c k }

/-- The stack with core `c` changed by `f`. -/
def Stack.onCore (s : Stack) (c : Nat) (f : Core → Core) : Stack := s.setCore c (f (s.core c))

/-- Row `r` of a stack. -/
def Stack.row (s : Stack) (r : Nat) : Row := tget (fun _ => Row.reset) s.rows r

/-- The stack with row `r` replaced. -/
def Stack.setRow (s : Stack) (r : Nat) (x : Row) : Stack := { s with rows := tset (fun _ => Row.reset) s.rows r x }

/-- The vault controller of site `p`. -/
def Stack.vault (s : Stack) (p : Nat) : VaultCtl := tget (fun _ => VaultCtl.reset) s.vaults p

/-- The stack with the vault controller of site `p` replaced. -/
def Stack.setVault (s : Stack) (p : Nat) (v : VaultCtl) : Stack :=
  { s with vaults := tset (fun _ => VaultCtl.reset) s.vaults p v }

/-- A list kept per key: the list at key `k`. -/
def listAt {α : Type} (t : Tbl (List α)) (k : Nat) : List α := tget (fun _ => []) t k

/-- The table of lists with the list at key `k` replaced. -/
def setListAt {α : Type} [DecidableEq α] (t : Tbl (List α)) (k : Nat) (l : List α) : Tbl (List α) :=
  tset (fun _ => []) t k l

/-! ### Faults on their way to the collector (R518) -/

/-- Whether a job runs on the stack's partition (Table 13.10: RUNNING, or DISABLING while the job goes on). -/
def jobRuns (s : Stack) : Bool := decide (s.pstate = .running ∨ (s.pstate = .disabling ∧ s.tick.phase ≠ .idle))

/-- A fault of the stack with the present tick of the present job. -/
def stampRaise (s : Stack) (r : Raise) : Raise :=
  if jobRuns s then { r with tick := reg s rTckNumber, job := some s.faults.job } else r

/-- The stack with a fault raised: it joins the record bus and reaches the collector at FAULT_RECORD_ARRIVE. -/
def raise (s : Stack) (r : Raise) : Stack := { s with bus := s.bus ++ [stampRaise s r] }

/-- Fault source numbers (Table 16.2). -/
def fErrorWire : Nat := 0x001
def fSiteFailed : Nat := 0x002
def fRowRetired : Nat := 0x003
def fCoilSpare : Nat := 0x004
def fColDegraded : Nat := 0x005
def fWatchdog : Nat := 0x006
def fTickOverrun : Nat := 0x010
def fSyncStall : Nat := 0x011
def fTickRunaway : Nat := 0x012
def fCollStall : Nat := 0x013
def fCrustMismatch : Nat := 0x020
def fCellFault : Nat := 0x021
def fSeqLoop : Nat := 0x022
def fImemFetch : Nat := 0x023
def fMxDesc : Nat := 0x024
def fVxIndex : Nat := 0x025
def fDqAlias : Nat := 0x026
def fMemAddr : Nat := 0x027
def fRemoteLost : Nat := 0x028
def fMcPartial : Nat := 0x029
def fNlDir : Nat := 0x02A
def fSignalTarget : Nat := 0x02B
def fLinkFault : Nat := 0x02C
def fLinkReplay : Nat := 0x02D
def fDramCorrected : Nat := 0x040
def fSramReread : Nat := 0x041
def fColReplay : Nat := 0x042
def fBondReplay : Nat := 0x043
def fGlazeReplay : Nat := 0x044
def fDramUncorrectable : Nat := 0x045
def fSramPoison : Nat := 0x046
def fRepairExhausted : Nat := 0x047
def fColFault : Nat := 0x048
def fBondFault : Nat := 0x049
def fGlazeFault : Nat := 0x04A
def fPoisonBite : Nat := 0x04B
def fNbuProtect : Nat := 0x050
def fNbuAddr : Nat := 0x051
def fNbuIndex : Nat := 0x052
def fNbuAbort : Nat := 0x053
def fKvOverrun : Nat := 0x054
def fIvtReplay : Nat := 0x060
def fIvtLinkFault : Nat := 0x061
def fCollMismatch : Nat := 0x062
def fIvtLinkDown : Nat := 0x063
def fIvtHops : Nat := 0x064
def fIvtTimeout : Nat := 0x065
def fCapOver : Nat := 0x070
def fGrantWait : Nat := 0x071
def fThmHard : Nat := 0x072
def fSensorSplit : Nat := 0x073
def fSensorOpen : Nat := 0x074
def fSensorFail : Nat := 0x075
def fCoolantLow : Nat := 0x076
def fCoolantWarm : Nat := 0x077
def fThermtrip : Nat := 0x078
def fCoolantStop : Nat := 0x079
def fBaseAbort : Nat := 0x080
def fTopologyHeld : Nat := 0x081
def fTrainFail : Nat := 0x082
def fRecordInvalid : Nat := 0x083

/-- Consumption points of poison, by their field in FLT_POISON_SEV (Table 9.8, Table 16.3). -/
def biteAddress : Nat := 0
def biteControl : Nat := 1
def biteCrust : Nat := 2
def biteReply : Nat := 3
def biteEgress : Nat := 4
def biteStore : Nat := 5

/-- The code of an engine (Table 6.1). -/
def engineCode (e : Engine) : Nat :=
  match e with
  | .mx => 0 | .vx => 1 | .sx => 2 | .ld => 3 | .st => 4 | .nl => 5 | .fx => 6 | .seq => 7

/-- The code of a direction (Table 7.9). -/
def dirCode (d : Dir) : Nat :=
  match d with
  | .north => 0 | .east => 1 | .south => 2 | .west => 3

/-- The tick that the member counts (R80). -/
def tickOf (s : Stack) : Nat := (reg s rTckNumber).toNat

/-- Whether a stack is at a tick boundary, or runs no job. -/
def atBoundary (s : Stack) : Bool := decide (s.tick.phase ≠ .run) || decide (s.tick.doneSent = tickOf s + 1)

/-- Whether the coil test of some column is due, and whether that of site `p` runs: at a tick boundary, or at once where no job runs; the requests
to the vault wait for its end (R533). -/
def testsDue (s : Stack) : Bool := s.vaults.any (fun e => e.2.testDue)
def testing (s : Stack) (p : Nat) : Bool := (s.vault p).testDue && atBoundary s

/-- A member at a tick boundary at which coil tests are due goes into tick hold for them (R533). -/
def beginTest (s : Stack) : Stack :=
  if testsDue s ∧ atBoundary s ∧ s.tick.phase ≠ .idle ∧ !s.tick.hold then { s with tick := { s.tick with hold := true, testHold := true } } else s

/-- The report of a core in the layout of CORE_FAULT (Table 6.11); SEV is filled when the collector knows it. -/
def coreReport (s : Stack) (source : Nat) (e : Engine) (qpos : Nat) : Word :=
  bv 64 (2 ^ 63 + (tickOf s % 65536) * 2 ^ 32 + source * 2 ^ 20 + engineCode e * 2 ^ 16 + (qpos % 32) * 2 ^ 11)

/-- A fault that an engine of core `c` raises on the operation at queue position `qpos` (Table 7.11, R204). -/
def raiseCore (s : Stack) (c : Nat) (e : Engine) (qpos source : Nat) : Stack :=
  raise s { source := source, addr := haSite (coreSite s c), core := some c, detail0 := coreReport s source e qpos,
            attributed := true }

/-- A poison bite of core `c` at a consumption point (R291, R292). -/
def biteCore (s : Stack) (c : Nat) (e : Engine) (qpos point : Nat) : Stack :=
  raise s { source := fPoisonBite, addr := haSite (coreSite s c), core := some c,
            detail0 := coreReport s fPoisonBite e qpos, detail1 := bv 64 point, attributed := true }

/-- A poison bite of another unit. -/
def biteUnit (s : Stack) (addr point : Nat) : Stack :=
  raise s { source := fPoisonBite, addr := addr, detail1 := bv 64 point }

/-! ### Leaving an idle state (R458, R461) -/

/-- An exit begun from SIMMER (2 µs) or BANKED (1.5 ms), where none is in progress. -/
def wake (now : Nat) (s : Stack) : Stack :=
  if s.power.idle = 0 ∨ s.power.exitEnd.isSome then s
  else { s with power := { s.power with exitEnd := some (now + if s.power.idle = 1 then 5000 else 3750000) } }

/-- An exit begun from SIMMER alone. -/
def wakeSimmer (now : Nat) (s : Stack) : Stack := if s.power.idle = 1 then wake now s else s

/-! ### Injected checks (R526) -/

/-- The key of a checker: unit and index. -/
def checkerKey (unit checker : Nat) : Nat := unit * 16 + checker

/-- Whether the next check of a checker is inverted, and the stack with one check taken from the count. -/
def takeInject (s : Stack) (unit checker : Nat) : Bool × Stack :=
  let n := tget (fun _ => 0) s.inject (checkerKey unit checker)
  if n = 0 then (false, s) else (true, { s with inject := tset (fun _ => 0) s.inject (checkerKey unit checker) (n - 1) })

/-! ### SRAM reads whose parity fails (R275) -/

/-- The unit that holds an SRAM granule, with the logical core concerned and whether it is instruction memory. -/
def sramUnit (s : Stack) (a : Nat) : Nat × Option Nat × Bool :=
  match place a with
  | .window c o =>
    match windowPart (coreKind c) o with
    | .slice _ => (haSlice (coreSite s c), some c, false)
    | .imem _ => (haSite (coreSite s c), some c, true)
    | _ => (haSite (coreSite s c), some c, false)
  | .pantry b _ => (haPantry b, none, false)
  | _ => (haController, none, false)

/-! ### Failed sites (R24, R27, R28, R46, R527, R540) -/

/-- The bit of a row's pending map that position `q` has (Table 16.10): M-sites, V-sites, the S site. -/
def pendBit (q : Nat) : Nat :=
  if q < 2 then 17 + q
  else if q < 10 then q - 2
  else if q = 10 then 22
  else if q < 20 then q - 3
  else 17 + (q - 18)

/-- Chain indices below `n` whose pending bits, from bit `lo`, are set and that are not the recorded failure. -/
def pendingIn (pend : Word) (lo n known : Nat) : List Nat :=
  (List.range n).filter (fun i => fld pend (lo + i) 1 = 1 && decide (i ≠ known))

/-- ID_ROW_MAPn once every pending failure of the row is applied (R27-R29, R46). -/
def rowMapAfter (map pend : Word) : Word :=
  let m := pendingIn pend 0 17 (fld map 0 5)
  let v := pendingIn pend 17 5 (fld map 8 3)
  let m2 := decide (2 ≤ m.length) || (m ≠ [] && decide (fld map 0 5 ≠ 0x1F)) || decide (fld map 17 1 = 1)
  let v2 := decide (2 ≤ v.length) || (v ≠ [] && decide (fld map 8 3 ≠ 7)) || decide (fld map 18 1 = 1)
  let sf := decide (fld pend 22 1 = 1) || decide (fld map 16 1 = 1)
  let one := fun (b : Bool) => if b then 1 else 0
  let map := setFld (setFld (setFld (setFld map 16 1 (one sf)) 17 1 (one m2)) 18 1 (one v2)) 31 1 (one (sf || m2 || v2))
  if sf || m2 || v2 then map
  else
    let map := match m with | i :: _ => setFld map 0 5 i | [] => map
    match v with | i :: _ => setFld map 8 3 i | [] => map

/-- Every failure of row `r` that stands against its map: those pending, and those that the core-repair fuses hold (R43, R46). -/
def rowFails (s : Stack) (r : Nat) : Word :=
  s.burnt.foldl (fun w p => if p / 23 = r then setFld w (pendBit (p % 23)) 1 1 else w) (reg s (rFltRowPend r))

/-- The marking of a site as failed (R135, R527): SITE_FAILED is raised once per site, with ID_ROW_MAPn as it will read
once the row's pending failures are applied (Table 16.3), and the site's pending bit is set. -/
def siteFailed (s : Stack) (p : Nat) : Stack :=
  let r := p / 23
  let w := reg s (rFltRowPend r)
  let b := pendBit (p % 23)
  if fld w b 1 = 1 ∨ s.burnt.contains p then s
  else
    let s := setReg s (rFltRowPend r) (setFld w b 1 1)
    raise s { source := fSiteFailed, addr := haSite p, core := siteCore s p,
              detail1 := rowMapAfter (reg s (rIdRowMap r)) (rowFails s r) }

/-- One failed parity check of the granule `g`: a repeated read that passes raises SRAM_REREAD, one that fails again
poisons the granule and raises SRAM_POISON (R275), against the stack controller where the granule lies in its memories (the model keeps
them under the control window, log 83). The parity bit of a word of the granule, taken to be its first, is from then on not the one of R274 (log
97). SRAM_POISON events of a core's site are counted while a job runs, and the site fails from FLT_REPAIR_CFG.SRAM_LIMIT of them on (Table 16.5). -/
def sramUpset (s : Stack) (g : Nat) (again : Bool) : Stack :=
  match place (g * 32) with
  | .vault _ _ => s
  | .nowhere => s
  | _ =>
    let (u, c, _) := sramUnit s (g * 32)
    if again then
      let s := { s with marks := tset (fun _ => 0) s.marks g 0xFFFF#16, parity := tset (fun _ => false) s.parity (4 * g) true }
      let s := raise s { source := fSramPoison, addr := u, core := c }
      match c with
      | some c =>
        if !jobRuns s then s
        else
          let n := (s.core c).sramPoison + 1
          let s := s.onCore c (fun k => { k with sramPoison := n })
          let lim := fld (reg s rFltRepairCfg) 8 8
          if lim ≠ 0 ∧ lim ≤ n then siteFailed s (coreSite s c) else s
      | none => s
    else raise s { source := fSramReread, addr := u, core := c }

/-- The stack with every raise past the first `n` on its record bus marked as raised by an injected check (R526). -/
def markInjected (inj : Bool) (n : Nat) (s : Stack) : Stack :=
  if inj then { s with bus := s.bus.take n ++ (s.bus.drop n).map (fun r => { r with injected := true }) } else s

/-- The words of granule `g`'s line whose stored parity bit is not the one that R274 gives fail each read, and its repetition (R275). -/
def standingParity (s : Stack) (g : Nat) : Stack :=
  (s.parity.filter (fun e => decide (e.1 / 64 = g / 16))).foldl (fun s e => sramUpset s (e.1 / 4) true) s

/-- An SRAM read of the line of granule `g`: words whose parity stands wrong fail; where the checker has injected checks waiting, granule `g`
fails, and its repeated read too where a second check waits (R526). -/
def injectSram (s : Stack) (unit checker g : Nat) : Stack :=
  let s := standingParity s g
  let (a, s) := takeInject s unit checker
  if a then
    let (b, s) := takeInject s unit checker
    let n := s.bus.length
    markInjected true n (sramUpset s g b)
  else s

/-- The parity failures of a step's SRAM reads. -/
def applyUpsets (s : Stack) (u : Upsets) : Stack := u.foldl (fun s x => sramUpset s x.1 x.2) s

/-! ### Engine queues -/

/-- The instruction queue of an engine other than FX and the sequencer. -/
def Core.queue (k : Core) (e : Engine) : List QEntry :=
  match e with
  | .mx => k.mx | .vx => k.vx | .sx => k.sx | .ld => k.ld | .st => k.st | .nl => k.nl | .fx => [] | .seq => []

/-- The core with that queue replaced. -/
def Core.setQueue (k : Core) (e : Engine) (q : List QEntry) : Core :=
  match e with
  | .mx => { k with mx := q } | .vx => { k with vx := q } | .sx => { k with sx := q } | .ld => { k with ld := q }
  | .st => { k with st := q } | .nl => { k with nl := q } | .fx => k | .seq => k

/-- The engines that a core kind has (Table 6.1). -/
def hasEngine (k : CoreKind) (e : Engine) : Bool :=
  match e with
  | .mx => decide (k = .m)
  | .vx => decide (k = .v)
  | .sx => decide (k = .s)
  | _ => true

/-- The engines with an instruction queue of their own order. -/
def queueEngines : List Engine := [.mx, .vx, .sx, .ld, .st, .nl]

/-- The engine whose work a decoded instruction is (R169). -/
def opEngine (o : CoreOp) : Engine :=
  match o with
  | .pass _ => .mx | .drain _ => .mx | .vx _ _ => .vx | .sx _ _ => .sx | .ldl _ => .ld | .ldx _ => .ld | .atom _ => .ld
  | .stl _ => .st | .stx _ => .st | .send _ => .nl | .fx _ => .fx | .seq _ => .seq

/-- Entry `uid` of a queue. -/
def findEntry (q : List QEntry) (uid : Nat) : Option QEntry := q.find? (fun x => x.uid = uid)

/-- The queue with entry `uid` replaced. -/
def putEntry (q : List QEntry) (x : QEntry) : List QEntry := q.map (fun y => if y.uid = x.uid then x else y)

/-- The stack with an entry of an engine's queue replaced. -/
def putOp (s : Stack) (c : Nat) (e : Engine) (x : QEntry) : Stack :=
  s.onCore c (fun k => k.setQueue e (putEntry (k.queue e) x))

/-- The position of entry `uid` in its queue (QPOS). -/
def qposOf (q : List QEntry) (uid : Nat) : Nat := q.findIdx (fun x => x.uid = uid)

/-! ### Time (log 3) -/

/-- The registers of the four stacks. -/
def moduleRegs (q : Quad Stack) : Quad (Tbl Word) := ⟨q.q0.regs, q.q1.regs, q.q2.regs, q.q3.regs⟩

/-- The module at CCLK cycle `t`, when that lies ahead: a new cycle finds the registers as they stand (R15). -/
def State.atCycle (s : State) (t : Nat) : State := if t ≤ s.now then s else { s with now := t, dawn := moduleRegs s.quad }

end Sys2Proof.Machine
end

