-- ==== Sys2Proof/Machine/Operands.lean ====
section
/-! DEFINITION. Data queues and operand ends (R174-R180): where a queue's lines lie, popping, peeking, pushing and
reserving lines, the scalars of an S-core's queues, and reading and writing a line through an end specifier. -/

namespace Sys2Proof.Machine

/-! ### A queue and its storage (R174) -/

/-- The state of queue `q` of core `c`. -/
def Stack.dq (s : Stack) (c q : Nat) : DQ := tget (fun _ => DQ.empty) (s.core c).dqs q

/-- The stack with that queue's state replaced. -/
def Stack.setDq (s : Stack) (c q : Nat) (x : DQ) : Stack :=
  s.onCore c (fun k => { k with dqs := tset (fun _ => DQ.empty) k.dqs q x })

/-- First line and depth of a queue (Table 6.14). -/
def dqBase (s : Stack) (c q : Nat) : Nat := fld (reg s (rDqCfg c q)) 32 13
def dqDepth (s : Stack) (c q : Nat) : Nat := fld (reg s (rDqCfg c q)) 0 7

/-- The scratch line that holds entry `i` from the head of a queue. -/
def dqLine (s : Stack) (c q i : Nat) : Nat :=
  let d := dqDepth s c q
  if d = 0 then dqBase s c q else dqBase s c q + ((s.dq c q).head + i) % d

/-- Whether scratch line `x` lies in a configured queue's storage (R180). -/
def inQueueStorage (s : Stack) (c x : Nat) : Bool :=
  (List.range 16).any (fun q => decide (dqBase s c q ≤ x ∧ x < dqBase s c q + dqDepth s c q))

/-- The line of scratch or data SRAM line `x`. -/
def scratchLine (s : Stack) (c x : Nat) : Line := readLine s (scratchAddr c x)

/-- The stack with that line written. -/
def setScratch (s : Stack) (c x : Nat) (l : Line) : Stack := writeLine s (scratchAddr c x) l fullMask

/-- Whether entry `i` from the head may be read (R177). -/
def dqReady (s : Stack) (c q i : Nat) : Bool := decide ((s.dq c q).slots[i]? = some .full)

/-- Entry `i` from the head of a queue. -/
def dqPeek (s : Stack) (c q i : Nat) : Line := scratchLine s c (dqLine s c q i)

/-- The stack with the head line of a queue gone (R177). -/
def dqDrop (s : Stack) (c q : Nat) : Stack :=
  let d := s.dq c q
  let depth := dqDepth s c q
  s.setDq c q { d with head := if depth = 0 then 0 else (d.head + 1) % depth, slots := d.slots.drop 1, popped := 0 }

/-- Whether a queue has room for one more line (R177, R178). -/
def dqRoom (s : Stack) (c q : Nat) : Bool := decide ((s.dq c q).slots.length < dqDepth s c q)

/-- The stack with one more entry in a queue, counted in its high water (R177, R208). -/
def dqAppend (s : Stack) (c q : Nat) (x : Slot) : Stack :=
  let d := s.dq c q
  let n := d.slots.length + 1
  s.setDq c q { d with slots := d.slots ++ [x], high := max d.high n }

/-- The stack with a line pushed at the tail of a queue. -/
def dqPush (s : Stack) (c q : Nat) (l : Line) (x : Slot) : Stack :=
  let s := setScratch s c (dqLine s c q (s.dq c q).slots.length) l
  dqAppend s c q x

/-- The entry of a queue that operation `uid` holds as its line `i`. -/
def dqFind (s : Stack) (c q uid i : Nat) : Option Nat := (s.dq c q).slots.findIdx? (fun x => x = Slot.held uid i)

/-- The stack with a reserved line landed: its storage written and the consumer allowed to read it (R177). -/
def dqLand (s : Stack) (c q uid i : Nat) (l : Line) : Stack :=
  match dqFind s c q uid i with
  | none => s
  | some k =>
    let s := setScratch s c (dqLine s c q k) l
    let d := s.dq c q
    s.setDq c q { d with slots := d.slots.set k .full }

/-! ### What an attempt gives -/

/-- The outcome of an attempt to read or write one line: it went on with a value and a stack, or it waits, with the
KIND and OBJECT of the wait (R69, R178, Table 2.11). -/
inductive Try (α : Type)
  | go (v : α) (s : Stack)
  | wait (kind object : Nat)

/-- Reading line `j` of an operand through an end (R176): a POP end takes the head line, a PEEK end the line `i + j`
places behind the head as it stands, a LINE end line `x + j`. -/
def readEnd (s : Stack) (c : Nat) (e : EndSpec) (j : Nat) : Try Line :=
  match e with
  | .pop q => if dqReady s c q.val 0 then .go (dqPeek s c q.val 0) (dqDrop s c q.val) else .wait 1 q.val
  | .peek i q => if dqReady s c q.val (i.val + j) then .go (dqPeek s c q.val (i.val + j)) s else .wait 1 q.val
  | .line x => .go (scratchLine s c (x.val + j)) s
  | .push _ => .go Line.zero s
  | .none => .go Line.zero s

/-- Writing line `j` of a result through an end (R176). -/
def writeEnd (s : Stack) (c : Nat) (e : EndSpec) (j : Nat) (l : Line) : Try Unit :=
  match e with
  | .push q => if dqRoom s c q.val then .go () (dqPush s c q.val l .full) else .wait 2 q.val
  | .line x => .go () (setScratch s c (x.val + j) l)
  | _ => .go () s

/-! ### Scalars of an S-core (R179) -/

/-- The head line after one more of its scalars is popped: it leaves the queue with its scalar 63. -/
def sxPopped (s : Stack) (c q : Nat) : Stack :=
  let d := s.dq c q
  if d.popped = 63 then dqDrop s c q else s.setDq c q { d with popped := d.popped + 1 }

/-- LES: the head line of a popped source ends when part of it has been popped (R179, R224; log 13: once, after the
operation's last pop). -/
def endHead (s : Stack) (c : Nat) (e : EndSpec) : Stack :=
  match e with
  | .pop q => if (s.dq c q.val).popped = 0 then s else dqDrop s c q.val
  | _ => s

/-- Reading a scalar through an end: POP takes the next scalar of the head line, PEEK scalar `i` of it, and NONE
stands for the immediate, sign-extended (R179, R224). -/
def readScalar (s : Stack) (c : Nat) (e : EndSpec) (imm : BitVec 32) : Try (Word × Bool) :=
  match e with
  | .pop q =>
    if dqReady s c q.val 0 then
      .go ((line64 (dqPeek s c q.val 0)).getD (s.dq c q.val).popped (0, false)) (sxPopped s c q.val)
    else .wait 1 q.val
  | .peek i q =>
    if dqReady s c q.val 0 then .go ((line64 (dqPeek s c q.val 0)).getD i.val (0, false)) s else .wait 1 q.val
  | _ => .go (imm.signExtend 64, false) s

/-- Pushing a scalar: it joins the tail line being written; that line is pushed with its scalar 63 or with LED, the
scalars not written as 0. A tail line needs room (R178, R179). The scalars of a tail line that is being written are kept aside until the push, so
that a load of its storage reads the line as it was (the manual does not say what it reads; DESIGN CHOICE, log 95). -/
def pushScalar (s : Stack) (c q : Nat) (v : Word × Bool) (led : Bool) : Try Unit :=
  if dqRoom s c q then
    let d := s.dq c q
    let part := d.part ++ [v]
    if led ∨ part.length = 64 then .go () (dqPush (s.setDq c q { d with part := [] }) c q (pack64 part) .full)
    else .go () (s.setDq c q { d with part := part })
  else .wait 2 q

end Sys2Proof.Machine
end

