-- ==== Sys2Proof/Machine/Flags.lean ====
section
/-! DEFINITION. Flags (R148, R182-R187): local flags of a core, row flags held by the row's S-core. -/

namespace Sys2Proof.Machine

/-- The local flags of a core as cycle `now` began (R185). -/
def flagsAtDawn (now : Nat) (k : Core) : BitVec 64 := if k.flagsAt = now then k.flagsWere else k.flags

/-- The value of flag `f` as core `c` sees it in cycle `now` (Table 6.5): of a local flag, its value at the start of the cycle (R185). -/
def flagSeen (now : Nat) (s : Stack) (c f : Nat) : Bool :=
  if f < 64 then (flagsAtDawn now (s.core c)).getLsbD f else (s.row (coreRow c)).flags.getLsbD (f - 64)

/-- A 64-bit flag register with bit `f` set to `v`. -/
def flagBits (x : BitVec 64) (f : Nat) (v : Bool) : BitVec 64 :=
  if v then x ||| (1#64 <<< f) else x &&& ~~~(1#64 <<< f)

/-- A core with local flag `f` written in cycle `now`: of the writes of one cycle a SET stands over every clear (R186). -/
def writeLocal (now f : Nat) (v : Bool) (k : Core) : Core :=
  let set := if k.flagsAt = now then k.flagsSet else 0
  { k with flags := flagBits k.flags f (v || set.getLsbD f), flagsAt := now, flagsWere := flagsAtDawn now k,
           flagsSet := if v then flagBits set f true else set, flagsTaken := if k.flagsAt = now then k.flagsTaken else 0 }

/-- Whether a WAITC has taken local flag `f` in cycle `now` (R186). -/
def flagTaken (now f : Nat) (k : Core) : Bool := decide (k.flagsAt = now) && k.flagsTaken.getLsbD f

/-- A core whose local flag `f` a WAITC clears in cycle `now` (R186). -/
def takeLocal (now f : Nat) (k : Core) : Core :=
  let k := writeLocal now f false k
  { k with flagsTaken := flagBits k.flagsTaken f true }

/-- The stack with local flag `f` of core `c` written in cycle `now`. -/
def setLocalFlag (now : Nat) (s : Stack) (c f : Nat) (v : Bool) : Stack := s.onCore c (writeLocal now f v)

/-- A write of flag `f` by core `c` in cycle `now`: a local flag at the end of the cycle, a row flag on its way to the S-core
(R148, R185, R186). -/
def writeFlag (now : Nat) (s : Stack) (c f : Nat) (v : Bool) : Stack :=
  if f < 64 then setLocalFlag now s c f v
  else if f < 128 then
    let r := coreRow c
    let x := s.row r
    s.setRow r { x with flagOps := x.flagOps ++ [(now, v, f - 64)] }
  else s

end Sys2Proof.Machine
end

