-- ==== Sys2Proof/Machine/CoreDecode.lean ====
section
/-! DEFINITION. The instruction word of a core (R209-R211): its 128 bits decoded into an operation, total, with none for
a word that names no operation of the tables. -/

namespace Sys2Proof.Machine

/-- The field of `w` bits of an instruction word from bit `lo`. -/
def ifld (x : BitVec 128) (lo w : Nat) : Nat := x.toNat / 2 ^ lo % 2 ^ w

/-- The end specifier of a 16-bit field (Table 6.4); 0xFFFF is NONE (R210). -/
def decodeEnd (v : Nat) : Option EndSpec :=
  let q := Fin.ofNat 16 (v % 16)
  if v = 0xFFFF then some .none
  else if v / 16384 = 0 then (if v % 16384 < 16 then some (.pop q) else none)
  else if v / 16384 = 1 then (if v % 16384 < 1024 then some (.peek (Fin.ofNat 64 (v / 16 % 64)) q) else none)
  else if v / 16384 = 2 then (if v % 16384 < 16 then some (.push q) else none)
  else if v % 16384 < 8192 then some (.line (Fin.ofNat 8192 (v % 8192)))
  else none

/-- The 16-bit field of an end. -/
def encodeEnd (e : EndSpec) : Nat :=
  match e with
  | .none => 0xFFFF
  | .pop q => q.val
  | .peek i q => 16384 + i.val * 16 + q.val
  | .push q => 32768 + q.val
  | .line x => 49152 + x.val

/-- VX operation codes (Table 7.5). -/
def vxOf (op : Nat) : Option VxK :=
  match op with
  | 0x01 => some .add | 0x02 => some .sub | 0x03 => some .mul | 0x04 => some .fma | 0x05 => some .min
  | 0x06 => some .max | 0x07 => some .abs | 0x08 => some .neg | 0x09 => some .mov | 0x0A => some .sel
  | 0x0B => some .and | 0x0C => some .or | 0x0D => some .xor | 0x0E => some .shl | 0x0F => some .shr
  | 0x10 => some .sra | 0x11 => some .bcast | 0x14 => some .cmpeq | 0x15 => some .cmpne | 0x16 => some .cmplt
  | 0x17 => some .cmple | 0x18 => some .cmpgt | 0x19 => some .cmpge | 0x20 => some .exp | 0x21 => some .exp2
  | 0x22 => some .ln | 0x23 => some .log2 | 0x24 => some .rcp | 0x25 => some .sqrt | 0x26 => some .rsqrt
  | 0x27 => some .tanh | 0x28 => some .sigmoid | 0x29 => some .erf | 0x30 => some .cvt | 0x31 => some .cvtmx
  | 0x38 => some .rsum | 0x39 => some .rmin | 0x3A => some .rmax | 0x3C => some .gath | 0x3D => some .scat
  | 0x3E => some .scatadd
  | _ => none

/-- SX operation codes (Table 7.6). -/
def sxOf (op : Nat) : Option SxK :=
  match op with
  | 0x01 => some .add | 0x02 => some .sub | 0x03 => some .mul | 0x04 => some .and | 0x05 => some .or
  | 0x06 => some .xor | 0x07 => some .shl | 0x08 => some .shr | 0x09 => some .sra | 0x0A => some .sel
  | 0x0B => some .mov | 0x0C => some .lui | 0x0D => some .min | 0x0E => some .max | 0x10 => some .cmpeq
  | 0x11 => some .cmpne | 0x12 => some .cmplt | 0x13 => some .cmple | 0x14 => some .cmpltu | 0x15 => some .cmpleu
  | 0x18 => some .fadd | 0x19 => some .fmul | 0x1A => some .ffma | 0x1B => some .cvtf | 0x1C => some .cvti
  | 0x20 => some .kvcmd
  | _ => none

/-- The engine of a code (Table 6.1). -/
def engineOf (v : Nat) : Engine :=
  match v % 8 with
  | 0 => .mx | 1 => .vx | 2 => .sx | 3 => .ld | 4 => .st | 5 => .nl | 6 => .fx | _ => .seq

/-- The direction of a code (Table 7.9). -/
def dirOf (v : Nat) : Dir :=
  match v % 4 with
  | 0 => .north | 1 => .east | 2 => .south | _ => .west

/-- The decoding of an instruction word (Tables 7.1 and 7.2). -/
def decodeCore (x : BitVec 128) : Option CoreOp :=
  let op := ifld x 119 6
  let bit := fun i => x.getLsbD i
  let e3 := decodeEnd (ifld x 96 16)
  let e2 := decodeEnd (ifld x 80 16)
  let e1 := decodeEnd (ifld x 64 16)
  let e0 := decodeEnd (ifld x 48 16)
  let n := bv 12 (ifld x 68 12)
  match engineOf (ifld x 125 3) with
  | .mx =>
    match op with
    | 0x01 => some (.pass ⟨bv 11 (ifld x 101 11), bv 12 (ifld x 84 12), bv 12 (ifld x 72 12), bv 12 (ifld x 60 12), bv 16 (ifld x 44 16)⟩)
    | 0x02 =>
      match e3, e2 with
      | some d, some a => some (.drain ⟨d, a, n, bv 4 (ifld x 64 4), bit 118, bit 117, bit 116⟩)
      | _, _ => none
    | _ => none
  | .vx =>
    match vxOf op, e3, e2, e1, e0 with
    | some k, some d, some a, some b, some c =>
      some (.vx k ⟨d, a, b, c, bv 12 (ifld x 36 12), bv 4 (ifld x 32 4), bv 32 (ifld x 0 32), bit 118, bit 117, bit 116, bit 115⟩)
    | _, _, _, _, _ => none
  | .sx =>
    match sxOf op, e3, e2, e1, e0 with
    | some k, some d, some a, some b, some c => some (.sx k ⟨d, a, b, c, bv 32 (ifld x 0 32), bit 118, bit 117⟩)
    | _, _, _, _, _ => none
  | .ld =>
    match op, e3, e2 with
    | 0x01, some d, _ => some (.ldl ⟨d, bv 16 (ifld x 80 16), n, bv 64 (ifld x 0 64), bit 118, bit 117⟩)
    | 0x02, some d, some a => some (.ldx ⟨d, a, n, bv 64 (ifld x 0 64), bit 118, bit 117⟩)
    | 0x03, some d, some a => some (.atom ⟨d, a, n, bv 4 (ifld x 64 4), bv 64 (ifld x 0 64), bit 118, bit 117⟩)
    | _, _, _ => none
  | .st =>
    match op, e3, e2 with
    | 0x01, some d, some m => some (.stl ⟨d, m, n, bv 64 (ifld x 0 64), bit 118, bit 117, bit 116⟩)
    | 0x02, some d, some a => some (.stx ⟨d, a, n, bv 64 (ifld x 0 64), bit 118, bit 117⟩)
    | _, _, _ => none
  | .nl =>
    match op, e3 with
    | 0x01, some d => some (.send ⟨d, n, Fin.ofNat 16 (ifld x 64 4), dirOf (ifld x 117 2)⟩)
    | _, _ => none
  | .fx =>
    let flag := Fin.ofNat 128 (ifld x 104 7)
    let okFlag := decide (ifld x 104 8 < 128)
    let after := bv 6 (ifld x 90 6)
    let gate := engineOf (ifld x 87 3)
    match op with
    | 0x01 => if okFlag then some (.fx (.wait flag (bit 86) gate)) else none
    | 0x02 => if okFlag then some (.fx (.waitc flag gate)) else none
    | 0x03 => if okFlag then some (.fx (.set flag after)) else none
    | 0x04 => if okFlag then some (.fx (.clr flag after)) else none
    | 0x05 => if ifld x 104 8 < 64 then some (.fx (.signal (ifld x 96 8) (Fin.ofNat 64 (ifld x 104 6)) after)) else none
    | 0x06 => some (.fx .tickEnd)
    | _ => none
  | .seq =>
    match op with
    | 0x00 => some (.seq .nop)
    | 0x01 => some (.seq .halt)
    | 0x02 => some (.seq (.phase (bv 8 (ifld x 0 8))))
    | 0x08 => some (.seq (.br (bv 18 (ifld x 0 18))))
    | 0x09 =>
      match e3 with
      | some a => some (.seq (.brc a (bv 18 (ifld x 0 18)) (bit 112)))
      | none => none
    | 0x10 =>
      match e3 with
      | some a => some (.seq (.loop a (bv 32 (ifld x 0 32)) (bv 18 (ifld x 32 18))))
      | none => none
    | 0x11 => some (.seq .endloop)
    | _ => none

/-- The word of an instruction, every bit that its form leaves unused 0 (R209, R210): a word whose decoding does not
give it back holds a reserved bit (R211). -/
def encodeCore (o : CoreOp) : BitVec 128 :=
  let b2n := fun (b : Bool) => if b then 1 else 0
  let mk := fun (eng op mod body : Nat) => bv 128 (eng * 2 ^ 125 + op * 2 ^ 119 + mod * 2 ^ 112 + body)
  let ends := fun (d a b c : Nat) => d * 2 ^ 96 + a * 2 ^ 80 + b * 2 ^ 64 + c * 2 ^ 48
  let n68 := fun (n : BitVec 12) => n.toNat * 2 ^ 68
  let m3 := fun (a b c : Bool) => b2n a * 64 + b2n b * 32 + b2n c * 16
  match o with
  | .pass o => mk 0 1 0 (o.desc.toNat * 2 ^ 101 + o.woff.toNat * 2 ^ 84 + o.aoff.toNat * 2 ^ 72 + o.coff.toNat * 2 ^ 60
      + o.soff.toNat * 2 ^ 44)
  | .drain o => mk 0 2 (m3 o.sat o.rnd o.t) (ends (encodeEnd o.d) (encodeEnd o.a) 0 0 + n68 o.n + o.ofmt.toNat * 2 ^ 64)
  | .vx k o =>
    let op := ((List.range 64).find? (fun v => vxOf v = some k)).getD 0
    mk 1 op (m3 o.t o.sat o.rnd + b2n o.f * 8)
      (ends (encodeEnd o.d) (encodeEnd o.a) (encodeEnd o.b) (encodeEnd o.c) + o.n.toNat * 2 ^ 36 + o.fmt.toNat * 2 ^ 32
        + o.imm.toNat)
  | .sx k o =>
    let op := ((List.range 64).find? (fun v => sxOf v = some k)).getD 0
    mk 2 op (m3 o.led o.les false)
      (ends (encodeEnd o.d) (encodeEnd o.a) (encodeEnd o.b) (encodeEnd o.c) + o.imm.toNat)
  | .ldl o => mk 3 1 (m3 o.x o.l false) (ends (encodeEnd o.data) o.stride.toNat 0 0 + n68 o.n + o.addr.toNat)
  | .ldx o => mk 3 2 (m3 o.x o.l false) (ends (encodeEnd o.data) (encodeEnd o.addr) 0 0 + n68 o.n + o.base.toNat)
  | .atom o => mk 3 3 (m3 o.x o.l false)
      (ends (encodeEnd o.data) (encodeEnd o.addr) 0 0 + n68 o.n + o.atype.toNat * 2 ^ 64 + o.base.toNat)
  | .stl o => mk 4 1 (m3 o.x o.l o.mc) (ends (encodeEnd o.data) (encodeEnd o.mask) 0 0 + n68 o.n + o.addr.toNat)
  | .stx o => mk 4 2 (m3 o.x o.l false) (ends (encodeEnd o.data) (encodeEnd o.addr) 0 0 + n68 o.n + o.base.toNat)
  | .send o =>
    let d := match o.dir with | .north => 0 | .east => 1 | .south => 2 | .west => 3
    mk 5 1 (d * 32) (ends (encodeEnd o.src) 0 0 0 + n68 o.n + o.rq.val * 2 ^ 64)
  | .fx o =>
    let g := fun (e : Engine) => (match e with
      | .mx => 0 | .vx => 1 | .sx => 2 | .ld => 3 | .st => 4 | .nl => 5 | .fx => 6 | .seq => 7)
    match o with
    | .wait f v e => mk 6 1 0 (f.val * 2 ^ 104 + g e * 2 ^ 87 + b2n v * 2 ^ 86)
    | .waitc f e => mk 6 2 0 (f.val * 2 ^ 104 + g e * 2 ^ 87)
    | .set f m => mk 6 3 0 (f.val * 2 ^ 104 + m.toNat * 2 ^ 90)
    | .clr f m => mk 6 4 0 (f.val * 2 ^ 104 + m.toNat * 2 ^ 90)
    | .signal t f m => mk 6 5 0 (f.val * 2 ^ 104 + (t % 256) * 2 ^ 96 + m.toNat * 2 ^ 90)
    | .tickEnd => mk 6 6 0 0
  | .seq o =>
    match o with
    | .nop => mk 7 0 0 0
    | .halt => mk 7 1 0 0
    | .phase t => mk 7 2 0 t.toNat
    | .br t => mk 7 8 0 t.toNat
    | .brc a t z => mk 7 9 (b2n z) (ends (encodeEnd a) 0 0 0 + t.toNat)
    | .loop a c e => mk 7 0x10 0 (ends (encodeEnd a) 0 0 0 + e.toNat * 2 ^ 32 + c.toNat)
    | .endloop => mk 7 0x11 0 0

end Sys2Proof.Machine
end

