-- ==== Sys2Proof/Machine/Real.lean ====
section
/-! DEFINITION. The correctly rounded functions of Table 5.2 (R142). Each value is enclosed between two rationals
of `p` significant bits; where both ends round to the same FP32 value, that is the single rounding of the exact value.
Precision doubles until they do; where it runs out, the value is `Config.vxUnresolved` (log 9). -/

namespace Sys2Proof.Machine

/-- A closed interval of rationals. -/
structure Iv where
  lo : Rat
  hi : Rat

/-- The largest rational of `p` significant bits no greater than a positive `q`. -/
def qDown (p : Nat) (q : Rat) : Rat :=
  if q ≤ 0 then 0
  else
    let s := (p : Int) - ratioLog2 q.num.toNat q.den
    let n := q.num.toNat * 2 ^ s.toNat
    let d := q.den * 2 ^ (-s).toNat
    mkRat ((n / d : Nat) * (2 ^ (-s).toNat : Nat)) (2 ^ s.toNat)

/-- A rational of `p` significant bits no smaller than a positive `q`. -/
def qUp (p : Nat) (q : Rat) : Rat :=
  if q ≤ 0 then 0
  else
    let s := (p : Int) - ratioLog2 q.num.toNat q.den
    let n := q.num.toNat * 2 ^ s.toNat
    let d := q.den * 2 ^ (-s).toNat
    mkRat ((n / d + 1 : Nat) * (2 ^ (-s).toNat : Nat)) (2 ^ s.toNat)

/-- Intervals of positive numbers, rounded outward to `p` bits. -/
def ivRound (p : Nat) (x : Iv) : Iv := ⟨qDown p x.lo, qUp p x.hi⟩
def ivAdd (p : Nat) (x y : Iv) : Iv := ivRound p ⟨x.lo + y.lo, x.hi + y.hi⟩
def ivMul (p : Nat) (x y : Iv) : Iv := ivRound p ⟨x.lo * y.lo, x.hi * y.hi⟩
def ivDiv (p : Nat) (x y : Iv) : Iv := ivRound p ⟨x.lo / y.hi, x.hi / y.lo⟩

/-- Σ_{i ≥ first} terms of a positive series whose next term is `t` and whose ratio at index `i` is `r i`, `n` terms,
with a tail no greater than twice the first term left out (the ratio is at most a half there). -/
def ivSeries (p : Nat) (ratio : Nat → Iv) : Nat → Nat → Iv → Iv
  | 0, _, t => ⟨0, 2 * t.hi⟩
  | n + 1, i, t => ivAdd p t (ivSeries p ratio n (i + 1) (ivMul p t (ratio i)))

/-- (e^y − 1) / y for 0 < y ≤ 1/2. -/
def ivExpm1Ratio (p : Nat) (y : Iv) : Iv :=
  ivSeries p (fun i => ⟨y.lo / ((i : Rat) + 2), y.hi / ((i : Rat) + 2)⟩) (p / 2 + 8) 0 ⟨1, 1⟩

/-- x squared `k` times. -/
def ivSquare (p : Nat) : Nat → Iv → Iv
  | 0, x => x
  | k + 1, x => ivSquare p k (ivMul p x x)

/-- e^y for 0 ≤ y ≤ 128: the argument halved eight times, the value squared eight times. -/
def ivExp (p : Nat) (y : Iv) : Iv :=
  if y.hi = 0 then ⟨1, 1⟩
  else
    let z : Iv := ⟨y.lo / 256, y.hi / 256⟩
    let m := ivMul p z (ivExpm1Ratio p z)
    ivSquare p 8 (ivAdd p ⟨1, 1⟩ m)

/-- atanh(z) / z for 0 ≤ z ≤ 1/2: Σ z^(2i) / (2i + 1). -/
def ivAtanhRatio (p : Nat) (z : Iv) : Iv :=
  let sq := ivMul p z z
  ivSeries p (fun i => ⟨sq.lo * (2 * (i : Rat) + 1) / (2 * (i : Rat) + 3), sq.hi * (2 * (i : Rat) + 1) / (2 * (i : Rat) + 3)⟩)
    (p / 2 + 8) 0 ⟨1, 1⟩

/-- ln 2 = 2 atanh(1/3). -/
def ivLn2 (p : Nat) : Iv :=
  let t : Iv := ⟨1 / 3, 1 / 3⟩
  ivMul p ⟨2, 2⟩ (ivMul p t (ivAtanhRatio p t))

/-- arctan(1/n) for n ≥ 2, from (1/n)/(1+1/n²) Σ of the positive series of Euler. -/
def ivAtanInv (p n : Nat) : Iv :=
  let d : Rat := (n : Rat) * n + 1
  let first : Rat := (n : Rat) / d
  ivSeries p (fun i => ⟨(2 * (i : Rat) + 2) / ((2 * (i : Rat) + 3) * d), (2 * (i : Rat) + 2) / ((2 * (i : Rat) + 3) * d)⟩)
    (p + 8) 0 (ivRound p ⟨first, first⟩)

/-- π = 4 (arctan(1/2) + arctan(1/3)). -/
def ivPi (p : Nat) : Iv := ivMul p ⟨4, 4⟩ (ivAdd p (ivAtanInv p 2) (ivAtanInv p 3))

/-- The square root of a positive interval. -/
def ivSqrt (p : Nat) (x : Iv) : Iv :=
  let f := fun (q : Rat) =>
    -- floor of √(q) × 2^s with about p bits
    let s := ((2 * p : Nat) : Int) - ratioLog2 q.num.toNat q.den
    let s := if s % 2 = 0 then s else s + 1
    (Nat.sqrt (q.num.toNat * 2 ^ s.toNat / (q.den * 2 ^ (-s).toNat)), s / 2)
  let (a, sa) := f x.lo
  let (b, sb) := f x.hi
  ⟨mkRat ((a : Int) * (2 ^ (-sa).toNat : Nat)) (2 ^ sa.toNat), mkRat (((b + 1 : Nat) : Int) * (2 ^ (-sb).toNat : Nat)) (2 ^ sb.toNat)⟩

/-- An exact positive value as a rational. -/
def dyRat (d : Dy) : Rat := mkRat ((d.m * 2 ^ d.e.toNat : Nat) : Int) (2 ^ (-d.e).toNat)

/-- The transcendental functions of Table 5.2. -/
inductive VxFn
  | exp | exp2 | ln | log2 | rcp | sqrt | rsqrt | tanh | sigmoid | erf
  deriving DecidableEq, Repr

/-- The number of a function, its code in Table 7.5 less 0x20. -/
def vxFnCode (f : VxFn) : Nat :=
  match f with
  | .exp => 0 | .exp2 => 1 | .ln => 2 | .log2 => 3 | .rcp => 4 | .sqrt => 5 | .rsqrt => 6 | .tanh => 7 | .sigmoid => 8
  | .erf => 9

/-- A signed enclosure: sign and magnitude interval. -/
structure SIv where
  neg : Bool
  iv : Iv

/-- ln of a positive rational other than 1: k ln 2 + 2 atanh((m − 1) / (m + 1)) with 2/3 ≤ m < 4/3. -/
def encLn (p : Nat) (q : Rat) : SIv :=
  let k0 := ratioLog2 q.num.toNat q.den
  let m0 : Rat := q * (if k0 ≥ 0 then mkRat 1 (2 ^ k0.toNat) else mkRat ((2 ^ (-k0).toNat : Nat) : Int) 1)
  let k := if 3 * m0 ≥ 4 then k0 + 1 else k0
  let m := if 3 * m0 ≥ 4 then m0 / 2 else m0
  let z := (m - 1) / (m + 1)
  let za : Rat := if z < 0 then -z else z
  let s := ivMul p ⟨2, 2⟩ (ivMul p ⟨za, za⟩ (ivAtanhRatio p ⟨za, za⟩))
  let l := ivLn2 p
  if k = 0 then ⟨decide (z < 0), s⟩
  else
    let kk : Rat := (k.natAbs : Rat)
    let big := ivMul p ⟨kk, kk⟩ l
    if (k > 0) = (z ≥ 0) then ⟨decide (k < 0), ivAdd p big s⟩
    else ⟨decide (k < 0), ivRound p ⟨big.lo - s.hi, big.hi - s.lo⟩⟩

/-- tanh of a positive rational. -/
def encTanh (p : Nat) (q : Rat) : Iv :=
  if q ≥ 10 then ⟨1 - 1 / (2 : Rat) ^ 26, 1⟩
  else if q ≤ 1 / 4 then
    let y : Iv := ⟨2 * q, 2 * q⟩
    let m := ivMul p y (ivExpm1Ratio p y)
    ivDiv p m (ivAdd p m ⟨2, 2⟩)
  else
    let e := ivExp p ⟨2 * q, 2 * q⟩
    ivDiv p (ivRound p ⟨e.lo - 1, e.hi - 1⟩) (ivAdd p e ⟨1, 1⟩)

/-- erf of a positive rational: (2/√π) e^(−x²) Σ 2^n x^(2n+1) / (2n+1)!!, and within 2^−26 of 1 from 4 on. -/
def encErf (p : Nat) (q : Rat) : Iv :=
  if q ≥ 4 then ⟨1 - 1 / (2 : Rat) ^ 26, 1⟩
  else
    let sq := ivRound p ⟨q * q, q * q⟩
    let s := ivSeries p (fun i => ⟨2 * sq.lo / (2 * (i : Rat) + 3), 2 * sq.hi / (2 * (i : Rat) + 3)⟩) (p / 2 + 60) 0
      (ivRound p ⟨q, q⟩)
    let c := ivSqrt p (ivDiv p ⟨4, 4⟩ (ivPi p))
    ivDiv p (ivMul p c s) (ivExp p ⟨q * q, q * q⟩)

/-- An enclosure of the function of a finite argument that has no special value: sign and magnitude. -/
def encFn (f : VxFn) (p : Nat) (d : Dy) : SIv :=
  let q := dyRat d
  match f with
  | .exp =>
    if q ≥ 128 then (if d.neg then ⟨false, ⟨0, 1 / (2 : Rat) ^ 160⟩⟩ else ⟨false, ⟨(2 : Rat) ^ 130, (2 : Rat) ^ 130⟩⟩)
    else
      let e := ivExp p ⟨q, q⟩
      ⟨false, if d.neg then ivDiv p ⟨1, 1⟩ e else e⟩
  | .exp2 =>
    if q ≥ 256 then (if d.neg then ⟨false, ⟨0, 1 / (2 : Rat) ^ 160⟩⟩ else ⟨false, ⟨(2 : Rat) ^ 130, (2 : Rat) ^ 130⟩⟩)
    else
      let n := q.floor
      let fr := q - (n : Rat)
      let c : Rat := (2 : Rat) ^ n.toNat
      if fr = 0 then ⟨false, if d.neg then ⟨1 / c, 1 / c⟩ else ⟨c, c⟩⟩
      else
        let l := ivLn2 p
        let e := ivMul p ⟨c, c⟩ (ivExp p (ivMul p ⟨fr, fr⟩ l))
        ⟨false, if d.neg then ivDiv p ⟨1, 1⟩ e else e⟩
  | .ln => if q = 1 then ⟨false, ⟨0, 0⟩⟩ else encLn p q
  | .log2 =>
    let k := ratioLog2 q.num.toNat q.den
    let back : Rat := if k ≥ 0 then (2 : Rat) ^ k.toNat else 1 / (2 : Rat) ^ (-k).toNat
    if q = back then ⟨decide (k < 0), ⟨(k.natAbs : Rat), (k.natAbs : Rat)⟩⟩
    else
      let s := encLn p q
      ⟨s.neg, ivDiv p s.iv (ivLn2 p)⟩
  | .rcp => ⟨d.neg, ⟨1 / q, 1 / q⟩⟩
  | .sqrt =>
    let r := Nat.sqrt q.num.toNat
    let t := Nat.sqrt q.den
    if r * r = q.num.toNat ∧ t * t = q.den then ⟨false, ⟨mkRat r t, mkRat r t⟩⟩
    else ⟨false, ivSqrt p ⟨q, q⟩⟩
  | .rsqrt =>
    let r := Nat.sqrt q.num.toNat
    let t := Nat.sqrt q.den
    if r * r = q.num.toNat ∧ t * t = q.den then ⟨false, ⟨mkRat t r, mkRat t r⟩⟩
    else ⟨false, ivSqrt p ⟨1 / q, 1 / q⟩⟩
  | .tanh => ⟨d.neg, encTanh p q⟩
  | .sigmoid =>
    if q ≥ 128 then (if d.neg then ⟨false, ⟨0, 1 / (2 : Rat) ^ 160⟩⟩ else ⟨false, ⟨1 - 1 / (2 : Rat) ^ 26, 1⟩⟩)
    else
      let e := ivExp p ⟨q, q⟩
      if d.neg then ⟨false, ivDiv p ⟨1, 1⟩ (ivAdd p e ⟨1, 1⟩)⟩ else ⟨false, ivDiv p e (ivAdd p e ⟨1, 1⟩)⟩
  | .erf => ⟨d.neg, encErf p q⟩

/-- The magnitude code of a non-negative rational rounded to FP32 by round-to-nearest-even. -/
def ratMag (q : Rat) : Nat := roundMag .fp32 .rne q.num.toNat q.den

/-- The FP32 value of an enclosure whose two ends round alike. -/
def settled (s : SIv) : Option (BitVec 32) :=
  let a := ratMag s.iv.lo
  if a = ratMag s.iv.hi then some (bv 32 (floatPack .fp32 false s.neg a)) else none

/-- The first settled value among growing precisions. -/
def settle (f : VxFn) (d : Dy) : List Nat → Option (BitVec 32)
  | [] => none
  | p :: ps =>
    match settled (encFn f p d) with
    | some r => some r
    | none => settle f d ps

/-- FP32 bits of special results. -/
def f32One : BitVec 32 := 0x3F800000#32
def f32Inf (neg : Bool) : BitVec 32 := if neg then 0xFF800000#32 else 0x7F800000#32
def f32Zero (neg : Bool) : BitVec 32 := if neg then 0x80000000#32 else 0#32

/-- The value at ±∞ (Table 5.2). -/
def vxAtInf (f : VxFn) (neg : Bool) : BitVec 32 :=
  match f with
  | .exp | .exp2 => if neg then f32Zero false else f32Inf false
  | .ln | .log2 | .sqrt => if neg then f32NaN else f32Inf false
  | .rcp => f32Zero neg
  | .rsqrt => if neg then f32NaN else f32Zero false
  | .tanh | .erf => if neg then 0xBF800000#32 else f32One
  | .sigmoid => if neg then f32Zero false else f32One

/-- The value at ±0 (Table 5.2): a special value, or the exact value of the function there. -/
def vxAtZero (f : VxFn) (neg : Bool) : BitVec 32 :=
  match f with
  | .exp | .exp2 => f32One
  | .ln | .log2 => f32Inf true
  | .rcp | .rsqrt => f32Inf neg
  | .sqrt => f32Zero neg
  | .tanh | .erf => f32Zero neg
  | .sigmoid => 0x3F000000#32

/-- Whether a negative argument gives NaN (Table 5.2). -/
def vxNegNaN (f : VxFn) : Bool :=
  match f with
  | .ln | .log2 | .sqrt | .rsqrt => true
  | _ => false

/-- A function of Table 5.2 on FP32 bits (R142). -/
def vxFunction (f : VxFn) (x : BitVec 32) : BitVec 32 :=
  match f32Val x with
  | .nan => f32NaN
  | .inf neg => vxAtInf f neg
  | .num d =>
    if d.m = 0 then vxAtZero f d.neg
    else if d.neg && vxNegNaN f then f32NaN
    else
      match settle f d [64, 128, 256, 512] with
      | some r => r
      | none => Config.vxUnresolved (vxFnCode f) x

end Sys2Proof.Machine
end

