-- ==== Sys2Proof/Machine/Vx.lean ====
section
/-! DEFINITION. The VX engine (R139-R146, R212-R213, R219-R223): what each operation computes per element, the reductions
with their carried lanes, conversions, gathers and scatters, read and written line by line through the operand ends. -/

namespace Sys2Proof.Machine

/-! ### Elements -/

/-- 1 or 0 as an INT32 (Table 7.5, CMP). -/
def boolBits (b : Bool) : BitVec 32 := if b then 1#32 else 0#32

/-- A comparison of two elements: by IEEE 754-2019 on FP32, signed on INT32; `lt`, `eq`, `gt` say for which orders it
holds, `un` for a NaN operand (R220). -/
def cmpEl (t : Bool) (a b : BitVec 32) (lt eq gt un : Bool) : BitVec 32 :=
  if t then boolBits (if a.toInt < b.toInt then lt else if a = b then eq else gt)
  else
    match valCmp (f32Val a) (f32Val b) with
    | none => boolBits un
    | some o => boolBits (if o < 0 then lt else if o = 0 then eq else gt)

/-- The result of clearing or flipping the sign of an FP32: of a NaN the canonical NaN, since no unit propagates its payload or sign (R87). -/
def signEl (a b : BitVec 32) : BitVec 32 :=
  match f32Val a with
  | .nan => 0x7FC00000#32
  | _ => b

/-- The element result of a VX operation that works element by element (Table 7.5, R87). -/
def vxElem (k : VxK) (t : Bool) (a b c : BitVec 32) : BitVec 32 :=
  match k with
  | .add => if t then a + b else f32Add a b
  | .sub => if t then a - b else f32Sub a b
  | .mul => if t then a * b else f32Mul a b
  | .fma => if t then a * b + c else f32Fma a b c
  | .min => if t then (if a.toInt < b.toInt then a else b) else f32Min a b
  | .max => if t then (if a.toInt < b.toInt then b else a) else f32Max a b
  | .abs => if t then (if a.toInt < 0 then -a else a) else signEl a (a &&& 0x7FFFFFFF#32)
  | .neg => if t then -a else signEl a (a ^^^ 0x80000000#32)
  | .mov => a
  | .sel => if c ≠ 0 then a else b
  | .and => a &&& b
  | .or => a ||| b
  | .xor => a ^^^ b
  | .shl => a <<< (b.toNat % 32)
  | .shr => a >>> (b.toNat % 32)
  | .sra => a.sshiftRight (b.toNat % 32)
  | .cmpeq => cmpEl t a b false true false false
  | .cmpne => cmpEl t a b true false true true
  | .cmplt => cmpEl t a b true false false false
  | .cmple => cmpEl t a b true true false false
  | .cmpgt => cmpEl t a b false false true false
  | .cmpge => cmpEl t a b false true true false
  | .exp => vxFunction .exp a
  | .exp2 => vxFunction .exp2 a
  | .ln => vxFunction .ln a
  | .log2 => vxFunction .log2 a
  | .rcp => vxFunction .rcp a
  | .sqrt => vxFunction .sqrt a
  | .rsqrt => vxFunction .rsqrt a
  | .tanh => vxFunction .tanh a
  | .sigmoid => vxFunction .sigmoid a
  | .erf => vxFunction .erf a
  | _ => a

/-- How an operation uses its operands: element by element; an immediate broadcast; a conversion; a reduction; a
gather; a scatter. -/
inductive VxShape
  | elems | bcast | cvt | cvtmx | reduce | gath | scat
  deriving DecidableEq, Repr

def vxShape (k : VxK) : VxShape :=
  match k with
  | .bcast => .bcast
  | .cvt => .cvt
  | .cvtmx => .cvtmx
  | .rsum | .rmin | .rmax => .reduce
  | .gath => .gath
  | .scat | .scatadd => .scat
  | _ => .elems

/-- Whether an element operation uses B, and C (Table 7.5). -/
def vxUsesB (k : VxK) : Bool :=
  match k with
  | .abs | .neg | .mov | .exp | .exp2 | .ln | .log2 | .rcp | .sqrt | .rsqrt | .tanh | .sigmoid | .erf => false
  | _ => true
def vxUsesC (k : VxK) : Bool :=
  match k with
  | .fma | .sel => true
  | _ => false

/-- The ends that an operation reads line by line, in the order of R176; an end that stands for the immediate is not
read. -/
def vxReads (k : VxK) (o : VxOp) : List EndSpec :=
  match vxShape k with
  | .elems => [o.a] ++ (if vxUsesB k ∧ o.b ≠ .none then [o.b] else []) ++ (if vxUsesC k ∧ o.c ≠ .none then [o.c] else [])
  | .bcast => []
  | .cvt | .cvtmx | .reduce => [o.a]
  | .gath => [o.b]
  | .scat => [o.a, o.b]

/-- A line of the immediate in every element (R219). -/
def immLine (imm : BitVec 32) : Line := pack32 (List.replicate 128 (imm, false))

/-- The result line of an element operation (R99, R146: an output word is poisoned when any input word it reads is). -/
def vxLine (k : VxK) (t : Bool) (a b c : Line) : Line :=
  pack32 (List.zipWith (fun (x : BitVec 32 × Bool) (y : (BitVec 32 × Bool) × (BitVec 32 × Bool)) =>
    (vxElem k t x.1 y.1.1 y.2.1, x.2 || (vxUsesB k && y.1.2) || (vxUsesC k && y.2.2)))
    (line32 a) (List.zip (line32 b) (line32 c)))

/-- The operand lines of an element operation from those read: NONE stands for the immediate. -/
def vxOperands (k : VxK) (o : VxOp) (got : List Line) : Line × Line × Line :=
  let a := got.getD 0 Line.zero
  let b := if vxUsesB k ∧ o.b ≠ .none then got.getD 1 Line.zero else immLine o.imm
  let ci := if vxUsesB k ∧ o.b ≠ .none then 2 else 1
  let c := if vxUsesC k ∧ o.c ≠ .none then got.getD ci Line.zero else immLine o.imm
  (a, b, c)

/-! ### Reductions (R143, R144, R222) -/

/-- One combination of a reduction. -/
def reduceOp (k : VxK) (t : Bool) (x y : BitVec 32) : BitVec 32 :=
  match k with
  | .rsum => vxElem .add t x y 0
  | .rmin => vxElem .min t x y 0
  | _ => vxElem .max t x y 0

/-- The identity of a reduction. -/
def reduceId (k : VxK) (t : Bool) : BitVec 32 :=
  match k with
  | .rsum => 0
  | .rmin => if t then 0x7FFFFFFF#32 else 0x7F800000#32
  | _ => if t then 0x80000000#32 else 0xFF800000#32

/-- Lanes after one element: lane (o + i) mod 256 takes element i. -/
def reduceStep (k : VxK) (t : Bool) (lanes : List (BitVec 32 × Bool)) (lane : Nat) (x : BitVec 32 × Bool) :
    List (BitVec 32 × Bool) :=
  let s := lanes.getD lane (0, false)
  lanes.set lane (reduceOp k t s.1 x.1, s.2 || x.2)

/-- Lanes after the elements of one line, the first of which is element `i` of the operation. -/
def reduceLine (k : VxK) (t : Bool) (o : Nat) (lanes : List (BitVec 32 × Bool)) (i : Nat)
    (xs : List (BitVec 32 × Bool)) : List (BitVec 32 × Bool) :=
  match xs with
  | [] => lanes
  | x :: r => reduceLine k t o (reduceStep k t lanes ((o + i) % 256) x) (i + 1) r

/-- The lanes folded upon themselves: w = 128, 64, … 1 (R143). -/
def reduceFold (k : VxK) (t : Bool) (lanes : List (BitVec 32 × Bool)) : List Nat → List (BitVec 32 × Bool)
  | [] => lanes
  | w :: ws =>
    reduceFold k t (List.zipWith (fun x y => (reduceOp k t x.1 y.1, x.2 || y.2)) (lanes.take w) (lanes.drop w)) ws

/-- The result of a final reduction. -/
def reduceFinal (k : VxK) (t : Bool) (lanes : List (BitVec 32 × Bool)) : BitVec 32 × Bool :=
  (reduceFold k t lanes [128, 64, 32, 16, 8, 4, 2, 1]).getD 0 (0, false)

/-! ### Conversions (R221, R96) -/

/-- What stochastic rounding depends on besides the element (R104): the seed, the member, the tick of the dispatch, the
core and the operation's ordinal. -/
structure SrCtx where
  on : Bool
  seed : Word
  member : Nat
  tick : Nat
  core : Nat
  ord : Nat

/-- The rounding of element `i` of an operation. -/
def srMode (x : SrCtx) (i : Nat) : Rounding :=
  if x.on then .stoch (srBits x.seed x.member x.tick x.core x.ord i) else .rne

/-- The context of an entry of core `c`. -/
def srOf (s : Stack) (c : Nat) (on : Bool) (x : QEntry) : SrCtx :=
  ⟨on, s.tick.seed, fld (reg s rTckDomain) 16 14, x.tick, c, x.ord⟩

/-- The elements of a list converted, element numbers from `i` on. -/
def cvtEls (x : SrCtx) (src tgt : Fmt) (sat : Bool) (i : Nat) (els : List (Nat × Bool)) : List (Nat × Bool) :=
  match els with
  | [] => []
  | (v, p) :: r => (convertCode src tgt sat (srMode x i) v, p) :: cvtEls x src tgt sat (i + 1) r

/-- One block of 32 FP32 values converted to a scaled format (R96): scale byte and element codes. -/
def mxBlock (x : SrCtx) (tgt : Fmt) (i : Nat) (els : List (Nat × Bool)) : (Nat × Bool) × List (Nat × Bool) :=
  let vals := els.map (fun e => floatVal .fp32 e.1)
  let p := els.any (fun e => e.2)
  match blockScale tgt vals with
  | (sc, none) => ((sc, p), els.map (fun _ => (0, p)))
  | (sc, some xx) =>
    ((sc, p), (List.range els.length).map (fun j =>
      let v := valScale (vals.getD j .nan) (-xx)
      (encodeVal tgt true (srMode x (i + j)) v, p)))

/-- The blocks of a line. -/
def mxBlocks (x : SrCtx) (tgt : Fmt) (i : Nat) (els : List (Nat × Bool)) : Nat → List ((Nat × Bool) × List (Nat × Bool))
  | 0 => []
  | n + 1 => mxBlock x tgt i (els.take 32) :: mxBlocks x tgt (i + 32) (els.drop 32) n

/-! ### Gather and scatter (R145, R146, R223) -/

/-- The scratch word of 32-bit element `e` of the range that starts at line `x`: its value and poison. -/
def rangeEl (s : Stack) (c x e : Nat) : BitVec 32 × Bool :=
  let l := scratchLine s c (x + e / 128)
  ((l.data >>> (32 * (e % 128))).setWidth 32, l.marks.getLsbD (e % 128 / 8))

/-- The stack with one 32-bit element of a range written: a partial write of its granule (R276). -/
def setRangeEl (s : Stack) (c x e : Nat) (v : BitVec 32 × Bool) : Stack :=
  let a := scratchAddr c (x + e / 128)
  let d : BitVec 4096 := v.1.setWidth 4096 <<< (32 * (e % 128))
  writeLine s a ⟨d, if v.2 then 1#16 <<< (e % 128 / 8) else 0⟩ (spanMask (4 * (e % 128)) 4)

/-- A line index named by an end, 0 for an end that names none. -/
def endLine (e : EndSpec) : Nat :=
  match e with
  | .line x => x.val
  | _ => 0

/-- One element of a gather: the value, whether its index was poisoned and whether it lay beyond the range. -/
def gathEl (s : Stack) (c x len : Nat) (ix : BitVec 32 × Bool) : (BitVec 32 × Bool) × Bool × Bool :=
  if ix.2 then ((0, true), true, false)
  else if ix.1.toNat ≥ len then ((0, false), false, true)
  else (rangeEl s c x ix.1.toNat, false, false)

/-- The elements of one index line scattered in ascending order; counted are the indices that were poisoned, and those that lay beyond
the range. -/
def scatEls (k : VxK) (t : Bool) (c x len : Nat) (ds ixs : List (BitVec 32 × Bool)) (s : Stack) (bites bad : Nat) :
    Stack × Nat × Nat :=
  match ds, ixs with
  | d :: ds, i :: is =>
    if i.2 then scatEls k t c x len ds is s (bites + 1) bad
    else if i.1.toNat ≥ len then scatEls k t c x len ds is s bites (bad + 1)
    else
      let v := if k = .scatadd then
          let old := rangeEl s c x i.1.toNat
          (vxElem .add t old.1 d.1 0, old.2 || d.2)
        else d
      scatEls k t c x len ds is (setRangeEl s c x i.1.toNat v) bites bad
  | _, _ => (s, bites, bad)

/-! ### The engine, one small act at a time (R178: it waits line by line) -/

/-- What an act of an engine gives: it went on, it waits, or its work is done. -/
inductive Act
  | go (s : Stack) (x : QEntry)
  | wait (kind object : Nat)
  | done

/-- `f` applied `n` times. -/
def times (n : Nat) (f : Stack → Stack) (s : Stack) : Stack := (List.range n).foldl (fun s _ => f s) s

/-- The stack with faults that a VX operation met: each of `bites` poisoned indices bites at the address point, each of `bad` indices beyond
the range raises VX_INDEX (R145, R146). -/
def vxFaults (s : Stack) (c : Nat) (x : QEntry) (bites bad : Nat) : Stack :=
  let q := qposOf (s.core c).vx x.uid
  times bad (fun s => raiseCore s c .vx q fVxIndex) (times bites (fun s => biteCore s c .vx q biteAddress) s)

/-- The work of one set of input lines. -/
def vxWork (s : Stack) (c : Nat) (k : VxK) (o : VxOp) (x : QEntry) : Stack × QEntry :=
  let p := x.prog
  let nxt := { p with i := p.i + 1, got := [] }
  match vxShape k with
  | .elems =>
    let (a, b, d) := vxOperands k o p.got
    let l := vxLine k o.t a b d
    (s, { x with prog := { nxt with buf := p.buf ++ lineEls .int32 l } })
  | .bcast => (s, { x with prog := { nxt with buf := p.buf ++ lineEls .int32 (immLine o.imm) } })
  | .cvt =>
    let src := (fmtOf (o.imm.toNat % 16)).getD .fp32
    let tgt := (fmtOf o.fmt.toNat).getD .fp32
    let els := lineEls src (p.got.getD 0 Line.zero)
    (s, { x with prog := { nxt with
      buf := p.buf ++ cvtEls (srOf s c o.rnd x) src tgt o.sat p.elem els, elem := p.elem + els.length } })
  | .cvtmx =>
    let tgt := (fmtOf o.fmt.toNat).getD .e4m3
    let bs := mxBlocks (srOf s c o.rnd x) tgt p.elem (lineEls .fp32 (p.got.getD 0 Line.zero)) 4
    (s, { x with prog := { nxt with
      buf := p.buf ++ bs.flatMap (fun b => b.2), sbuf := p.sbuf ++ bs.map (fun b => b.1), elem := p.elem + 128 } })
  | .reduce =>
    let ls := reduceLine k o.t (o.imm.toNat % 256) p.lanes p.elem (line32 (p.got.getD 0 Line.zero))
    (s, { x with prog := { nxt with lanes := ls, elem := p.elem + 128 } })
  | .gath =>
    let rs := (line32 (p.got.getD 0 Line.zero)).map (gathEl s c (endLine o.a) o.imm.toNat)
    let s := vxFaults s c x (rs.countP (fun r => r.2.1)) (rs.countP (fun r => r.2.2))
    (s, { x with prog := { nxt with buf := p.buf ++ rs.map (fun r => (r.1.1.toNat, r.1.2)) } })
  | .scat =>
    let (s, bites, bad) := scatEls k o.t c (endLine o.d) o.imm.toNat (line32 (p.got.getD 0 Line.zero))
      (line32 (p.got.getD 1 Line.zero)) s 0 0
    (vxFaults s c x bites bad, { x with prog := nxt })

/-- The lanes that a reduction starts from: the carried pair of lines, or the identity (R222). -/
def vxLanes (k : VxK) (o : VxOp) (got : List Line) : List (BitVec 32 × Bool) :=
  if o.b = .none then List.replicate 256 (reduceId k o.t, false)
  else line32 (got.getD 0 Line.zero) ++ line32 (got.getD 1 Line.zero)

/-- What a finished reduction writes: the state pair, or one line whose element 0 is the result (R222). -/
def vxReduced (k : VxK) (o : VxOp) (lanes : List (BitVec 32 × Bool)) : List (Nat × Bool) :=
  if o.f then
    let r := reduceFinal k o.t lanes
    (r.1.toNat, r.2) :: List.replicate 127 (0, false)
  else lanes.map (fun e => (e.1.toNat, e.2))

/-- The format of the output lines. -/
def vxOutFmt (k : VxK) (o : VxOp) : Fmt :=
  match vxShape k with
  | .cvt | .cvtmx => (fmtOf o.fmt.toNat).getD .fp32
  | _ => .int32

/-- One act of the VX engine on its started operation: write a full output line, write a full scale line, read the
next operand line, or work on a full set of operands (R176, R178). -/
def vxAct (s : Stack) (c : Nat) (k : VxK) (o : VxOp) (x : QEntry) : Act :=
  let p := x.prog
  let n := o.n.toNat + 1
  let fmt := vxOutFmt k o
  let per := fmtPerLine fmt
  let last := decide (p.i ≥ n)
  if p.buf.length ≥ per ∨ (last ∧ p.buf ≠ []) then
    match writeEnd s c o.d p.out (packLine fmt (p.buf.take per)) with
    | .go _ s => .go s { x with prog := { p with buf := p.buf.drop per, out := p.out + 1 } }
    | .wait kd ob => .wait kd ob
  else if p.sbuf.length ≥ 512 ∨ (last ∧ p.sbuf ≠ []) then
    match writeEnd s c o.c p.sout (packLine .int8 (p.sbuf.take 512)) with
    | .go _ s => .go s { x with prog := { p with sbuf := p.sbuf.drop 512, sout := p.sout + 1 } }
    | .wait kd ob => .wait kd ob
  else if last then
    if vxShape k = .reduce ∧ p.lanes ≠ [] then
      .go s { x with prog := { p with buf := vxReduced k o p.lanes, lanes := [] } }
    else .done
  else if vxShape k = .reduce ∧ p.lanes = [] then
    if o.b = .none ∨ p.got.length = 2 then .go s { x with prog := { p with lanes := vxLanes k o p.got, got := [] } }
    else
      match readEnd s c o.b p.got.length with
      | .go l s => .go s { x with prog := { p with got := p.got ++ [l] } }
      | .wait kd ob => .wait kd ob
  else
    match (vxReads k o)[p.got.length]? with
    | some e =>
      match readEnd s c e p.i with
      | .go l s => .go s { x with prog := { p with got := p.got ++ [l] } }
      | .wait kd ob => .wait kd ob
    | none =>
      let (s, x) := vxWork s c k o x
      .go s x

end Sys2Proof.Machine
end

