-- ==== Sys2Proof/Machine/Mx.lean ====
section
/-! DEFINITION. The MX engine (04_matrix_cores.md, R217, R218): pass descriptors, the tile product step by step, the
crust checks, writes and pushes in retirement order, replay, and DRAIN. -/

namespace Sys2Proof.Machine

/-! ### Descriptors (R113-R117) -/

/-- Word `w` of descriptor `idx` of core `c`. -/
def descWord (s : Stack) (c idx w : Nat) : Word :=
  bv 64 (leNat (fun i => readByte s.mem (windowBase c + 0x400000 + idx * 32 + w * 8 + i)) 8)

/-- The descriptor that a PASS names, with its offsets applied (R114, R217). -/
def resolvePass (s : Stack) (c : Nat) (o : PassOp) : PassDesc :=
  let i := o.desc.toNat
  let w0 := descWord s c i 0
  let w1 := descWord s c i 1
  let w2 := descWord s c i 2
  let w3 := descWord s c i 3
  let wscale := decide (fld w0 31 1 = 1)
  let ascale := decide (fld w0 30 1 = 1)
  { idx := i
    flag := fld w0 56 8
    m := fld w0 45 11 + 1
    crepe := decide (fld w0 44 1 = 1)
    feed := decide (fld w0 43 1 = 1)
    out := fld w0 41 2
    accIn := decide (fld w0 40 1 = 1)
    wfmt := (fmtOf (fld w0 36 4)).getD .fp32
    afmt := (fmtOf (fld w0 32 4)).getD .fp32
    wscale := wscale
    ascale := ascale
    ofmt := (fmtOf (fld w0 26 4)).getD .fp32
    sat := decide (fld w0 25 1 = 1)
    rnd := decide (fld w0 24 1 = 1)
    dq := fld w0 20 4
    wq := if fld w1 63 1 = 1 then some (fld w1 56 4) else none
    wline := fld w1 32 12 + o.woff.toNat
    wspos := fld w1 16 12 * 512 + fld w1 0 9 + (if wscale then o.soff.toNat else 0)
    aq := if fld w2 63 1 = 1 then some (fld w2 56 4) else none
    aline := fld w2 32 12 + o.aoff.toNat
    aspos := fld w2 16 12 * 512 + fld w2 0 9 + (if ascale then o.soff.toNat else 0)
    accin := fld w3 32 12 + o.coff.toNat
    accout := fld w3 16 12 + o.coff.toNat }

/-- Whether an operand pair runs at rate 2, so that a cell row holds two reduction indices (Table 3.5, Table 4.1). -/
def pairRate2 (d : PassDesc) : Bool :=
  decide ((d.wfmt = .e2m1 ∧ d.afmt = .e2m1) ∨ (d.wfmt = .int4 ∧ d.afmt = .int4))

/-- Reduction indices of the tile: K_t, or K_c in crêpe mode (R108, R126). -/
def passK (d : PassDesc) : Nat := (if d.crepe then 8 else 32) * (if pairRate2 d then 2 else 1)

/-- Result columns: 32, or 512 in crêpe mode. -/
def passCols (d : PassDesc) : Nat := if d.crepe then 512 else 32

/-- Lines of the weight tile, of the activations, of the accumulators and of the drained output. -/
def passWLines (d : PassDesc) : Nat := ceilDiv (passK d * passCols d) (fmtPerLine d.wfmt)
def passALines (d : PassDesc) : Nat := ceilDiv (d.m * passK d) (fmtPerLine d.afmt)
def passAccLines (d : PassDesc) : Nat := if d.crepe then 4 * d.m else ceilDiv d.m 4
def passOutLines (d : PassDesc) : Nat := ceilDiv (d.m * passCols d) (fmtPerLine d.ofmt)

/-- Whether the pass writes accumulator lines, and whether it drains (OUT). -/
def passAcc (d : PassDesc) : Bool := d.out = 0 || d.out = 2
def passDrain (d : PassDesc) : Bool := d.out = 1 || d.out = 2

/-- Scale bytes of the weights and of the activations (Table 4.2). -/
def passWScales (d : PassDesc) : Nat := if d.crepe then 512 else passK d
def passAScales (d : PassDesc) : Nat := if d.crepe then d.m else d.m * (passK d / 32)

/-- The line ranges that a pass reads, as (first, count): weights, activations, scales. -/
def passReads (d : PassDesc) : List (Nat × Nat) :=
  (if d.wq.isNone then [(d.wline, passWLines d)] else [])
    ++ (if d.aq.isNone then [(d.aline, passALines d)] else [])
    ++ (if d.wscale then [(d.wspos / 512, ceilDiv (d.wspos % 512 + passWScales d) 512)] else [])
    ++ (if d.ascale then [(d.aspos / 512, ceilDiv (d.aspos % 512 + passAScales d) 512)] else [])

/-- Whether two line ranges overlap. -/
def overlaps (a b : Nat × Nat) : Bool := decide (a.1 < b.1 + b.2 ∧ b.1 < a.1 + a.2)

/-- Lines that a pass takes from queue `q`: its weights first, then its activations (R120; log 14). -/
def passTakes (d : PassDesc) (q : Nat) : Nat :=
  (if d.wq = some q then passWLines d else 0) + (if d.aq = some q then passALines d else 0)

/-! ### Operands of a step -/

/-- The passes of the MX queue that started and have not retired, before operation `uid`. -/
def passesBefore (s : Stack) (c uid : Nat) : List QEntry :=
  ((s.core c).mx.takeWhile (fun x => x.uid ≠ uid)).filter (fun x => !x.done && x.pass.isSome)

/-- Entries of queue `q` that earlier unretired passes take. -/
def takenBefore (s : Stack) (c uid q : Nat) : Nat :=
  (passesBefore s c uid).foldl (fun n x => match x.pass with | some p => n + passTakes p.d q | none => n) 0

/-- The `n` lines of an operand, from scratch or from a queue past `skip` entries. -/
def operandLines (s : Stack) (c uid : Nat) (q : Option Nat) (line n extra : Nat) : List Line :=
  match q with
  | none => (List.range n).map (fun i => scratchLine s c (line + i))
  | some q => (List.range n).map (fun i => dqPeek s c q (takenBefore s c uid q + extra + i))

/-- The queue that a pass waits for, a line that it takes not being there: the weights' first (R178). -/
def operandWait (s : Stack) (c uid : Nat) (d : PassDesc) : Option Nat :=
  let short := fun (q n extra : Nat) => !(List.range n).all (fun i => dqReady s c q (takenBefore s c uid q + extra + i))
  match d.wq.filter (fun q => short q (passWLines d) 0) with
  | some q => some q
  | none => d.aq.filter (fun q => short q (passALines d) (if d.wq = some q then passWLines d else 0))

/-- Whether the queue lines a pass takes are there. -/
def operandsReady (s : Stack) (c uid : Nat) (d : PassDesc) : Bool := (operandWait s c uid d).isNone

/-- The scratch lines that a pass reads in place from its data queue sources (R120). -/
def queueLines (s : Stack) (c uid : Nat) (d : PassDesc) : List Nat :=
  let lines := fun (q : Option Nat) (n extra : Nat) => match q with
    | none => []
    | some q => (List.range n).map (fun i => dqLine s c q (takenBefore s c uid q + extra + i))
  lines d.wq (passWLines d) 0 ++ lines d.aq (passALines d) (match d.aq with
    | some q => if d.wq = some q then passWLines d else 0
    | none => 0)

/-- Whether R117 lets the pass of operation `uid` start. -/
def passValid (s : Stack) (c uid : Nat) (d : PassDesc) : Bool :=
  let acc := passAccLines d
  let outR := (d.accout, acc)
  let all := passReads d ++ (if d.accIn then [(d.accin, acc)] else []) ++ (if passAcc d then [outR] else [])
  all.all (fun r => decide (r.1 + r.2 ≤ 4096))
    && !(d.accIn && passAcc d && overlaps (d.accin, acc) outR)
    && !(passAcc d && ((passReads d).any (overlaps outR) || (queueLines s c uid d).any (fun x => overlaps outR (x, 1))))
    && (d.wq.toList ++ d.aq.toList).all (fun q => decide (passTakes d q ≤ dqDepth s c q))
    && !(passDrain d && decide (passOutLines d > dqDepth s c d.dq))

/-- Element `e` of an operand packed over lines. -/
def elOf (f : Fmt) (ls : List Line) (e : Nat) : Nat :=
  lineEl (fmtWidth f) (ls.getD (e / fmtPerLine f) Line.zero) (e % fmtPerLine f)

/-- Whether element `e` lies in a poisoned word. -/
def elBad (f : Fmt) (ls : List Line) (e : Nat) : Bool :=
  elPoison (fmtWidth f) (ls.getD (e / fmtPerLine f) Line.zero) (e % fmtPerLine f)

/-- Scale byte at byte position `p` of scratch, and whether its word is poisoned. -/
def scaleByte (s : Stack) (c p : Nat) : Nat × Bool :=
  let l := scratchLine s c (p / 512)
  ((Line.byte l (p % 512)).toNat, l.marks.getLsbD (p % 512 / 32))

/-- The operands of a pass, gathered: weight lines, activation lines, scales by byte. -/
structure PassData where
  d : PassDesc
  wl : List Line
  al : List Line
  ws : List (Nat × Bool)
  as : List (Nat × Bool)

def passData (s : Stack) (c uid : Nat) (d : PassDesc) : PassData where
  d := d
  wl := operandLines s c uid d.wq d.wline (passWLines d) 0
  al := operandLines s c uid d.aq d.aline (passALines d) (match d.aq with
    | some q => if d.wq = some q then passWLines d else 0
    | none => 0)
  ws := if d.wscale then (List.range (passWScales d)).map (fun i => scaleByte s c (d.wspos + i)) else []
  as := if d.ascale then (List.range (passAScales d)).map (fun i => scaleByte s c (d.aspos + i)) else []

/-- The scale exponent of weight (k, n) and of activation (v, k); some 0 without scales (R95, Table 4.2, R127). -/
def wScale (x : PassData) (k n : Nat) : Option Int :=
  if x.d.wscale then e8m0 (x.ws.getD (if x.d.crepe then n else k / 32 * 32 + n) (0, false)).1 else some 0
def aScale (x : PassData) (v k : Nat) : Option Int :=
  if x.d.ascale then e8m0 (x.as.getD (if x.d.crepe then v else v * (passK x.d / 32) + k / 32) (0, false)).1 else some 0

/-- Codes of weight (k, n) and activation (v, k). -/
def wCode (x : PassData) (k n : Nat) : Nat := elOf x.d.wfmt x.wl (k * passCols x.d + n)
def aCode (x : PassData) (v k : Nat) : Nat := elOf x.d.afmt x.al (v * passK x.d + k)

/-- Whether a word of the weight tile is poisoned: a word of its lines past the last element is no operand (R133). -/
def tileBad (x : PassData) : Bool :=
  let per := fmtPerLine x.d.wfmt
  x.wl.zipIdx.any (fun e =>
    let n := min per (passK x.d * passCols x.d - e.2 * per)
    (List.range 16).any (fun g => decide (g * 256 < n * fmtWidth x.d.wfmt) && e.1.marks.getLsbD g))

/-- Whether some weight word or weight scale word is poisoned; whether one of vector `v` is. R133 speaks of weight words: a poisoned word of
weight scales, too, poisons every output of the pass (DESIGN CHOICE, log 85). -/
def wBad (x : PassData) : Bool := tileBad x || x.ws.any (fun e => e.2)
def aBad (x : PassData) (v : Nat) : Bool :=
  (List.range (passK x.d)).any (fun k => elBad x.d.afmt x.al (v * passK x.d + k)
    || (x.d.ascale && (x.as.getD (if x.d.crepe then v else v * (passK x.d / 32) + k / 32) (0, false)).2))

/-- The exact value of a weight and of an activation, its block scale applied. -/
def scaledVal (f : Fmt) (c : Nat) (s : Option Int) : Val :=
  match s with
  | some e => valScale (decodeVal f c) e
  | none => .nan
def wVal (x : PassData) (k n : Nat) : Val := scaledVal x.d.wfmt (wCode x k n) (wScale x k n)
def aVal (x : PassData) (v k : Nat) : Val := scaledVal x.d.afmt (aCode x v k) (aScale x v k)

/-- The value, forwarded or stored, of 32-bit element `e` of scratch counted from line 0, as a pass reads its initial
values: the latest earlier unretired pass that writes it forwards it (R125), poisoned once its replay has failed (R135). -/
def accEl (s : Stack) (c : Nat) (before : List QEntry) (e : Nat) : BitVec 32 × Bool :=
  let from_ := fun (acc : Option (BitVec 32 × Bool)) (x : QEntry) =>
    match x.pass with
    | some p =>
      if passAcc p.d ∧ p.d.accout * 128 ≤ e then
        let i := e - p.d.accout * 128
        match p.res[i / passCols p.d]? with
        | some v => if i < p.d.m * passCols p.d then (v[i % passCols p.d]?).map (fun e => (e.1, e.2 || p.cell)) else acc
        | none => acc
      else acc
    | none => acc
  match before.foldl from_ none with
  | some v => v
  | none =>
    let l := scratchLine s c (e / 128)
    ((l.data >>> (32 * (e % 128))).setWidth 32, l.marks.getLsbD (e % 128 / 8))

/-- The initial values of vector `v`. -/
def passInit (s : Stack) (c : Nat) (before : List QEntry) (d : PassDesc) (v : Nat) : List (BitVec 32 × Bool) :=
  (List.range (passCols d)).map (fun n =>
    if d.accIn then accEl s c before (d.accin * 128 + v * passCols d + n) else (0#32, false))

/-- One accumulation over the reduction indices from `k` on (R97): one rounding per step, or INT32 addition that wraps. -/
def passAccum (x : PassData) (v n : Nat) (k : Nat) (acc : BitVec 32) : Nat → BitVec 32
  | 0 => acc
  | m + 1 =>
    let w := wCode x k n
    let a := aCode x v k
    let acc := if fmtIsInt x.d.wfmt then
        acc + BitVec.ofInt 32 (intVal (fmtWidth x.d.wfmt) w * intVal (fmtWidth x.d.afmt) a)
      else f32Acc acc (product x.d.afmt x.d.wfmt a w (aScale x v k) (wScale x k n))
    passAccum x v n (k + 1) acc m

/-- The results of vector `v`: every column, poisoned where a word it is computed from is (R99, R133). -/
def passVector (x : PassData) (v : Nat) (init : List (BitVec 32 × Bool)) : List (BitVec 32 × Bool) :=
  let bad := wBad x || aBad x v
  (List.range (passCols x.d)).map (fun n =>
    let i := init.getD n (0, false)
    (passAccum x v n 0 i.1 (passK x.d), i.2 || bad))

/-! ### The crust (R129-R133) -/

/-- An FP32 sum in ascending order of exact terms, one rounding per addition in the given mode. -/
def crustSum (mode : Rounding) (acc : BitVec 32) (ts : List Val) : BitVec 32 :=
  ts.foldl (fun a t => bv 32 (encodeVal .fp32 false mode (valAdd (f32Val a) t))) acc

/-- What a check finds. -/
inductive CheckResult
  | pass | fail | skip
  deriving DecidableEq, Repr

/-- The comparison of a float check: |O − E| > N (U 2^−24 P + 2^−150) fails; NaN or infinite values are not checked
(R131, R132). The difference and the tolerance are exact, not rounded as R130's sums are (DESIGN CHOICE, log 86). -/
def crustCompare (u n : Nat) (o e p : BitVec 32) : CheckResult :=
  match f32Val o, f32Val e, f32Val p with
  | .num a, .num b, .num m =>
    let diff := { dyAdd a { b with neg := !b.neg } with neg := false }
    let t := dyAdd (dyMul ⟨false, n * u, -24⟩ { m with neg := false }) ⟨false, n, -150⟩
    if dyCmp diff t > 0 then .fail else .pass
  | _, _, _ => .skip

/-- A check over results, initial values and the terms of the expected sum and of its magnitude. The expected sum E and the magnitude P are
each one running sum that begins with the initial values and goes on with the products: R130 and Table 4.9 fit two sums added at the end as well
(DESIGN CHOICE, log 86). -/
def crustCheck (int : Bool) (u n : Nat) (outs inits : List (BitVec 32)) (terms mags : List Val)
    (intTerms : BitVec 32) : CheckResult :=
  if int then
    if outs.foldl (· + ·) 0 = inits.foldl (· + ·) 0 + intTerms then .pass else .fail
  else
    let o := crustSum .rne 0 (outs.map f32Val)
    let e := crustSum .rne 0 (inits.map f32Val ++ terms)
    let p := crustSum .rne 0 (inits.map (fun i => valAbs (f32Val i)) ++ mags)
    crustCompare u n o e p

/-- The columns of the checked unit `g`: the 32 columns of a pass, or 32 of the 512 of a crêpe pass. -/
def unitCols (g : Nat) : List Nat := (List.range 32).map (fun i => g * 32 + i)

/-- The integer value of a code of an integer format, as INT32. -/
def int32Of (f : Fmt) (c : Nat) : BitVec 32 := BitVec.ofInt 32 (intVal (fmtWidth f) c)

/-- The column check of vector `v` over the columns of unit `g` (R129, Table 4.9). -/
def columnCheck (u : Nat) (x : PassData) (v g : Nat) (out init : List (BitVec 32 × Bool)) : CheckResult :=
  let cols := unitCols g
  let kk := passK x.d
  let n := 2 * kk + 93 + (if x.d.wfmt = .zl8 then 3 * kk else 0)
  let wc := fun k => crustSum .rne 0 (cols.map (fun c => wVal x k c))
  let wa := fun k => crustSum .up 0 (cols.map (fun c => valAbs (wVal x k c)))
  crustCheck (fmtIsInt x.d.wfmt) u n (cols.map (fun c => (out.getD c (0, false)).1))
    (cols.map (fun c => (init.getD c (0, false)).1))
    ((List.range kk).map (fun k => valMul (aVal x v k) (f32Val (wc k))))
    ((List.range kk).map (fun k => valMul (valAbs (aVal x v k)) (f32Val (wa k))))
    ((List.range kk).foldl (fun acc k => acc + int32Of x.d.afmt (aCode x v k) *
      (cols.foldl (fun w c => w + int32Of x.d.wfmt (wCode x k c)) 0)) 0)

/-- The row check of column `n` over the vectors `vs` of its array (R129, Table 4.9). -/
def rowCheck (u : Nat) (x : PassData) (vs : List Nat) (n : Nat) (out init : Nat → List (BitVec 32 × Bool)) :
    CheckResult :=
  let kk := passK x.d
  let cnt := 2 * kk + 3 * (vs.length - 1) + (if x.d.wfmt = .zl8 then 3 * kk else 0)
  let ar := fun k => crustSum .rne 0 (vs.map (fun v => aVal x v k))
  let aa := fun k => crustSum .up 0 (vs.map (fun v => valAbs (aVal x v k)))
  crustCheck (fmtIsInt x.d.wfmt) u cnt (vs.map (fun v => ((out v).getD n (0, false)).1))
    (vs.map (fun v => ((init v).getD n (0, false)).1))
    ((List.range kk).map (fun k => valMul (f32Val (ar k)) (wVal x k n)))
    ((List.range kk).map (fun k => valMul (f32Val (aa k)) (valAbs (wVal x k n))))
    ((List.range kk).foldl (fun acc k => acc +
      (vs.foldl (fun a v => a + int32Of x.d.afmt (aCode x v k)) 0) * int32Of x.d.wfmt (wCode x k n)) 0)

/-- The array in which vector `v` or crêpe column group `g` is processed (R107, R126). -/
def checkArray (d : PassDesc) (v g : Nat) : Nat := if d.crepe then g / 4 else v % 4

/-- The vectors of step `st` of a pass (R107, R126). -/
def stepVectors (d : PassDesc) (st : Nat) : List Nat :=
  if d.crepe then [st] else (List.range 4).filterMap (fun a => if 4 * st + a < d.m then some (4 * st + a) else none)

/-- Results with the bits that upsets invert as they leave the array. -/
def applyFlips (fl : List Flip) (v : Nat) (out : List (BitVec 32 × Bool)) : List (BitVec 32 × Bool) :=
  fl.foldl (fun o f => if f.v = v then o.modify f.col (fun e => (e.1 ^^^ (1#32 <<< f.bit.val), e.2)) else o) out

/-- The units of a pass, by the first column group: one, or sixteen in crêpe mode. -/
def passUnits (d : PassDesc) : List Nat := if d.crepe then List.range 16 else [0]

/-- Outcomes of a list of checks, in order: how many were skipped, how many consumed poison, and the first that
failed (array and index), with whether an injected check made it fail. -/
structure Checks where
  skipped : Nat
  bites : Nat
  failed : Option (Nat × Nat)
  inj : Bool

/-- The stack after a check is asked of the injection counter of its array's crust (R526, checkers 2-5). -/
def crustInject (s : Stack) (c arr : Nat) : Bool × Stack := takeInject s (haSite (coreSite s c)) (2 + arr)

/-- One check added: poisoned operands are consumed and nothing is compared (R133); a check of NaN or infinite values is not made
and takes no injection (R132); of the checks made, an injected one fails (R526). Of several that fail in one step, or among the row checks of one
pass, the first is recorded and reported, by vector then unit for column checks, by array then column for row checks; the manual ranks none
(DESIGN CHOICE, log 104). -/
def addCheck (c : Nat) (acc : Stack × Checks) (arr index : Nat) (poisoned : Bool) (r : CheckResult) : Stack × Checks :=
  let (s, k) := acc
  if poisoned then (s, { k with bites := k.bites + 1 })
  else if r = .skip then (s, { k with skipped := k.skipped + 1 })
  else
    let (inj, s) := crustInject s c arr
    if inj ∨ r = .fail then
      match k.failed with
      | some _ => (s, k)
      | none => (s, { k with failed := some (arr, index), inj := inj })
    else (s, k)

/-- The report of a pass's failed check in the layout of CORE_CRUST_LOG (R138). `kind` is 0 for a column check. -/
def crustReport (p : PassRun) (kind arr index : Nat) : Word :=
  bv 64 (2 ^ 63 + kind * 2 ^ 61 + arr * 2 ^ 59 + p.d.idx * 2 ^ 48 + (p.tick % 65536) * 2 ^ 32 + index)

/-- A pass with its first mismatch noted, and with the injection behind the failure of its replay (R134, R135, R526). -/
def noteMiss (s : Stack) (c : Nat) (p : PassRun) (kind : Nat) (k : Checks) : PassRun :=
  match k.failed with
  | none => p
  | some (arr, index) =>
    match p.miss with
    | some (w, took, inj) => { p with miss := some (w, took, inj || k.inj) }
    | none => { p with miss := some (crustReport p kind arr index, decide (fld (reg s (rCrustLog c)) 63 1 = 0), k.inj) }

/-- The crust's effects on the registers and faults of core `c` (R132-R134, R137, R138): skipped checks counted, a
bite raised for each check that consumed poison, a first failure recorded. `kind` is 0 for a column check. -/
def crustEffects (s : Stack) (c : Nat) (x : QEntry) (p : PassRun) (kind : Nat) (k : Checks) : Stack :=
  let q := qposOf (s.core c).mx x.uid
  let s := setReg s (rCrustStat c) (addSat (reg s (rCrustStat c)) 0 32 k.skipped)
  let s := (List.range k.bites).foldl (fun s _ => biteCore s c .mx q biteCrust) s
  match k.failed with
  | none => s
  | some (arr, index) =>
    if p.replay then s
    else
      let log := crustReport p kind arr index
      let s := setReg s (rCrustStat c) (addSat (reg s (rCrustStat c)) 32 16 1)
      let s := if fld (reg s (rCrustLog c)) 63 1 = 1 then s else setReg s (rCrustLog c) log
      raise s { source := fCrustMismatch, addr := haSite (coreSite s c), core := some c, detail0 := log,
                injected := k.inj }

/-! ### Writes, pushes and retirement (R118-R121) -/

/-- The drained elements of a pass: every result converted once to OFMT (R100, R104). -/
def drainedEl (s : Stack) (c : Nat) (x : QEntry) (p : PassRun) (i : Nat) : Nat × Bool :=
  let cols := passCols p.d
  let e := (p.res.getD (i / cols) []).getD (i % cols) (0, false)
  let src : Fmt := if fmtIsInt p.d.wfmt then .int32 else .fp32
  (convertCode src p.d.ofmt p.d.sat (srMode (srOf s c p.d.rnd { x with tick := p.tick, ord := p.ord }) i) e.1.toNat,
    e.2 || p.cell)

/-- The elements of a pass ready to be drained. -/
def readyEls (p : PassRun) : Nat := p.res.length * passCols p.d

/-- The stack with vector `v` of a pass written to its accumulator lines. -/
def writeVector (s : Stack) (c : Nat) (p : PassRun) (v : Nat) : Stack :=
  let cols := passCols p.d
  let row := (p.res.getD v []).map (fun e => (e.1.toNat, e.2 || p.cell))
  let e0 := p.d.accout * 128 + v * cols
  (List.range (cols / 32)).foldl (fun s i =>
    let e := e0 + i * 32
    writeLine s (scratchAddr c (e / 128)) (packFrom 32 (e % 128) ((row.drop (i * 32)).take 32))
      (spanMask (4 * (e % 128)) 128)) s

/-- Whether the next line that a pass drains is complete and not pushed. -/
def pushDue (p : PassRun) : Bool :=
  let per := fmtPerLine p.d.ofmt
  let total := p.d.m * passCols p.d
  passDrain p.d && decide (p.pushed * per < total) && decide (min ((p.pushed + 1) * per) total ≤ readyEls p)

/-- Whether there is room for it: its place of before a replay, or a free entry (R134, R178). -/
def pushRoom (s : Stack) (c : Nat) (x : QEntry) (p : PassRun) : Bool :=
  (dqFind s c p.d.dq x.uid p.pushed).isSome || dqRoom s c p.d.dq

/-- A drained line pushed, held until its pass retires; a replay puts it where it stood (R120, R134). -/
def pushHeld (s : Stack) (c q uid i : Nat) (l : Line) : Stack :=
  match dqFind s c q uid i with
  | some k => setScratch s c (dqLine s c q k) l
  | none => dqPush s c q l (.held uid i)

/-- One write or push of the oldest unretired pass, where one is due (R121). -/
def flushOne (s : Stack) (c : Nat) (x : QEntry) (p : PassRun) : Option (Stack × PassRun) :=
  let per := fmtPerLine p.d.ofmt
  let total := p.d.m * passCols p.d
  if passAcc p.d ∧ p.wrote < p.res.length then some (writeVector s c p p.wrote, { p with wrote := p.wrote + 1 })
  else if pushDue p ∧ pushRoom s c x p then
    let els := (List.range (min per (total - p.pushed * per))).map (fun i => drainedEl s c x p (p.pushed * per + i))
    some (pushHeld s c p.d.dq x.uid p.pushed (packLine p.d.ofmt els), { p with pushed := p.pushed + 1 })
  else none

/-- Every write and push that is due. -/
def flushAll (c : Nat) (x : QEntry) : Nat → Stack → PassRun → Stack × PassRun
  | 0, s, p => (s, p)
  | n + 1, s, p =>
    match flushOne s c x p with
    | some (s, p) => flushAll c x n s p
    | none => (s, p)

/-- A bound on the writes and pushes of one pass. -/
def flushFuel : Nat := 4096

/-- Whether every write and push of a pass has been made. -/
def flushed (p : PassRun) : Bool :=
  decide (p.res.length = p.d.m) && (!passAcc p.d || decide (p.wrote = p.d.m))
    && (!passDrain p.d || decide (p.pushed = passOutLines p.d))

/-- The oldest pass that has started and not retired. -/
def oldestPass (s : Stack) (c : Nat) : Option (QEntry × PassRun) :=
  ((s.core c).mx.find? (fun x => !x.done)).bind (fun x =>
    match x.pass with
    | some p => if p.started then some (x, p) else none
    | none => none)

/-- The stack with the oldest pass's due writes and pushes made. -/
def flushOldest (s : Stack) (c : Nat) : Stack :=
  match oldestPass s c with
  | some (x, p) =>
    if p.broken then s
    else
      let (s, p) := flushAll c x flushFuel s p
      putOp s c .mx { x with pass := some p }
  | none => s

/-- The pass whose step completes next: the oldest with steps left, unless a pass waits for its replay. -/
def stepPass (s : Stack) (c : Nat) : Option (QEntry × PassRun) :=
  let live := (s.core c).mx.filterMap (fun x => if x.done then none else x.pass.map (fun p => (x, p)))
  if live.any (fun e => e.2.broken) then none
  else live.find? (fun e => e.2.started && decide (e.2.res.length < e.2.d.m))

/-- The results of the next step of a pass as they leave the array, vector by vector, with the bits that upsets invert (R107, R126, R129). -/
def stepOuts (s : Stack) (c : Nat) (x : QEntry) (p : PassRun) (flips : List Flip) : List (Nat × List (BitVec 32 × Bool)) :=
  let before := passesBefore s c x.uid
  let pd := passData s c x.uid p.d
  let st := if p.d.crepe then p.res.length else p.res.length / 4
  (stepVectors p.d st).map (fun v => (v, applyFlips flips v (passVector pd v (passInit s c before p.d v))))

/-- The column checks of a step (R129), with what they take from the injection counters (R526). -/
def stepChecks (s : Stack) (c : Nat) (x : QEntry) (p : PassRun) (outs : List (Nat × List (BitVec 32 × Bool))) : Stack × Checks :=
  let before := passesBefore s c x.uid
  let pd := passData s c x.uid p.d
  let st := if p.d.crepe then p.res.length else p.res.length / 4
  let u := fld (reg s (rCrustCfg c)) 8 8
  (outs.flatMap (fun vo => (passUnits p.d).map (fun g => (vo, g)))).foldl
    (fun acc (e : (Nat × List (BitVec 32 × Bool)) × Nat) =>
      let v := e.1.1
      let iv := passInit s c before p.d v
      let bad := wBad pd || aBad pd v || (unitCols e.2).any (fun n => (iv.getD n (0, false)).2)
      addCheck c acc (checkArray p.d v e.2) st bad (columnCheck u pd v e.2 e.1.2 iv))
    (s, ⟨0, 0, none, false⟩)

/-- A pass step leaves the array (R121, R129): its vectors computed, its column checks made; results that pass them
join the pass's results, and a first failure stops the pass for its replay. -/
def stepComplete (s : Stack) (c : Nat) (flips : List Flip) : Stack :=
  match stepPass s c with
  | none => s
  | some (x, p) =>
    if operandsReady s c x.uid p.d then
      let outs := stepOuts s c x p flips
      let (s, k) := stepChecks s c x p outs
      let (p, s) := (noteMiss s c p 0 k, crustEffects s c x p 0 k)
      let p := match k.failed with
        | some _ => if p.replay then { p with cell := true } else { p with broken := true }
        | none => p
      let p := if p.broken then p else { p with res := p.res ++ outs.map (fun e => e.2) }
      flushOldest (putOp s c .mx { x with pass := some p }) c
    else s

/-- The row checks of a pass, all of them (R129). -/
def rowChecks (s : Stack) (c : Nat) (x : QEntry) (p : PassRun) : Stack × Checks :=
  let pd := passData s c x.uid p.d
  let u := fld (reg s (rCrustCfg c)) 8 8
  let initOf := fun v => passInit s c [] p.d v
  let arrays := if p.d.crepe then [List.range p.d.m]
    else (List.range 4).map (fun a => (List.range p.d.m).filter (fun v => decide (v % 4 = a)))
  let all := (List.range arrays.length).flatMap (fun a => (List.range (passCols p.d)).map (fun n => (a, n)))
  all.foldl (fun acc (e : Nat × Nat) =>
    let vs := arrays.getD e.1 []
    if vs = [] then acc
    else
      let bad := wBad pd || vs.any (fun v => aBad pd v || ((initOf v).getD e.2 (0, false)).2)
      let arr := if p.d.crepe then e.2 / 128 else e.1
      addCheck c acc arr e.2 bad (rowCheck u pd vs e.2 (fun v => p.res.getD v []) initOf))
    (s, ⟨0, 0, none, false⟩)

/-- Entries dropped from the head of a queue, `n` of them. -/
def dqDropN (s : Stack) (c q : Nat) : Nat → Stack
  | 0 => s
  | n + 1 => dqDropN (dqDrop s c q) c q n

/-- A pass's held lines made visible in its queue (R120). -/
def showHeld (s : Stack) (c q uid : Nat) : Stack :=
  let d := s.dq c q
  s.setDq c q { d with slots := d.slots.map (fun x => match x with
    | .held u _ => if u = uid then .full else x
    | .full => .full) }

/-- Every line a pass has pushed, poisoned in its storage (R135). -/
def poisonHeld (s : Stack) (c q uid : Nat) : Stack :=
  (List.range (s.dq c q).slots.length).foldl (fun s i =>
    match (s.dq c q).slots[i]? with
    | some (Slot.held u _) =>
      if u = uid then setScratch s c (dqLine s c q i) { dqPeek s c q i with marks := 0xFFFF#16 } else s
    | _ => s) s

/-- The results of a pass whose initial values come from an earlier pass, poisoned where the words they were computed from are by now (R99, R125). -/
def inheritPoison (s : Stack) (c : Nat) (x : QEntry) : QEntry :=
  match x.pass with
  | none => x
  | some p =>
    if p.d.accIn then
      let before := passesBefore s c x.uid
      { x with pass := some { p with res := p.res.zipIdx.map (fun r => r.1.zipIdx.map (fun e =>
          (e.1.1, e.1.2 || (accEl s c before (p.d.accin * 128 + r.2 * passCols p.d + e.2)).2))) } }
    else x

/-- The passes behind `uid`, in dispatch order, with the poison that its failed replay puts on what it forwarded to them (R99, R125, R135). -/
def spreadPoison (s : Stack) (c uid : Nat) : Stack :=
  (((s.core c).mx.dropWhile (fun y => decide (y.uid ≠ uid))).drop 1).foldl (fun s y =>
    if y.done then s else putOp s c .mx (inheritPoison s c y)) s

/-- The end of a pass whose checks are done (R118, R120, R135): a failed replay poisons every output, and with them what later passes have computed
from it; queue operands are popped, drained lines become visible, FLAG is written, and CELL_FAULT follows retirement. -/
def retirePass (now : Nat) (s : Stack) (c : Nat) (x : QEntry) (p : PassRun) : Stack :=
  let s := if p.cell then
      let s := spreadPoison (putOp s c .mx { x with pass := some p }) c x.uid
      let s := if passAcc p.d then (List.range p.d.m).foldl (fun s v => writeVector s c p v) s else s
      if passDrain p.d then poisonHeld s c p.d.dq x.uid else s
    else s
  let s := match p.d.wq with | some q => dqDropN s c q (passWLines p.d) | none => s
  let s := match p.d.aq with | some q => dqDropN s c q (passALines p.d) | none => s
  let s := if passDrain p.d then showHeld s c p.d.dq x.uid else s
  let q := qposOf (s.core c).mx x.uid
  let s := writeFlag now s c p.d.flag true
  let s := putOp s c .mx { x with done := true, pass := some p }
  let s := if p.cell then
      let (first, took, inj) := p.miss.getD (0, false, false)
      let log := reg s (rCrustLog c)
      let s := setReg s (rCrustLog c) (if took ∧ log = first then setFld log 62 1 1 else log)
      let s := setReg s (rCrustStat c) (addSat (reg s (rCrustStat c)) 48 16 1)
      let s := raise s { source := fCellFault, addr := haSite (coreSite s c), core := some c,
                         detail0 := setFld first 62 1 1, attributed := true, injected := inj, qpos := q }
      markInjected inj s.bus.length (siteFailed s (coreSite s c))
    else s
  flushOldest s c

/-- The oldest pass retires once all its steps have passed and its writes are made (R118): its row checks resolve; a
first failure stops it for its replay. -/
def passRetire (now : Nat) (s : Stack) (c : Nat) : Stack :=
  let s := flushOldest s c
  match oldestPass s c with
  | none => s
  | some (x, p) =>
    if flushed p ∧ ¬ p.broken then
      let (s, k) := rowChecks s c x p
      let (p, s) := (noteMiss s c p 1 k, crustEffects s c x p 1 k)
      match k.failed with
      | some _ =>
        if p.replay then retirePass now s c x { p with cell := true }
        else putOp s c .mx { x with pass := some { p with broken := true } }
      | none => retirePass now s c x p
    else s

/-- The replay (R134): the broken pass and every later one are issued again from step 0, none of their results kept; the places that lines pushed
already hold in their queue stay theirs, and the lines are pushed there again. -/
def passReplay (s : Stack) (c : Nat) : Stack :=
  let q := (s.core c).mx
  match q.find? (fun x => !x.done && (match x.pass with | some p => p.broken | none => false)) with
  | none => s
  | some b =>
    let later := q.dropWhile (fun x => decide (x.uid ≠ b.uid))
    later.foldl (fun s x =>
      match x.pass with
      | some p =>
        putOp s c .mx { x with pass := some { p with
          res := [], wrote := 0, pushed := 0, cell := false, broken := false, replay := p.replay || decide (x.uid = b.uid) } }
      | none => s) s

/-- The waits of a pass that has started: for a line that it takes from a queue, or for room for a line that it drains (KIND and OBJECT; R178). -/
def passWaits (s : Stack) (c : Nat) (x : QEntry) (p : PassRun) : List (Nat × Nat) :=
  if !p.started then []
  else if p.res.length < p.d.m ∧ !operandsReady s c x.uid p.d then [(1, (operandWait s c x.uid p.d).getD 0)]
  else
    let oldest := match oldestPass s c with | some (y, _) => decide (y.uid = x.uid) | none => false
    if oldest && !p.broken && pushDue p && !pushRoom s c x p then [(2, p.d.dq)] else []

/-- Whether a pass of a list of operations waits: the engine then starts no other operation (R178). -/
def passHolds (s : Stack) (c : Nat) (before : List QEntry) : Bool :=
  before.any (fun x => !x.done && (match x.pass with | some p => passWaits s c x p ≠ [] | none => false))

/-- Whether an entry of the MX queue is a PASS. -/
def isPass (x : QEntry) : Bool := match x.op with | some (.pass _) => true | _ => false

/-- PASS (R217): the oldest started PASS that has no pass yet names its descriptor, offsets applied; the command names the operation. -/
def passName (s : Stack) (c : Nat) (o : PassOp) : Stack :=
  match (s.core c).mx.find? (fun x => x.started && !x.done && isPass x && x.pass.isNone) with
  | none => s
  | some x =>
    if x.op ≠ some (.pass o) then s
    else putOp s c .mx { x with pass := some ⟨resolvePass s c o, false, x.tick, x.ord, [], 0, 0, false, false, false, none⟩ }

/-- PASS_START (R117): the oldest pass that has not started starts, once it is named, or raises MX_DESC and starts nothing; passes start in
dispatch order (R118). -/
def passStart (s : Stack) (c : Nat) : Stack :=
  match (s.core c).mx.find? (fun x => !x.done && isPass x && (match x.pass with | some p => !p.started | none => true)) with
  | none => s
  | some x =>
    match x.pass with
    | none => s
    | some p =>
      if passValid s c x.uid p.d then putOp s c .mx { x with pass := some { p with started := true } }
      else putOp (raiseCore s c .mx (qposOf (s.core c).mx x.uid) fMxDesc) c .mx { x with done := true, pass := none }

/-- One act of DRAIN (R218): an accumulator line converted, or an output line written or pushed. -/
def drainAct (s : Stack) (c : Nat) (o : DrainOp) (x : QEntry) : Act :=
  let p := x.prog
  let n := o.n.toNat + 1
  let tgt := (fmtOf o.ofmt.toNat).getD .fp32
  let per := fmtPerLine tgt
  let src : Fmt := if o.t then .int32 else .fp32
  if p.buf.length ≥ per ∨ (p.i ≥ n ∧ p.buf ≠ []) then
    match writeEnd s c o.d p.out (packLine tgt (p.buf.take per)) with
    | .go _ s => .go s { x with prog := { p with buf := p.buf.drop per, out := p.out + 1 } }
    | .wait kd ob => .wait kd ob
  else if p.i ≥ n then .done
  else
    match readEnd s c o.a p.i with
    | .go l s =>
      .go s { x with prog := { p with
        i := p.i + 1, elem := p.elem + 128, buf := p.buf ++ cvtEls (srOf s c o.rnd x) src tgt o.sat p.elem (lineEls src l) } }
    | .wait kd ob => .wait kd ob

end Sys2Proof.Machine
end

