-- ==== Sys2Proof/Machine/Fec.lean ====
section
/-! DEFINITION. The forward error correction of an Ivton port (R377-R379): RS(544,514) over GF(2^10), the message bits of a codeword, the dealing
of its symbols to the eight lanes. The field, the generator and the order of symbols are those of the code that Table 12.6 names (PRESUMED, log
100). -/

namespace Sys2Proof.Machine
open Sys2Proof

/-! ### The field -/

/-- A field element doubled, modulo x^10 + x^3 + 1. -/
def gfDouble (a : Nat) : Nat := if a < 512 then 2 * a else (2 * a) ^^^ 0x409

/-- The product of two field elements by the `n` low bits of the second. -/
def gfMulBits (a b : Nat) : Nat → Nat
  | 0 => 0
  | n + 1 => (if b % 2 = 1 then a else 0) ^^^ gfMulBits (gfDouble a) (b / 2) n

def gfMul (a b : Nat) : Nat := gfMulBits a b 10

/-- The `n`-th power of a field element, `n` below 2^k. -/
def gfPowBits (a n : Nat) : Nat → Nat
  | 0 => 1
  | k + 1 => gfMul (if n % 2 = 1 then a else 1) (gfPowBits (gfMul a a) (n / 2) k)

def gfPow (a n : Nat) : Nat := gfPowBits a n 10

/-- The inverse of a field element that is not 0. -/
def gfInv (a : Nat) : Nat := gfPow a 1022

/-- The primitive element to a power. -/
def gfAlpha (n : Nat) : Nat := gfPow 2 (n % 1023)

/-! ### Polynomials, lowest coefficient first -/

/-- A polynomial at a point. -/
def polyAt (p : List Nat) (x : Nat) : Nat := p.foldr (fun c acc => c ^^^ gfMul acc x) 0

/-- The sum of two polynomials. -/
def polyAdd : List Nat → List Nat → List Nat
  | [], q => q
  | p, [] => p
  | a :: p, b :: q => (a ^^^ b) :: polyAdd p q

/-- A polynomial times a constant. -/
def polyScale (c : Nat) (p : List Nat) : List Nat := p.map (gfMul c)

/-- The product of two polynomials. -/
def polyMul : List Nat → List Nat → List Nat
  | [], _ => []
  | a :: p, q => polyAdd (polyScale a q) (0 :: polyMul p q)

/-- The formal derivative of a polynomial. -/
def polyDiff (p : List Nat) : List Nat := (p.drop 1).zipIdx.map (fun e => if e.2 % 2 = 0 then e.1 else 0)

/-! ### The code -/

def fecSymbols : Nat := 544
def fecMessage : Nat := 514
def fecParity : Nat := 30
def fecBits : Nat := 5140

/-- The generator: the product of x + α^j for j from 0 to 29. -/
def fecGenerator : List Nat := (List.range fecParity).foldl (fun g j => polyMul [gfAlpha j, 1] g) [1]

/-- One message symbol shifted into the encoder's register of 30 symbols, highest first. -/
def fecShift (g r : List Nat) (m : Nat) : List Nat :=
  let c := m ^^^ r.headD 0
  List.zipWith (fun x y => x ^^^ gfMul c y) (r.drop 1 ++ [0]) g

/-- A codeword: the message symbols in order, then the 30 parity symbols. -/
def fecEncode (m : List Nat) : List Nat :=
  let g := (fecGenerator.take fecParity).reverse
  m ++ m.foldl (fecShift g) (List.replicate fecParity 0)

/-- The 30 syndromes of a received word, its first symbol the highest coefficient. -/
def fecSyndromes (r : List Nat) : List Nat :=
  (List.range fecParity).map (fun j => let x := gfAlpha j; r.foldl (fun acc c => gfMul acc x ^^^ c) 0)

/-- A state of the search for the error locator (Berlekamp and Massey): the locator, the one before its last change of length, that change's
discrepancy, how far back it lies, the length. -/
structure Locator where
  now : List Nat
  old : List Nat
  disc : Nat
  back : Nat
  len : Nat

/-- The search taken on by syndrome `n`. -/
def locatorStep (syn : List Nat) (x : Locator) (n : Nat) : Locator :=
  let d := (List.range (x.len + 1)).foldl (fun acc i => acc ^^^ gfMul (x.now.getD i 0) (syn.getD (n - i) 0)) 0
  if d = 0 then { x with back := x.back + 1 }
  else
    let next := polyAdd x.now (List.replicate x.back 0 ++ polyScale (gfMul d (gfInv x.disc)) x.old)
    if 2 * x.len ≤ n then ⟨next, x.now, d, 1, n + 1 - x.len⟩
    else { x with now := next, back := x.back + 1 }

/-- The error locator of a list of syndromes. -/
def fecLocator (syn : List Nat) : Locator := (List.range fecParity).foldl (locatorStep syn) ⟨[1], [1], 1, 1, 0⟩

/-- A received word decoded: with up to 15 symbols corrected and how many they were; none for an uncorrectable codeword. -/
def fecDecode (r : List Nat) : Option (List Nat × Nat) :=
  let syn := fecSyndromes r
  if syn.all (fun x => decide (x = 0)) then some (r, 0)
  else
    let x := fecLocator syn
    if 15 < x.len then none
    else
      let omega := (polyMul syn x.now).take fecParity
      let slope := polyDiff x.now
      let fixed := r.zipIdx.map (fun e =>
        let p := gfAlpha (fecSymbols - 1 - e.2)
        let q := gfInv p
        if polyAt x.now q = 0 then e.1 ^^^ gfMul p (gfMul (polyAt omega q) (gfInv (polyAt slope q))) else e.1)
      let n := (List.zipWith (fun a b => decide (a ≠ b)) r fixed).countP id
      if n ≤ 15 ∧ (fecSyndromes fixed).all (fun y => decide (y = 0)) then some (fixed, n) else none

/-! ### Message bits and lanes (R378) -/

/-- The 514 symbols of a message of 5,140 bits, its first bits in the first symbol. -/
def messageSymbols (m : Nat) : List Nat := (List.range fecMessage).map (fun i => m / 2 ^ (10 * i) % 1024)

/-- The message bits of a codeword. -/
def messageBits (cw : List Nat) : Nat := (cw.take fecMessage).foldr (fun c acc => c + 1024 * acc) 0

/-- A codeword dealt to the eight lanes: symbol s to lane s mod 8. -/
def dealLanes (cw : List Nat) : List (List Nat) :=
  (List.range 8).map (fun l => (List.range 68).map (fun i => cw.getD (8 * i + l) 0))

/-- The codeword whose symbols begin at place `p` of the lanes as they are received, lane l late by its skew; none where a lane is too short. -/
def gatherLanes (p : Nat) (skew : List Nat) (lanes : List (List (BitVec 10))) : Option (List Nat) :=
  if (List.range 8).all (fun l => decide (p + skew.getD l 0 + 68 ≤ (lanes.getD l []).length)) then
    some ((List.range fecSymbols).map (fun s =>
      ((lanes.getD (s % 8) []).getD (p + skew.getD (s % 8) 0 + s / 8) 0).toNat))
  else none

end Sys2Proof.Machine
end

