-- ==== Sys2Proof/Machine/Ivt.lean ====
section
/-! DEFINITION. The router of a stack (12_ivton_fabric.md): node IDs, routes, packet headers, the slots of a link, the waiting
and sending of packets on its links under link credits, and what becomes of a packet that no link can carry. -/

namespace Sys2Proof.Machine

/-! ### Status codes (Table 13.2) -/

def stOk : Nat := 0x0
def stBusy : Nat := 0x1
def stInvalidOpcode : Nat := 0x2
def stInvalidParam : Nat := 0x3
def stAddrInvalid : Nat := 0x4
def stState : Nat := 0x5
def stNotLicensed : Nat := 0x6
def stImemBusy : Nat := 0x7
def stPageExhausted : Nat := 0x8
def stPoisoned : Nat := 0x9
def stAborted : Nat := 0xA
def stNodeLost : Nat := 0xB
def stPartial : Nat := 0xC
def stTimeout : Nat := 0xD
def stRetryLater : Nat := 0xE
def stTopologyMismatch : Nat := 0xF
def stAuthFailed : Nat := 0x10

/-! ### Nodes (R365, R366, R404) -/

/-- The node ID of a stack and its index in the module (R44, R407). -/
def nodeId (s : Stack) : Nat := fld (reg s rIvtNode) 0 16
def stackIndex (s : Stack) : Nat := fld (reg s rIdPosition) 4 2

/-- Whether a node ID is usable (R365). -/
def nodeUsable (d : Nat) : Bool := decide (d ≤ 0xFFEF)

/-- Whether a node is marked lost (R404, R416). -/
def nodeLost (s : Stack) (d : Nat) : Bool := (reg s (rIvtLost (d / 64))).getLsbD (d % 64)

/-- Cycles of CCLK (0.4 ns) in a microsecond and in a back-off unit of 8 ns. -/
def cyclesUs : Nat := 2500
def cycles8ns : Nat := 20

/-! ### Packets -/

/-- The class of a packet type (Table 12.9): 0 REQ, 1 RSP, 2 CMD, 3 GRP. -/
def pktClass (t : PktType) : Nat :=
  match t with
  | .rd | .wr | .wrm | .atom => 0
  | .rdRsp | .wrAck | .atomRsp | .errRsp | .mcAck | .mcDrop => 1
  | .cmd | .cmdRpl | .nodeDown => 2
  | .mcWr | .collUp | .collDown => 3

/-- Whether a packet asks for an answer by a router that cannot send it on (R369). -/
def pktIsRequest (t : PktType) : Bool := decide (pktClass t = 0)

/-- The TYPE code of a packet type (Table 12.9). -/
def typeCode (t : PktType) : Nat :=
  match t with
  | .rd => 0x01 | .wr => 0x02 | .wrm => 0x03 | .atom => 0x04
  | .rdRsp => 0x08 | .wrAck => 0x09 | .atomRsp => 0x0A | .errRsp => 0x0B
  | .cmd => 0x10 | .cmdRpl => 0x11 | .nodeDown => 0x12
  | .mcWr => 0x18 | .mcAck => 0x19 | .mcDrop => 0x1A
  | .collUp => 0x1C | .collDown => 0x1D

/-- The packet type of a TYPE code: none for a code of no type. -/
def typeOf (n : Nat) : Option PktType :=
  ([.rd, .wr, .wrm, .atom, .rdRsp, .wrAck, .atomRsp, .errRsp, .cmd, .cmdRpl, .nodeDown, .mcWr, .mcAck, .mcDrop, .collUp, .collDown] :
    List PktType).find? (fun t => typeCode t = n)

/-- A word of fields, each as (lowest bit, width, value). -/
def fieldsWord (fs : List (Nat × Nat × Nat)) : Word := fs.foldl (fun w f => setFld w f.1 f.2.1 f.2.2) 0

/-- The four words of a packet's header (Table 12.8). -/
def headerWords (k : Packet) : List Word :=
  [fieldsWord [(59, 5, typeCode k.ty), (58, 1, k.fence.toNat), (57, 1, k.unchecked.toNat), (56, 1, k.resend.toNat), (42, 14, k.tag),
      (32, 10, k.data.length), (16, 16, k.src), (0, 16, k.dst)],
    fieldsWord [(48, 16, k.status), (0, 48, k.addr)],
    fieldsWord [(48, 16, k.poison.toNat), (32, 16, k.backoff), (22, 10, k.rlen), (19, 3, k.atype), (0, 8, k.hops)],
    fieldsWord [(48, 16, k.domain), (32, 16, k.tick), (24, 8, k.entry), (16, 8, k.mlo), (8, 8, k.mhi)]]

/-- A packet as its header words give it, without its payload: none where TYPE names no packet type. -/
def headerPacket (ws : List Word) : Option Packet :=
  let w := fun i => ws.getD i 0
  (typeOf (fld (w 0) 59 5)).map (fun t =>
    { ty := t, fence := decide (fld (w 0) 58 1 = 1), unchecked := decide (fld (w 0) 57 1 = 1), resend := decide (fld (w 0) 56 1 = 1),
      tag := fld (w 0) 42 14, src := fld (w 0) 16 16, dst := fld (w 0) 0 16, status := fld (w 1) 48 16, addr := fld (w 1) 0 48,
      poison := bv 16 (fld (w 2) 48 16), backoff := fld (w 2) 32 16, rlen := fld (w 2) 22 10, atype := fld (w 2) 19 3, hops := fld (w 2) 0 8,
      domain := fld (w 3) 48 16, tick := fld (w 3) 32 16, entry := fld (w 3) 24 8, mlo := fld (w 3) 16 8, mhi := fld (w 3) 8 8 })

/-- Four words as the 32 bytes of a slot, and back. -/
def wordsSlot (ws : List Word) : BitVec 256 := bv 256 (ws.foldr (fun w acc => w.toNat + 2 ^ 64 * acc) 0)
def slotWords (b : BitVec 256) : List Word := (List.range 4).map (fun i => bv 64 (b.toNat / 2 ^ (64 * i)))

/-- Data slots that `n` payload bytes fill, and data slots of a packet (R373). -/
def payloadSlots (n : Nat) : Nat := (n + 31) / 32
def pktSlots (k : Packet) : Nat := 1 + payloadSlots k.data.length

/-- The data slots of a packet: its header slot, then its payload, padded with zeros to whole slots (R373). -/
def packetSlots (k : Packet) : List (BitVec 256) :=
  wordsSlot (headerWords k) :: (List.range (payloadSlots k.data.length)).map (fun i => bv 256 (bytesNat ((k.data.drop (32 * i)).take 32)))

/-- The parity bits of a slot: one over each of its four SRAM words (R277). -/
def slotParity (b : BitVec 256) : BitVec 4 :=
  bv 4 (((List.range 4).map (fun i => (xorBits (b.toNat / 2 ^ (64 * i) % 2 ^ 64) 64).toNat * 2 ^ i)).sum)

/-! ### Routes (R368, R369) -/

/-- Where a packet goes. -/
inductive Egress
  | local_
  | link (l : Nat)
  | unreachable
  deriving DecidableEq, Repr

/-- The bridge toward stack `b` from stack `a` (Table 12.1), by the link of its edge: 4 north, 5 east, 6 south, 7 west. -/
def bridgeToward (a b : Nat) : Nat :=
  match a, b with
  | 0, 2 => 6
  | 0, _ => 5
  | 1, 3 => 6
  | 1, _ => 7
  | 2, 3 => 5
  | 2, _ => 4
  | _, 2 => 7
  | _, _ => 4

/-- The stack across the bridge on link `l` from stack `a`, if that edge carries one (Table 1.1). -/
def acrossBridge (a l : Nat) : Option Nat :=
  match a, l with
  | 0, 5 => some 1
  | 0, 6 => some 2
  | 1, 7 => some 0
  | 1, 6 => some 3
  | 2, 4 => some 0
  | 2, 5 => some 3
  | 3, 4 => some 1
  | 3, 7 => some 2
  | _, _ => none

/-- The stack of the module whose node ID is `d`, if known. -/
def peerOf (s : Stack) (d : Nat) : Option Nat :=
  if !nodeUsable d then none
  else ([0, 1, 2, 3] : List Nat).find? (fun i => decide (s.peers.get (Fin.ofNat 4 i) = d) && decide (i ≠ stackIndex s))

/-- IVT_LINKn.STATE. -/
def linkState (s : Stack) (l : Nat) : Nat := fld (reg s (rIvtLink l)) 0 3
def linkUp (s : Stack) (l : Nat) : Bool := decide (linkState s l = 2)

/-- Whether the ports of the stack may carry packets (R2, R5: ports 8–15 are those of stacks 2 and 3, open or closed as bring-up or a
job admission has left them). -/
def portsLicensed (s : Stack) : Bool := decide (stackIndex s < 2) || s.portsOpen

/-- Whether link `l` exists for packets: a port that may carry packets, or an edge with a bridge (R369, R380). -/
def linkExists (s : Stack) (l : Nat) : Bool :=
  if l < 4 then portsLicensed s && decide (linkState s l ≠ 4) else (acrossBridge (stackIndex s) l).isSome

/-- The node of the partner across a link, when it is known. -/
def partnerOf (s : Stack) (l : Nat) : Option Nat :=
  let d := if l < 4 then (s.bring.neighbours.find? (fun e => e.1 = l)).map (fun e => e.2.1)
    else (acrossBridge (stackIndex s) l).map (fun b => s.peers.get (Fin.ofNat 4 b))
  d.filter nodeUsable

/-- The egress of a packet for node `d` (R368, R369). -/
def egressOf (s : Stack) (d : Nat) : Egress :=
  if d = nodeId s then .local_
  else
    match peerOf s d with
    | some b => .link (bridgeToward (stackIndex s) b)
    | none =>
      let code := fld (reg s (rIvtRoute (d / 16))) (4 * (d % 16)) 4
      if code < 8 ∧ linkExists s code then .link code else .unreachable

/-! ### Links -/

def Stack.link (s : Stack) (l : Nat) : Link := tget (fun _ => Link.reset) s.router.links l
def Stack.setLink (s : Stack) (l : Nat) (x : Link) : Stack :=
  { s with router := { s.router with links := tset (fun _ => Link.reset) s.router.links l x } }

/-- Data slots a retry buffer holds: 8,192 on a port, 1,024 on a bridge (R376). -/
def retrySize (l : Nat) : Nat := if l < 4 then 8192 else 1024

/-! ### The slot stream (R373, R375, R378) -/

/-- KIND of a link-control symbol (Table 12.5); 6 carries a package record between stacks of the module (log 32). -/
def symToken : Nat := 1
def symLinkDown : Nat := 5

/-- The place of a symbol in the order in which control slots take them: one that has stood in the last control slot and is to stand in the next,
then TOKEN, LINK_DOWN, NAK, ACK, CREDIT. -/
def symbolRank (x : CtlSymbol) : Nat :=
  if x.placed then 0
  else match x.kind with
    | 1 => 1
    | 5 => 2
    | 3 => 3
    | 2 => 4
    | 4 => 5
    | _ => 6

/-- The symbols in the order in which control slots take them: by rank, and within a rank as they came. -/
def symbolOrder (xs : List CtlSymbol) : List CtlSymbol := (List.range 7).flatMap (fun r => xs.filter (fun x => symbolRank x = r))

/-- A link-control slot of up to three symbols (Table 12.5). -/
def controlBits (xs : List CtlSymbol) : BitVec 256 :=
  wordsSlot (fieldsWord (xs.zipIdx.map (fun e => (8 * e.2, 8, e.1.kind))) :: (List.range 3).map (fun i => ((xs[i]?).map (fun x => x.content)).getD 0))

/-- The bits of a slot as a port encodes them: it checks their parity first (R379). What it encodes of a slot whose parity fails is not stated (log
121). -/
def encodedSlot (b : BitVec 256) (p : BitVec 4) : BitVec 256 := if slotParity b = p then b else bv 256 (Config.unstated 121 b.toNat)

/-- A slot with its parity put on link `l`: on a port its bits join the message of the codeword being filled, which leaves by the lanes once it is
full. -/
def putSlot (s : Stack) (l : Nat) (b : BitVec 256) (p : BitVec 4) : Stack :=
  let x := s.link l
  let x := { x with txSlot := x.txSlot + 1 }
  if l < 4 then
    let m := x.fill + (encodedSlot b p).toNat * 2 ^ x.filled
    let n := x.filled + 256
    if n < fecBits then s.setLink l { x with fill := m, filled := n }
    else
      let cw := dealLanes (fecEncode (messageSymbols (m % 2 ^ fecBits)))
      { s.setLink l { x with fill := m / 2 ^ fecBits, filled := n - fecBits } with sent := .codeword l cw :: s.sent }
  else s.setLink l x

/-- The next link-control slot of link `l`, with up to three of the symbols that wait; a symbol that is to stand in two stays for the next. -/
def controlSlot (s : Stack) (l : Nat) : Stack :=
  let x := s.link l
  let order := symbolOrder x.symbols
  let now := order.take 3
  let kept := (now.filter (fun y => decide (1 < y.copies))).map (fun y => { y with copies := y.copies - 1, placed := true })
  let s := s.setLink l { x with symbols := kept ++ order.drop 3 }
  putSlot { s with sent := .control l x.txSlot (controlBits now) :: s.sent } l (controlBits now) (slotParity (controlBits now))

/-- A data slot put on link `l`, after the link-control slot where one is due: slot n is one when n mod 48 = 47. -/
def dataSlot (s : Stack) (l : Nat) (b : BitVec 256) (p : BitVec 4) : Stack :=
  putSlot (if (s.link l).txSlot % 48 = 47 then controlSlot s l else s) l b p

/-- The bits of a data slot without a packet: TYPE 0, which no packet has, and what the manual does not state (log 101). -/
def idleBits (n : Nat) : BitVec 256 := bv 256 (Config.unstated 101 n) &&& ~~~((0x1F#256) <<< 59)

/-- A data slot without a packet: it takes a sequence number and stands in the retry buffer as every data slot does (R373, R376). With a full retry
buffer, or on a link without packets, its place passes empty: only control slots are sent. -/
def idleSlot (now : Nat) (s : Stack) (l : Nat) : Stack :=
  let x := s.link l
  if !linkUp s l ∨ retrySize l ≤ x.retry.length then s.setLink l { x with txSlot := x.txSlot + 1 }
  else
    let b := idleBits (8 * x.txSlot + l)
    putSlot (s.setLink l { x with retry := x.retry ++ [⟨x.txSeq, now, 1, b, slotParity b⟩], txSeq := (x.txSeq + 1) % 2 ^ 24 }) l b (slotParity b)

/-- `n` data slots without a packet. -/
def idleSlots (now l : Nat) : Nat → Stack → Stack
  | 0, s => s
  | n + 1, s => idleSlots now l n (idleSlot now s l)

/-- The symbols of link `l` that wait go out in its next link-control slot. -/
def controlDue (now : Nat) (s : Stack) (l : Nat) : Stack :=
  if (s.link l).symbols = [] then s else controlSlot (idleSlots now l (47 - (s.link l).txSlot % 48) s) l

/-- A symbol joins those that wait for a control slot of link `l`; a TOKEN and a LINK_DOWN are to stand in two consecutive ones (R375). -/
def queueSymbol (s : Stack) (l kind : Nat) (content : Word) : Stack :=
  let x := s.link l
  let n := if kind = symToken ∨ kind = symLinkDown then 2 else 1
  s.setLink l { x with symbols := x.symbols ++ [⟨kind, content, n, false⟩] }

/-- A control symbol sent on a link (R375): 2 ACK, 3 NAK, 4 CREDIT, 5 LINK_DOWN. -/
def sendSymbol (s : Stack) (l kind : Nat) (content : Word) : Stack :=
  queueSymbol { s with sent := .symbol l kind content :: s.sent } l kind content

/-- LINK_DOWN sent on a link that is to stop: in its next two control slots (R375, R383). -/
def sendLinkDown (now : Nat) (s : Stack) (l : Nat) : Stack := controlDue now (controlDue now (sendSymbol s l symLinkDown 0) l) l

/-- The TYPE code of a token and its payload (Table 2.1). -/
def tokenCode (ty : TokenTy) : Nat := match ty with | .start => 0 | .done => 1 | .go => 2 | .abort => 3
def tokenWord (ty : TokenTy) (k : Token) : Word :=
  fieldsWord [(62, 2, tokenCode ty), (48, 14, k.member.toNat), (32, 16, k.domain.toNat), (16, 16, k.tick.toNat), (0, 16, k.dest.toNat)]

/-- A tick token given to the control slots of a link. -/
def putToken (s : Stack) (l : Nat) (ty : TokenTy) (k : Token) : Stack :=
  queueSymbol { s with sent := .token l ty k :: s.sent } l symToken (tokenWord ty k)

/-- A stack whose links' waiting symbols have gone out. -/
def sendControls (now : Nat) (s : Stack) : Stack := s.router.links.foldl (fun s e => controlDue now s e.1) s

/-! ### Waiting packets (R374, R391) -/

/-- The slots of a received packet freed in its class's buffer, and told to the partner (R374, R375). -/
def freeSlots (s : Stack) (l : Nat) (k : Packet) : Stack :=
  let c := pktClass k.ty
  let x := s.link l
  let n := (x.granted.getD c 0 + pktSlots k) % 65536
  sendSymbol (s.setLink l { x with granted := x.granted.set c n }) l 4 (bv 64 (c * 65536 + n))

/-- A packet that has come in as `k` on link `l`, taken out of what the link has received, with the marks that its slots have given it (R376,
R382). A packet whose slots were not among the commands stands as it is (log 102). -/
def takeReceived (s : Stack) (l : Nat) (k : Packet) : Packet × Stack :=
  let x := s.link l
  let same := fun (p : Packet) => decide ({ p with poison := k.poison, masked := k.masked } = k)
  match x.inbox.find? same with
  | some p => ({ k with poison := k.poison ||| p.poison }, s.setLink l { x with inbox := x.inbox.eraseP same })
  | none => (k, s)

/-- A packet taken by the stack itself: its receive buffer is free again. -/
def received (s : Stack) (l : Nat) (k : Packet) : Packet × Stack :=
  let (k, s) := takeReceived s l k
  (k, freeSlots s l k)

/-- The stack with a responder transaction gone. -/
def closeRsp (s : Stack) (id : Nat) : Stack :=
  { s with router := { s.router with rsps := s.router.rsps.filter (fun x => decide (x.id ≠ id)) } }

/-- A packet that no longer waits: its place in a receive buffer is free again, the transaction that it answers is over. -/
def leave (s : Stack) (w : Waiting) : Stack :=
  let s := if w.from_ < 8 then freeSlots s w.from_ w.pkt else s
  match w.rsp with
  | some id => closeRsp s id
  | none => s

/-- A link with a packet's slots counted against its credits and held in the retry buffer. -/
def pushPacket (now : Nat) (x : Link) (k : Packet) : Link :=
  let c := pktClass k.ty
  let n := pktSlots k
  { x with
    credits := x.credits.set c (x.credits.getD c 0 - n)
    retry := x.retry ++ (packetSlots k).zipIdx.map (fun e => ⟨(x.txSeq + e.2) % 2 ^ 24, now, 1, e.1, slotParity e.1⟩)
    txSeq := (x.txSeq + n) % 2 ^ 24 }

/-- Whether link `l` can take a packet: credit and retry buffer for all of its slots (R374, R376). -/
def linkRoom (l : Nat) (x : Link) (k : Packet) : Bool :=
  decide (pktSlots k ≤ x.credits.getD (pktClass k.ty) 0 ∧ x.retry.length + pktSlots k ≤ retrySize l)

/-- The packets of `waiting` that the credits let go now, in order within each class (R374): what is sent and the link
after it. `blocked` names the classes in which an earlier packet still waits. -/
def drainWaiting (now l : Nat) (x : Link) (blocked : List Nat) : List Waiting → List Waiting × List Waiting × Link
  | [] => ([], [], x)
  | w :: ws =>
    if pktClass w.pkt.ty ∉ blocked ∧ linkRoom l x w.pkt then
      let (out, rest, y) := drainWaiting now l (pushPacket now x w.pkt) blocked ws
      (w :: out, rest, y)
    else
      let (out, rest, y) := drainWaiting now l x (pktClass w.pkt.ty :: blocked) ws
      (out, w :: rest, y)

/-- The multicast copies of a branch that the credits let go, oldest first (R396). -/
def drainBranch (now l : Nat) (x : Link) : List (Packet × Nat) → List Packet × List (Packet × Nat) × Link
  | [] => ([], [], x)
  | (k, t) :: ks =>
    if linkRoom l x k then
      let (out, rest, y) := drainBranch now l (pushPacket now x k) ks
      (k :: out, rest, y)
    else ([], (k, t) :: ks, x)

/-- A packet put on link `l`, slot by slot. -/
def carryPacket (l : Nat) (s : Stack) (k : Packet) : Stack :=
  (packetSlots k).foldl (fun s b => dataSlot s l b (slotParity b)) { s with sent := .packet l k :: s.sent }

/-- The stack with everything sent on link `l` that its credits allow. -/
def drainLink (now : Nat) (s : Stack) (l : Nat) : Stack :=
  if linkUp s l then
    let x := s.link l
    let (out, rest, y) := drainWaiting now l x [] x.waiting
    let (out2, rest2, z) := drainBranch now l y x.branch
    let s := s.setLink l { z with waiting := rest, branch := rest2 }
    out.foldl leave ((out.map (fun w => w.pkt) ++ out2).foldl (carryPacket l) s)
  else s

/-- A packet that waits put on a link that is up. -/
def sendWaiting (now : Nat) (s : Stack) (l : Nat) (w : Waiting) : Stack :=
  let x := s.link l
  drainLink now (s.setLink l { x with waiting := x.waiting ++ [w] }) l

/-- A packet of the stack's own put on a link that is up. -/
def sendOn (now : Nat) (s : Stack) (l : Nat) (k : Packet) : Stack := sendWaiting now s l ⟨k, 8, none⟩

/-- A packet that no link can carry is discarded and counted: at the link that is down, or in IVT_HOPS_CNT (R369). -/
def discardPacket (s : Stack) (e : Egress) : Stack :=
  match e with
  | .link l => setReg s (rIvtLinkCnt l) (addSat (reg s (rIvtLinkCnt l)) 0 16 1)
  | _ => setReg s rIvtHopsCnt (addSat (reg s rIvtHopsCnt) 0 32 1)

/-- The packets that wait on a link which stops, and the copies of its branch, discarded and counted there (R413). -/
def dropWaiting (s : Stack) (l : Nat) : Stack :=
  let x := s.link l
  setReg s (rIvtLinkCnt l) (addSat (reg s (rIvtLinkCnt l)) 0 16 (x.waiting.length + x.branch.length))

/-- A packet of the stack's own sent toward its destination, or discarded and counted where no link can carry it. The
flag says that it was sent. -/
def txWaiting (now : Nat) (s : Stack) (w : Waiting) : Bool × Stack :=
  match egressOf s w.pkt.dst with
  | .link l => if linkUp s l then (true, sendWaiting now s l w) else (false, leave (discardPacket s (.link l)) w)
  | e => (false, leave (discardPacket s e) w)

def txPacket (now : Nat) (s : Stack) (k : Packet) : Bool × Stack := txWaiting now s ⟨k, 8, none⟩

/-- The link a packet for node `d` leaves on, when one can carry it. -/
def egressLink (s : Stack) (d : Nat) : Option Nat :=
  match egressOf s d with
  | .link l => if linkUp s l then some l else none
  | _ => none

/-! ### Tags (R389) -/

/-- The lowest free transaction tag among `n` from `k` on. -/
def freeTag (tags : Tbl Txn) (k : Nat) : Nat → Option Nat
  | 0 => none
  | n + 1 => match tfind tags k with
    | none => some k
    | some _ => freeTag tags (k + 1) n

/-- Requester transactions at most (R389). -/
def maxTags : Nat := 16384

/-- The stack with a requester transaction opened and its packet sent: none when no tag is free. -/
def openTxn (now : Nat) (s : Stack) (f : TxnFor) (k : Packet) : Option Stack :=
  match freeTag s.router.tags 0 maxTags with
  | none => none
  | some t =>
    match egressLink s k.dst with
    | none => none
    | some l =>
      let k := { k with tag := t, src := nodeId s, hops := 64 }
      let s := { s with nextId := s.nextId + 1, router := { s.router with
        tags := tput s.router.tags t { for_ := f, pkt := k, link := l, sentAt := now, state := .open_, order := s.nextId } } }
      some (sendOn now s l k)

end Sys2Proof.Machine
end

