-- ==== Sys2Proof/Machine/LdSt.lean ====
section
/-! DEFINITION. The LD and ST engines (R226-R232, R63, R64): the requests of an operation line by line, the path each
takes by its address, and how a request's answer completes its line. -/

namespace Sys2Proof.Machine

/-! ### Addresses (R63, R227, R236, R366, R385) -/

/-- What a request asks of its target. -/
inductive Want
  | read | write | atomic
  deriving DecidableEq, Repr

/-- Whether a local line or atomic target is rejected: the answer is ADDR_INVALID (R180, R195, R236, R385). -/
def localRejected (s : Stack) (a : Nat) (w : Want) : Bool :=
  match place a with
  | .vault _ _ => false
  | .pantry _ _ => false
  | .control _ => true
  | .nowhere => true
  | .window c o =>
    match windowPart (coreKind c) o with
    | .slice _ => false
    | .rejected => true
    | .imem _ => rowRetired s (coreRow c) || !s.computeOn || decide (w ≠ .read)
    | .scratch o =>
      rowRetired s (coreRow c) || !s.computeOn || decide (w = .atomic)
        || (decide (w = .write) && decide ((s.core c).run ≠ .halted) && inQueueStorage s c (o / 512))

/-- Whether the stack has received go(t) for tick `t`. -/
def goReceived (s : Stack) (t : Nat) : Bool := decide (t < s.tick.goRecv)

/-- The address of an exchange access in tick `t`: the slot offset of R63 added. -/
def exchAddr (s : Stack) (store x : Bool) (t : Nat) (a : Word) : Word :=
  if x then
    let stride := 2 ^ fld (reg s rTckXchg) 0 6
    a + bv 64 ((if store then t % 2 else (t + 1) % 2) * stride)
  else a

/-- The path of a request (Table 7.8). -/
inductive Route
  | slice | column | pantry | router
  | remote (node : Nat)
  | bad (status : Nat)
  deriving DecidableEq, Repr

/-- The path that an address selects for core `c` (R228, R366, R404): `l` says that it is a local address. A core's own scratch, data SRAM and
instruction memory window is reached through the router, as Table 7.8 has every other local address; Table 8.2 says 'Internal' of it
(DESIGN CHOICE, log 110). -/
def routeOf (s : Stack) (c : Nat) (l : Bool) (w : Want) (align : Nat) (a : Word) : Route :=
  let node := fld a 48 16
  let la := fld a 0 48
  if la % align ≠ 0 then .bad stAddrInvalid
  else if l ∧ node ≠ 0 then .bad stAddrInvalid
  else if l ∨ (node = nodeId s ∧ nodeUsable node) then
    if localRejected s la w then .bad stAddrInvalid
    else
      match place la with
      | .vault v _ => if v = c then .column else .router
      | .pantry _ _ => .pantry
      | .window d o => if d = c ∧ o ≥ 0x800000 then .slice else .router
      | _ => .bad stAddrInvalid
  else if !nodeUsable node then .bad stAddrInvalid
  else if nodeLost s node then .bad stNodeLost
  else if (egressLink s node).isNone then .bad stNodeLost
  else .remote node

/-! ### Answers -/

/-- An answer to part of a request: the line read, an acknowledgement, the old value of an atomic (with poison), or an
error status. -/
inductive PartAnswer
  | line (l : Line)
  | ack
  | old (v : Word) (poison : Bool)
  | error (status : Nat)
  deriving DecidableEq, Repr

/-- A result line with the old value of record `j` (R229). -/
def withOld (l : Line) (j : Nat) (v : Word) (poison : Bool) : Line :=
  ⟨l.data ||| (v.setWidth 4096 <<< (256 * j)), if poison then l.marks ||| (1#16 <<< j) else l.marks⟩

/-- A request with one more part answered. Its answer is complete when no part is left; an error stands. -/
def partAnswered (r : CoreReq) (sub : Nat) (p : PartAnswer) : CoreReq :=
  let r := { r with parts := r.parts - 1 }
  let r := match p with
    | .line l => { r with result := l }
    | .old v b => { r with result := withOld r.result sub v b }
    | _ => r
  match r.answer, p with
  | .error _, _ => r
  | _, .error st => { r with answer := .error st }
  | _, _ => if r.parts = 0 then { r with answer := if r.write then .acked else .line r.result } else r

/-- The stack with a part of request `req` of core `c` answered. -/
def answerCore (s : Stack) (c req sub : Nat) (p : PartAnswer) : Stack :=
  s.onCore c (fun k => { k with reqs := k.reqs.map (fun r => if r.id = req then partAnswered r sub p else r) })

/-! ### Issuing (R228-R231) -/

/-- Requests outstanding at most across LD and ST (R228). -/
def maxCoreReqs : Nat := 256

/-- An access for a core's request. -/
def coreAccess (id c req sub addr : Nat) (k : AccessKind) (d : Line) (mask : BitVec 512) : Access :=
  { id := id, origin := .core c req sub, kind := k, addr := addr / 512 * 512, data := d, mask := mask, arrived := 0,
    granted := 0, result := Line.zero, unchecked := false, syn := [], refused := none, done := false }

/-- The stack with an access sent along a local path. A pantry access waits at the engine for its row port. -/
def sendLocal (s : Stack) (c : Nat) (rt : Route) (a : Access) : Stack :=
  match rt with
  | .slice => { s with slices := setListAt s.slices c (listAt s.slices c ++ [a]) }
  | .column =>
    let p := coreSite s c
    let v := s.vault p
    s.setVault p { v with entering := v.entering ++ [a] }
  | .router => { s with entering := s.entering ++ [a] }
  | .pantry => { s with entering := s.entering ++ [a] }
  | _ => s

/-- The words of a line that a mask writes, ascending (R386). -/
def maskedWords (mask : BitVec 512) : List Nat := (List.range 16).filter (fun w => decide (maskWord mask w ≠ 0))

/-- The payload of a WRM for the words `ws`: the line mask cut to them, then the words (R386). -/
def wrmPayload (l : Line) (mask : BitVec 512) (ws : List Nat) : List Byte :=
  let m := (List.range 16).foldl (fun acc w => if w ∈ ws then acc ||| (BitVec.allOnes 32).setWidth 512 <<< (32 * w) else acc) (0#512)
  natBytes 64 (mask &&& m).toNat ++ ws.flatMap (fun w => natBytes 32 (wordOf l.data w).toNat)

/-- Poison of payload words: the marks of the words `ws` in payload order, from payload word `i` on. -/
def payloadPoison (l : Line) (ws : List Nat) (i : Nat) : BitVec 16 :=
  match ws with
  | [] => 0
  | w :: r => (if l.marks.getLsbD w then 1#16 <<< i else 0) ||| payloadPoison l r (i + 1)

/-- The packets of a remote request, with the part each answers (R384-R386). -/
def remotePackets (node la : Nat) (k : AccessKind) (d : Line) (mask : BitVec 512) (sub : Nat) : List (Nat × Packet) :=
  match k with
  | .read => [(0, { ty := .rd, dst := node, addr := la, rlen := 512 })]
  | .atomic t _ o x => [(sub, { ty := .atom, dst := node, addr := la, atype := t, data := natBytes 8 o.toNat ++ natBytes 8 x.toNat })]
  | .rmwElem .. => []
  | .rmwAdds .. => []
  | .row _ => []
  | .write =>
    if mask = fullMask then [(0, { ty := .wr, dst := node, addr := la, poison := d.marks, data := lineBytes d })]
    else
      let ws := maskedWords mask
      let one := fun (ws : List Nat) =>
        ({ ty := .wrm, dst := node, addr := la, poison := payloadPoison d ws 2, data := wrmPayload d mask ws } : Packet)
      if ws.length ≤ 14 then [(0, one ws)]
      else [(0, one (ws.filter (· < 8))), (0, one (ws.filter (· ≥ 8)))]

/-- The stack with a list of packets each given a tag and sent; none when tags run out. -/
def openTxns (now : Nat) (s : Stack) (c req : Nat) : List (Nat × Packet) → Option Stack
  | [] => some s
  | (sub, k) :: r =>
    match openTxn now s ⟨c, req, sub⟩ k with
    | some s => openTxns now s c req r
    | none => none

/-- Whether a refused request to a line of a node awaits its resend (R393). -/
def lineRefused (s : Stack) (node la : Nat) : Bool :=
  s.router.tags.any (fun e => decide (e.2.pkt.dst = node ∧ e.2.pkt.addr / 512 = la / 512) &&
    (match e.2.state with | .refused _ => true | _ => false))

/-- Whether a base non-transit reset holds every new request for a column or for Ivton (R501). -/
def columnsHeld (s : Stack) : Bool := match s.resetting with | some r => decide (r.domain = 2) | none => false

/-- Whether the stack issues no new requester transaction (R441, R501, R505). -/
def remoteHeld (s : Stack) : Bool := columnsHeld s || ((s.quiesce.isSome || s.immediate) && decide (s.tick.phase = .idle))

/-- Whether a route is held. -/
def routeHeld (s : Stack) (rt : Route) : Bool :=
  match rt with
  | .remote _ => remoteHeld s
  | .column => columnsHeld s
  | .router => columnsHeld s
  | _ => false

/-- One access of request `req` sent on its route (R228). None: it waits for a tag, or for the resend of a refused
request to its line (R393). -/
def sendAccess (now : Nat) (s : Stack) (c req sub : Nat) (rt : Route) (la : Nat) (k : AccessKind) (d : Line)
    (mask : BitVec 512) : Option Stack :=
  if routeHeld s rt then none
  else match rt with
  | .bad st => some (answerCore s c req sub (.error st))
  | .remote node => if lineRefused s node la then none else openTxns now s c req (remotePackets node la k d mask sub)
  | rt => some { sendLocal s c rt (coreAccess s.nextId c req sub la k d mask) with nextId := s.nextId + 1 }

/-- A new request of a core. -/
def newReq (id : Nat) (e : Engine) (x : QEntry) (addr : Nat) (write : Bool) (d : Line) (mask : BitVec 512) (parts : Nat) :
    CoreReq :=
  { id := id, e := e, uid := x.uid, i := x.prog.i, node := none, addr := addr, write := write, data := d, mask := mask,
    parts := parts, arrived := false, result := Line.zero, answer := .waiting }

/-- The stack with a request added to a core. -/
def addReq (s : Stack) (c : Nat) (r : CoreReq) : Stack :=
  { s.onCore c (fun k => { k with reqs := k.reqs ++ [r] }) with nextId := s.nextId + 1 }

/-- Packets that a request needs: two for a masked remote store of 15 or 16 words. -/
def partsOf (rt : Route) (k : AccessKind) (d : Line) (mask : BitVec 512) : Nat :=
  match rt with
  | .remote node => (remotePackets node 0 k d mask 0).length
  | _ => 1

/-- Whether the DATA and ADDR ends of an operation pop one queue. -/
def sharedPop (d a : EndSpec) : Bool :=
  match d, a with
  | .pop q, .pop r => decide (q = r)
  | _, _ => false

/-- Address line `j` read through an ADDR end (R176, R227). Of a POP end the line stays at the head until its last address is used, but where
the DATA end pops the same queue it is popped as it is read, since two POP ends never read one line (DEDUCED, log 90). -/
def addressLine (s : Stack) (c : Nat) (d a : EndSpec) (j : Nat) : Try Line :=
  match a with
  | .pop q => if sharedPop d a then readEnd s c a j else if dqReady s c q.val 0 then .go (dqPeek s c q.val 0) s else .wait 1 q.val
  | a => readEnd s c a j

/-- The address that line `i` of an operation uses: element i mod 64 of the address line it holds (R227). -/
def addressAt (x : QEntry) : Word × Bool :=
  let e := x.prog.buf.getD (x.prog.i % 64) (0, false)
  (bv 64 e.1, e.2)

/-- The operation with an address line read. -/
def holdAddresses (x : QEntry) (l : Line) : QEntry :=
  { x with prog := { x.prog with buf := (line64 l).map (fun e => (e.1.toNat, e.2)) } }

/-- The stack and operation once address `i` of `n` has been used: after the 64th address of a line, or the operation's last, the line is gone
(R227). -/
def addressUsed (s : Stack) (c : Nat) (d a : EndSpec) (i n : Nat) (x : QEntry) : Act :=
  if i % 64 = 63 ∨ i + 1 = n then
    .go (match a with | .pop q => if sharedPop d a then s else dqDrop s c q.val | _ => s) { x with prog := { x.prog with buf := [] } }
  else .go s x

/-- The landing line reserved for a load (R177), or a wait for room. -/
def reserveLanding (s : Stack) (c : Nat) (e : EndSpec) (uid i : Nat) : Try Unit :=
  match e with
  | .push q => if dqRoom s c q.val then .go () (dqAppend s c q.val (.held uid i)) else .wait 2 q.val
  | _ => .go () s

/-- A line landed through a load's DATA end. -/
def landLine (s : Stack) (c : Nat) (e : EndSpec) (uid i : Nat) (l : Line) : Stack :=
  match e with
  | .push q => dqLand s c q.val uid i l
  | .line x => setScratch s c (x.val + i) l
  | _ => s

/-- The DATA end of a load, and whether the operation is a store. -/
def ldstData (o : CoreOp) : EndSpec :=
  match o with
  | .ldl o => o.data | .ldx o => o.data | .atom o => o.data | .stl o => o.data | .stx o => o.data
  | _ => .none

/-- The number of lines of an LD or ST operation. -/
def ldstN (o : CoreOp) : Nat :=
  match o with
  | .ldl o => o.n.toNat + 1 | .ldx o => o.n.toNat + 1 | .atom o => o.n.toNat + 1 | .stl o => o.n.toNat + 1
  | .stx o => o.n.toNat + 1
  | _ => 0

/-- Whether an operation carries the exchange bit (R63). -/
def ldstX (o : CoreOp) : Bool :=
  match o with
  | .ldl o => o.x | .ldx o => o.x | .atom o => o.x | .stl o => o.x | .stx o => o.x
  | _ => false

/-- Whether a request of engine `e` still waits to enter its row port (R163: the engine waits with it). -/
def portWaiting (k : Core) (e : Engine) : Bool := k.reqs.any (fun r => decide (r.e = e) && !r.arrived &&
  decide (r.answer = .waiting) && (match place r.addr with | .pantry _ _ => r.node.isNone | _ => false))

/-- A load of one line issued: landing reserved, the request made and sent. -/
def issueLoad (now : Nat) (s : Stack) (c : Nat) (x : QEntry) (data : EndSpec) (l : Bool) (a : Word) (bad : Bool) : Act :=
  match reserveLanding s c data x.uid x.prog.i with
  | .wait k o => .wait k o
  | .go _ s =>
    let nx := { x with prog := { x.prog with i := x.prog.i + 1 } }
    if bad then
      -- a poisoned address bites; the line lands as zeros, every word poisoned (R231)
      let s := biteCore s c .ld (qposOf (s.core c).ld x.uid) biteAddress
      .go (landLine s c data x.uid x.prog.i Line.lost) { nx with prog := { nx.prog with fin := nx.prog.fin + 1 } }
    else
      let rt := routeOf s c l .read 512 a
      let id := s.nextId
      let r := newReq id .ld x (fld a 0 48) false Line.zero 0 1
      let r := match rt with | .remote n => { r with node := some n } | _ => r
      match sendAccess now (addReq s c r) c id 0 rt (fld a 0 48) .read Line.zero 0 with
      | some s => .go s nx
      | none => .wait 3 0

/-- A store of one line issued. -/
def issueStore (now : Nat) (s : Stack) (c : Nat) (x : QEntry) (l : Bool) (a : Word) (d : Line) (mask : BitVec 512) : Act :=
  let nx := { x with prog := { x.prog with i := x.prog.i + 1, got := [] } }
  if mask = 0 then .go s { nx with prog := { nx.prog with fin := nx.prog.fin + 1 } }
  else
    let rt := routeOf s c l .write 512 a
    let id := s.nextId
    let r := newReq id .st x (fld a 0 48) true d mask (partsOf rt .write d mask)
    let r := match rt with | .remote n => { r with node := some n } | _ => r
    match sendAccess now (addReq s c r) c id 0 rt (fld a 0 48) .write d mask with
    | some s => .go s nx
    | none => .wait 3 0

/-- The atomics of one request line, record by record from `j` on: a poisoned record bites and makes no access, its
result record zeros, poisoned (R229, R231). -/
def issueRecords (now : Nat) (c id : Nat) (x : QEntry) (aty : Nat) (l : Bool) (base : Word) (rl : Line) :
    Nat → Nat → Stack → Option Stack
  | 0, _, s => some s
  | n + 1, j, s =>
    let w := fun (i : Nat) => ((rl.data >>> (256 * j + 64 * i)).setWidth 64 : Word)
    if rl.marks.getLsbD j then
      let s := biteCore s c .ld (qposOf (s.core c).ld x.uid) biteAddress
      issueRecords now c id x aty l base rl n (j + 1) (answerCore s c id j (.old 0 true))
    else
      let a := base + w 0
      let rt := routeOf s c l .atomic 8 a
      let k := AccessKind.atomic aty (fld a 0 48 % 512) (w 1) (w 2)
      match sendAccess now s c id j rt (fld a 0 48) k Line.zero 0 with
      | some s => issueRecords now c id x aty l base rl n (j + 1) s
      | none => none

/-- The atomics of a request line, issued together, with as many tags or slots as they need; the line counts as one of the 256 requests of R228,
which does not say whether it counts as one or as its sixteen atomics (DESIGN CHOICE, log 109). -/
def issueAtomics (now : Nat) (s : Stack) (c : Nat) (x : QEntry) (o : AtomOp) (rl : Line) : Act :=
  match reserveLanding s c o.data x.uid x.prog.i with
  | .wait k ob => .wait k ob
  | .go _ s =>
    let id := s.nextId
    let base := exchAddr s false o.x x.tick o.base
    match issueRecords now c id x o.atype.toNat o.l base rl 16 0 (addReq s c (newReq id .ld x 0 false Line.zero 0 16)) with
    | some s => .go s { x with prog := { x.prog with i := x.prog.i + 1, got := [] } }
    | none => .wait 3 0

/-- The MC_WR packets of a line: one for a whole line; of a line with a byte mask, which the manual gives no packet of its own, one or two whose
payload has the form of WRM (R230, R386; DESIGN CHOICE, log 96). -/
def mcPackets (src g la : Nat) (d : Line) (mask : BitVec 512) : List Packet :=
  if mask = fullMask then [{ ty := .mcWr, src := src, dst := g, addr := la, poison := d.marks, data := lineBytes d, hops := 64 }]
  else (remotePackets g la .write d mask 0).map (fun e => { e.2 with ty := .mcWr, src := src, masked := true, hops := 64 })

/-- The multicast runs of a list of packets opened at the source, and each packet replicated by `mc`; none when tags run out. -/
def openMcs (now : Nat) (mc : Nat → Stack → Packet → Stack) (c id members : Nat) : List Packet → Stack → Option Stack
  | [], s => some s
  | k :: r, s =>
    match freeTag s.router.tags 0 maxTags with
    | none => none
    | some t =>
      let k := { k with tag := t }
      let run : McRun := { core := c, req := id, tag := t, group := k.dst, members := members, covered := 0, missing := 0, sentAt := now }
      openMcs now mc c id members r (mc now { s with nextId := s.nextId + 1, router := { s.router with
        mcs := s.router.mcs ++ [run]
        tags := tput s.router.tags t { for_ := ⟨c, id, 0⟩, pkt := k, link := 8, sentAt := now, state := .open_, order := s.nextId } } } k)

/-- The multicast of one line (R230, R395, R398): a run opened at the source for each packet and its copies replicated by `mc` on the
group's egress links; a misaligned address is answered with an error and sends nothing (R232). -/
def issueMulticast (now : Nat) (mc : Nat → Stack → Packet → Stack) (s : Stack) (c : Nat) (x : QEntry) (a : Word) (d : Line) (mask : BitVec 512) : Act :=
  let g := fld a 48 12
  let la := fld a 0 48
  let id := s.nextId
  let nx := { x with prog := { x.prog with i := x.prog.i + 1, got := [] } }
  let ks := mcPackets (nodeId s) g la d mask
  if mask = 0 then .go s { nx with prog := { nx.prog with fin := nx.prog.fin + 1 } }
  else if la % 512 ≠ 0 then
    .go (answerCore (addReq s c (newReq id .st x la true d mask 1)) c id 0 (.error stAddrInvalid)) nx
  else if remoteHeld s then .wait 3 0
  else
    match openMcs now mc c id (fld (reg s (rIvtMcgrpB g)) 15 9) ks
        (addReq s c { newReq id .st x la true d mask ks.length with node := some 0x10000 }) with
    | some s => .go s nx
    | none => .wait 3 0

/-- One act of an LD or ST engine: the next operand line read, the next line request issued, or the wait that holds it (R176, R228). The engine waits at
256 outstanding requests and while a request of its waits at the row port. -/
def ldstAct (now : Nat) (mc : Nat → Stack → Packet → Stack) (s : Stack) (c : Nat) (e : Engine) (op : CoreOp) (x : QEntry) : Act :=
  let k := s.core c
  let n := ldstN op
  let i := x.prog.i
  if i ≥ n then (if x.prog.fin ≥ n then .done else .wait 3 0)
  else if k.reqs.length ≥ maxCoreReqs ∨ portWaiting k e then .wait 3 0
  else
    match op with
    | .ldl o =>
      let a := exchAddr s false o.x x.tick (o.addr + bv 64 (i * o.stride.toNat * 512))
      issueLoad now s c x o.data o.l a false
    | .ldx o =>
      if x.prog.buf = [] then
        match addressLine s c o.data o.addr (i / 64) with
        | .wait kd ob => .wait kd ob
        | .go l s => .go s (holdAddresses x l)
      else
        let (v, bad) := addressAt x
        match issueLoad now s c x o.data o.l (exchAddr s false o.x x.tick (o.base + v)) bad with
        | .go s x => addressUsed s c o.data o.addr i n x
        | r => r
    | .atom o =>
      match x.prog.got with
      | [] =>
        match readEnd s c o.addr i with
        | .wait kd ob => .wait kd ob
        | .go l s => .go s { x with prog := { x.prog with got := [l] } }
      | l :: _ => issueAtomics now s c x o l
    | .stl o =>
      let reads := [o.data] ++ (if o.mask = .none then [] else [o.mask])
      match reads[x.prog.got.length]? with
      | some en =>
        match readEnd s c en i with
        | .wait kd ob => .wait kd ob
        | .go l s => .go s { x with prog := { x.prog with got := x.prog.got ++ [l] } }
      | none =>
        let d := x.prog.got.getD 0 Line.zero
        let a := exchAddr s true o.x x.tick (o.addr + bv 64 (i * 512))
        if o.mask ≠ .none ∧ (x.prog.got.getD 1 Line.zero).marks &&& 3#16 ≠ 0 then
          -- a poisoned mask word bites; nothing is stored for that line (R231)
          let s := biteCore s c .st (qposOf (s.core c).st x.uid) biteAddress
          .go s { x with prog := { x.prog with i := i + 1, got := [], fin := x.prog.fin + 1 } }
        else
          let mask := if o.mask = .none then fullMask else (x.prog.got.getD 1 Line.zero).data.setWidth 512
          if o.mc then issueMulticast now mc s c x a d mask else issueStore now s c x o.l a d mask
    | .stx o =>
      match x.prog.got with
      | [] =>
        match readEnd s c o.data i with
        | .wait kd ob => .wait kd ob
        | .go l s => .go s { x with prog := { x.prog with got := [l] } }
      | l :: _ =>
        if x.prog.buf = [] then
          match addressLine s c o.data o.addr (i / 64) with
          | .wait kd ob => .wait kd ob
          | .go l s => .go s (holdAddresses x l)
        else
          let (v, bad) := addressAt x
          if bad then
            let s := biteCore s c .st (qposOf (s.core c).st x.uid) biteAddress
            addressUsed s c o.data o.addr i n { x with prog := { x.prog with i := i + 1, got := [], fin := x.prog.fin + 1 } }
          else
            match issueStore now s c x o.l (exchAddr s true o.x x.tick (o.base + v)) l fullMask with
            | .go s x => addressUsed s c o.data o.addr i n x
            | r => r
    | _ => .done

/-! ### Completing a line (R228, R232) -/

/-- The stack with request `req` of core `c` gone and its line counted as completed in its operation. -/
def finishReq (s : Stack) (c : Nat) (r : CoreReq) : Stack :=
  s.onCore c (fun k =>
    let k := { k with reqs := k.reqs.filter (fun q => decide (q.id ≠ r.id)) }
    k.setQueue r.e ((k.queue r.e).map (fun x => if x.uid = r.uid then { x with prog := { x.prog with fin := x.prog.fin + 1 } } else x)))

/-- The operation that a request belongs to. -/
def reqOp (s : Stack) (c : Nat) (r : CoreReq) : Option CoreOp := (findEntry ((s.core c).queue r.e) r.uid).bind (fun x => x.op)

/-- The request numbered `req` of core `c`. -/
def findReq (s : Stack) (c req : Nat) : Option CoreReq := (s.core c).reqs.find? (fun r => r.id = req)

end Sys2Proof.Machine
end

