-- ==== Sys2Proof/Machine/Respond.lean ====
section
/-! DEFINITION. The responder side of the router (R367, R385-R387, R391-R394) and multicast (R395-R398): requests
accepted, started in the order that FENCE asks for, performed as accesses of the stack and answered; copies replicated
on a group's links, and the members of a multicast covered. -/

namespace Sys2Proof.Machine

/-! ### Failing transactions (R232, R389, R390) -/

/-- A requester transaction completed with an error status; its tag is free. One that a timeout has completed stays as it is. -/
def failTxn (s : Stack) (tag status : Nat) : Stack :=
  match tfind s.router.tags tag with
  | none => s
  | some x =>
    match x.state with
    | .timedOut _ => s
    | _ =>
      let s := { s with router := { s.router with tags := tdel s.router.tags tag } }
      answerCore s x.for_.core x.for_.req x.for_.sub (.error status)

/-- Every transaction that satisfies `p` failed. Multicasts complete through their members (R398). -/
def failTxns (s : Stack) (status : Nat) (p : Txn → Bool) : Stack :=
  (s.router.tags.filter (fun e => p e.2 && decide (e.2.pkt.ty ≠ .mcWr))).foldl (fun s e => failTxn s e.1 status) s

/-! ### Multicast at its source (R398, R414) -/

/-- The members `lo` to `hi` as a set. -/
def memberRange (lo hi : Nat) : BitVec 256 := if hi < lo then 0 else ((1#256 <<< (hi - lo + 1)) - 1#256) <<< lo

/-- The members 0 to n − 1. -/
def memberAll (n : Nat) : BitVec 256 := if n = 0 then 0 else memberRange 0 (n - 1)

/-- How many bits of a set are 1. -/
def countBits (x : BitVec 256) : Nat := (List.range 256).countP (fun i => x.getLsbD i)

/-- The tick of a record: 0 when no job runs (Table 12.19). -/
def recordTick (s : Stack) : Nat := if jobRuns s then tickOf s % 65536 else 0

/-- The stack with IVT_MC_LOG and IVT_MC_MISSn filled while VALID is 0 (R414). -/
def fillMcLog (s : Stack) (log : Word) (missing : BitVec 256) : Stack :=
  if fld (reg s rIvtMcLog) 63 1 = 1 then s
  else (List.range 4).foldl (fun s n => setReg s (rIvtMcMiss n) ((missing >>> (64 * n)).setWidth 64)) (setReg s rIvtMcLog log)

/-- The completion of a multicast whose members are all covered: its request is acknowledged, its tag freed; a PARTIAL
one is logged and remembered by its operation (R230, R398). -/
def mcComplete (s : Stack) (m : McRun) : Stack :=
  let s := { s with router := { s.router with mcs := s.router.mcs.filter (fun x => decide (x.tag ≠ m.tag)),
                                              tags := tdel s.router.tags m.tag } }
  let s := if m.missing = 0 then s
    else
      let log := bv 64 (2 ^ 63 + recordTick s * 2 ^ 32 + m.group * 2 ^ 9 + countBits m.missing)
      let s := fillMcLog s log m.missing
      match findReq s m.core m.req with
      | none => s
      | some r => s.onCore m.core (fun k => k.setQueue r.e ((k.queue r.e).map (fun x =>
          if x.uid = r.uid ∧ x.prog.missed = 0 then { x with prog := { x.prog with missed := m.missing, report := log } } else x)))
  answerCore s m.core m.req 0 .ack

/-- Members `lo` to `hi` of the multicast of a tag covered, as missing or not. -/
def mcCover (s : Stack) (tag lo hi : Nat) (missing : Bool) : Stack :=
  match s.router.mcs.find? (fun m => m.tag = tag) with
  | none => s
  | some m =>
    let r := memberRange lo hi &&& memberAll m.members
    let new := r &&& ~~~m.covered
    let m := { m with covered := m.covered ||| r, missing := if missing then m.missing ||| new else m.missing }
    if m.covered = memberAll m.members then mcComplete s m
    else { s with router := { s.router with mcs := s.router.mcs.map (fun x => if x.tag = tag then m else x) } }

/-- The multicast of a tag completed where every member is covered already, as with no members at all (log 39). -/
def mcSettle (s : Stack) (tag : Nat) : Stack := mcCover s tag 1 0 false

/-- A copy dropped from a branch: MC_DROP for the branch's range to the copy's source, which is covered at once when it
is the stack itself (R396). -/
def mcDropTo (now : Nat) (s : Stack) (k : Packet) (lo hi : Nat) : Stack :=
  if k.src = nodeId s then mcCover s k.tag lo hi true
  else (txPacket now s { ty := .mcDrop, tag := k.tag, src := nodeId s, dst := k.src, mlo := lo, mhi := hi }).2

/-! ### Responder transactions (R391-R394) -/

/-- Responder transactions and source entries at most (R391, R394); multicast copies held by a member (R397). -/
def maxRsps : Nat := 16384
def maxSources : Nat := 4096
def maxCopies : Nat := 64

/-- Requests in progress from a source, and the sources with requests in progress. -/
def rspsFrom (s : Stack) (src : Nat) : Nat := (s.router.rsps.filter (fun r => !r.multicast && decide (r.pkt.src = src))).length
def sources (s : Stack) : List Nat := ((s.router.rsps.filter (fun r => !r.multicast)).map (fun r => r.pkt.src)).eraseDups

/-- The byte mask within a line that a request of a packet writes. -/
def packetMask (k : Packet) : BitVec 512 :=
  if k.ty = .wrm ∨ k.masked then bv 512 (bytesNat (k.data.take 64)) else spanMask (k.addr % 512) k.data.length

/-- The line data and marks that a WR or MC_WR of any 8-byte span writes: a line word takes the mark of every payload
word that has bytes in it. -/
def packetWriteLine (k : Packet) : Line :=
  let o := k.addr % 512
  ⟨bv 4096 (bytesNat k.data * 256 ^ o),
   joinMarks (fun w => (List.range 16).any (fun p =>
     k.poison.getLsbD p && decide (32 * p < k.data.length) && decide (o + 32 * p < 32 * w + 32)
       && decide (32 * w < o + 32 * p + min 32 (k.data.length - 32 * p))))⟩

/-- The line data and marks of a WRM: its words placed at the words its mask touches, ascending (R386); payload word
i + 2 is the i-th word. -/
def packetWrmLine (k : Packet) : Line :=
  let ws := maskedWords (packetMask k)
  let body := k.data.drop 64
  let word := fun w => ws.findIdx (fun x => x = w)
  ⟨joinWords (fun w => if w ∈ ws then bv 256 (bytesNat ((body.drop (32 * word w)).take 32)) else 0),
   joinMarks (fun w => decide (w ∈ ws) && k.poison.getLsbD (2 + word w))⟩

/-- What the access of a request does to its line. -/
def packetKind (k : Packet) : AccessKind :=
  match k.ty with
  | .rd => .read
  | .atom => .atomic k.atype (k.addr % 512) (word64At k.data 0) (word64At k.data 8)
  | _ => .write

/-- The access of a responder transaction. -/
def packetAccess (id : Nat) (r : Rsp) : Access :=
  let k := r.pkt
  { id := id, origin := .packet r.id, kind := packetKind k, addr := k.addr / 512 * 512,
    data := (match k.ty with
      | .wrm => packetWrmLine k | .rd => Line.zero | .atom => Line.zero | _ => if k.masked then packetWrmLine k else packetWriteLine k),
    mask := (match k.ty with | .rd => 0 | .atom => spanMask (k.addr % 512) 8 | _ => packetMask k),
    arrived := 0, granted := 0, result := Line.zero, unchecked := false, syn := [], refused := none, done := false }

/-- Whether FENCE lets a transaction start: a FENCE request after every earlier one of its source, every other request
after every earlier FENCE request of its source (R392). -/
def fenceLets (rs : List Rsp) (r : Rsp) : Bool :=
  r.multicast || rs.all (fun x => decide (x.id ≥ r.id) || x.multicast || x.performed || decide (x.pkt.src ≠ r.pkt.src)
    || !(r.pkt.fence || x.pkt.fence))

/-- The stack with every transaction started that may start: its access enters the router. In an idle state, and until the exit from it is complete,
requests wait in their queue (R461). -/
def startRsps (s : Stack) : Stack :=
  if s.power.idle ≠ 0 then s
  else s.router.rsps.foldl (fun s r =>
    if r.started || !fenceLets s.router.rsps r then s
    else
      { s with
        nextId := s.nextId + 1
        entering := s.entering ++ [packetAccess s.nextId r]
        router := { s.router with rsps := s.router.rsps.map (fun x => if x.id = r.id then { x with started := true } else x) } }) s

/-- The stack with a request accepted as a responder transaction. -/
def openRsp (s : Stack) (k : Packet) (l : Nat) (multicast : Bool) : Stack :=
  let r : Rsp := { id := s.nextId, pkt := k, link := l, started := false, multicast := multicast, performed := false, discard := false }
  startRsps { s with nextId := s.nextId + 1, router := { s.router with rsps := s.router.rsps ++ [r] } }

/-- The payload words of a read response that are poisoned: any of whose bytes comes from a poisoned word (R387). -/
def payloadMarks (l : Line) (o n : Nat) : BitVec 16 :=
  joinMarks (fun p => decide (32 * p < n) && (List.range 32).any (fun i =>
    decide (32 * p + i < n) && l.marks.getLsbD ((o + 32 * p + i) / 32)))

/-- The response of transaction `id` sent to the source of its request, which is in progress until then (R391); a response that carries a poisoned
word out of the stack bites (R294). -/
def sendRsp (now : Nat) (s : Stack) (id : Nat) (k : Packet) : Stack :=
  let s := if k.poison ≠ 0 then biteUnit s haRouter biteEgress else s
  (txWaiting now s ⟨k, 8, some id⟩).2

/-- The response to a request, from its access. -/
def rspPacket (s : Stack) (r : Rsp) (a : Access) : Packet :=
  let k := r.pkt
  let base : Packet := { ty := .wrAck, tag := k.tag, src := nodeId s, dst := k.src, addr := k.addr }
  match k.ty with
  | .rd =>
    let o := k.addr % 512
    let m := payloadMarks a.result o k.rlen
    { base with ty := .rdRsp, unchecked := a.unchecked, poison := m, status := if m = 0 then stOk else stPoisoned,
                data := ((lineBytes a.result).drop o).take k.rlen }
  | .atom =>
    let o := k.addr % 512
    let bad := a.result.marks.getLsbD (o / 32)
    { base with ty := .atomRsp, unchecked := a.unchecked, poison := if bad then 1 else 0, status := if bad then stPoisoned else stOk,
                data := ((lineBytes a.result).drop o).take 8 }
  | _ => base

/-- An error response to a request. -/
def errPacket (s : Stack) (k : Packet) (status backoff : Nat) : Packet :=
  { ty := .errRsp, tag := k.tag, src := nodeId s, dst := k.src, addr := k.addr, status := status, backoff := backoff }

/-- A multicast member's answer to the source (R397): covered at once when the source is the stack itself. -/
def mcAnswer (now : Nat) (s : Stack) (k : Packet) (status : Nat) : Stack :=
  let ix := fld (reg s (rIvtMcgrpB k.dst)) 24 8
  if k.src = nodeId s then mcCover s k.tag ix ix (decide (status ≠ stOk))
  else (txPacket now s { ty := .mcAck, tag := k.tag, src := nodeId s, dst := k.src, status := status, mlo := ix }).2

/-- The stack with a transaction performed, its response still to be sent. -/
def markPerformed (s : Stack) (id : Nat) : Stack :=
  { s with router := { s.router with rsps := s.router.rsps.map (fun x => if x.id = id then { x with performed := true } else x) } }

/-- A responder transaction over: a multicast copy is acknowledged with its status, the response to a request is sent; one whose source is lost
sends nothing (R404). Those it held back start. -/
def endRsp (now : Nat) (s : Stack) (r : Rsp) (status : Nat) (rsp : Packet) : Stack :=
  startRsps (if r.discard then closeRsp s r.id
    else if r.multicast then mcAnswer now (closeRsp s r.id) r.pkt status
    else sendRsp now (markPerformed s r.id) r.id rsp)

/-- An access of a responder transaction done: answered, and those it held back started. -/
def answerPacket (now : Nat) (s : Stack) (id : Nat) (a : Access) : Stack :=
  match s.router.rsps.find? (fun r => r.id = id) with
  | none => s
  | some r => endRsp now s r stOk (rspPacket s r a)

/-- The back-off in cycles of a refusal of `b` units of 8 ns. -/
def backoffCycles (b : Nat) : Nat := b * cycles8ns

/-- A refusal's back-off remembered for its source: the later end of those in force (R393). -/
def noteBackoff (now : Nat) (s : Stack) (src b : Nat) : Stack :=
  let old := s.router.backoff.filter (fun e => decide (e.1 ≠ src ∧ now < e.2))
  let mine := (s.router.backoff.filter (fun e => e.1 = src)).foldl (fun m e => max m e.2) (now + backoffCycles b)
  { s with router := { s.router with backoff := old ++ [(src, mine)] } }

/-- A responder transaction refused or failed with a status. -/
def refusePacket (now : Nat) (s : Stack) (id status backoff : Nat) : Stack :=
  match s.router.rsps.find? (fun r => r.id = id) with
  | none => s
  | some r =>
    let s := if status = stRetryLater ∧ !r.multicast then noteBackoff now s r.pkt.src backoff else s
    endRsp now s r status (errPacket s r.pkt status backoff)

/-- The back-off of a destination-credit refusal (R394). -/
def creditBackoff (s : Stack) : Nat := min 0xFFFF (fld (reg s rIvtCredit) 32 16 * (sources s).length)

/-! ### Replication (R395-R397) -/

/-- The bridges of a stack in N, E, S, W order. -/
def bridgeLinks (s : Stack) : List Nat := ([4, 5, 6, 7] : List Nat).filter (fun l => (acrossBridge (stackIndex s) l).isSome)

/-- The egress links of a group with the range of members behind each (Table 12.20). -/
def groupEgress (s : Stack) (g : Nat) : List (Nat × Nat × Nat) :=
  let a := reg s (rIvtMcgrpA g)
  let b := reg s (rIvtMcgrpB g)
  let range := fun (w : Word) (lo : Nat) => (fld w lo 8, fld w (lo + 8) 8)
  let ports := (List.range 4).filterMap (fun i =>
    if fld b i 1 = 1 then some (i, (range a (16 * i)).2, (range a (16 * i)).1) else none)
  let bridges := (List.range 2).filterMap (fun i =>
    match (bridgeLinks s)[i]? with
    | some l =>
      let r := range b (if i = 0 then 48 else 32)
      if fld b (4 + i) 1 = 1 then some (l, r.2, r.1) else none
    | none => none)
  ports ++ bridges

/-- Copies that a branch queue holds at most (R396). -/
def branchSize : Nat := 32

/-- A copy put into the branch queue of a link, or dropped: the queue is full, the link is down, where the copy counts as discarded at it (R369), or
the node across the link is lost (R396, R404). -/
def mcBranch (now : Nat) (s : Stack) (k : Packet) (l lo hi : Nat) : Stack :=
  let x := s.link l
  if !linkUp s l then mcDropTo now (discardPacket s (.link l)) k lo hi
  else if branchSize ≤ x.branch.length ∨ (partnerOf s l).any (nodeLost s) then mcDropTo now s k lo hi
  else drainLink now (s.setLink l { x with branch := x.branch ++ [(k, now)] }) l

/-- Every copy that waits in the branch queue of a link dropped (R396, R404). -/
def dropBranch (now : Nat) (s : Stack) (l : Nat) (down : Bool) (bs : List (Packet × Nat)) : Stack :=
  bs.foldl (fun s b =>
    let s := if down then discardPacket s (.link l) else s
    match (groupEgress s b.1.dst).find? (fun e => e.1 = l) with
    | some e => mcDropTo now s b.1 e.2.1 e.2.2
    | none => s) s

/-- Whether the stack is a member of group `g`. -/
def groupLocal (s : Stack) (g : Nat) : Bool := decide (fld (reg s (rIvtMcgrpB g)) 6 1 = 1)

/-- A copy replicated onto the group's links but the one it arrived on, with HOPS lowered at a router that is not its source; one whose HOPS is 0
goes no further (R370). -/
def mcForward (now : Nat) (s : Stack) (k : Packet) (arrived : Nat) : Stack :=
  let out := (groupEgress s k.dst).filter (fun e => decide (e.1 ≠ arrived))
  if arrived < 8 ∧ k.hops = 0 then
    if out = [] then s else raise (setReg s rIvtHopsCnt (addSat (reg s rIvtHopsCnt) 0 32 1)) { source := fIvtHops, addr := haRouter }
  else
    let c := if arrived < 8 then { k with hops := k.hops - 1 } else k
    out.foldl (fun s e => mcBranch now s c e.1 e.2.1 e.2.2) s

/-- A copy replicated onto the group's links, and written locally at a member; a local write of a rejected address is answered with its status at
once (R397). -/
def mcReplicate (now : Nat) (s : Stack) (k : Packet) (arrived : Nat) : Stack :=
  let s := mcForward now s k arrived
  if groupLocal s k.dst then
    let bad := decide (k.addr % 8 ≠ 0) || (!k.masked && decide (k.addr % 512 + k.data.length > 512)) || decide (k.data.length = 0)
      || localRejected s (k.addr) .write
    if bad then mcAnswer now s k stAddrInvalid else openRsp s k arrived true
  else s

end Sys2Proof.Machine
end

