-- ==== Sys2Proof/Machine/Sx.lean ====
section
/-! DEFINITION. The SX engine (R147, R149, R179, R224, R225): 64-bit scalars popped, computed and pushed, and the KV
command records that an S-core sends to its row's agent. -/

namespace Sys2Proof.Machine

/-- FP32 to INT64: round-to-nearest-even, saturating, NaN to 0 (Table 7.6, CVTI). -/
def f32ToInt64 (x : BitVec 32) : Word := bv 64 (toInt 64 .rne (f32Val x))

/-- INT64 to FP32, round-to-nearest-even (CVTF). -/
def int64ToF32 (x : Word) : BitVec 32 := f32Round (.num (dyOfInt x.toInt))

/-- 1 or 0. -/
def boolWord (b : Bool) : Word := if b then 1#64 else 0#64

/-- What an SX operation computes from A, B, C and the immediate (Table 7.6). -/
def sxResult (k : SxK) (imm : BitVec 32) (a b c : Word) : Word :=
  let f := fun (x : Word) => x.setWidth 32
  match k with
  | .add => a + b
  | .sub => a - b
  | .mul => a * b
  | .and => a &&& b
  | .or => a ||| b
  | .xor => a ^^^ b
  | .shl => a <<< (b.toNat % 64)
  | .shr => a >>> (b.toNat % 64)
  | .sra => a.sshiftRight (b.toNat % 64)
  | .sel => if c ≠ 0 then a else b
  | .mov => a
  | .lui => imm.setWidth 64 <<< 32
  | .min => if a.toInt < b.toInt then a else b
  | .max => if a.toInt < b.toInt then b else a
  | .cmpeq => boolWord (decide (a = b))
  | .cmpne => boolWord (decide (a ≠ b))
  | .cmplt => boolWord (decide (a.toInt < b.toInt))
  | .cmple => boolWord (decide (a.toInt ≤ b.toInt))
  | .cmpltu => boolWord (decide (a.toNat < b.toNat))
  | .cmpleu => boolWord (decide (a.toNat ≤ b.toNat))
  | .fadd => (f32Add (f a) (f b)).setWidth 64
  | .fmul => (f32Mul (f a) (f b)).setWidth 64
  | .ffma => (f32Fma (f a) (f b) (f c)).setWidth 64
  | .cvtf => (int64ToF32 a).setWidth 64
  | .cvti => f32ToInt64 (f a)
  | .kvcmd => a

/-- The operands an SX operation reads, in order. -/
def sxReads (k : SxK) (o : SxOp) : List EndSpec :=
  match k with
  | .lui => []
  | .mov | .cvtf | .cvti => [o.a]
  | .sel | .ffma => [o.a, o.b, o.c]
  | .kvcmd => List.replicate 8 o.a
  | _ => [o.a, o.b]

/-- Entries a row's KV command queue holds at most (R149). -/
def kvQueueSize : Nat := 8

/-- The record that eight scalars make (R225). -/
def kvRecord (xs : List (Word × Bool)) : List Byte := xs.flatMap (fun x => natBytes 8 x.1.toNat)

/-- The stack with a KV command record in a row's queue. -/
def pushKv (s : Stack) (r : Nat) (rec : List Byte) : Stack :=
  let x := s.row r
  s.setRow r { x with kvq := x.kvq ++ [rec] }

/-- One act of the SX engine on its started operation: read the next scalar, or compute and push (R178, R224). KVCMD
sends its record, waits while the command queue is full (KIND 2, OBJECT 0xFF), or bites on poison and sends nothing. -/
def sxAct (s : Stack) (c : Nat) (k : SxK) (o : SxOp) (x : QEntry) : Act :=
  let p := x.prog
  let ended := fun (s : Stack) => if o.les then (sxReads k o).foldl (fun s e => endHead s c e) s else s
  if p.i = 1 then .done
  else
    match (sxReads k o)[p.scal.length]? with
    | some e =>
      match readScalar s c e o.imm with
      | .go v s => .go s { x with prog := { p with scal := p.scal ++ [v] } }
      | .wait kd ob => .wait kd ob
    | none =>
      let fin := { x with prog := { p with i := 1 } }
      if k = .kvcmd then
        if p.scal.any (fun v => v.2) then .go (biteCore (ended s) c .sx (qposOf (s.core c).sx x.uid) biteControl) fin
        else if (s.row (coreRow c)).kvq.length < kvQueueSize then .go (pushKv (ended s) (coreRow c) (kvRecord p.scal)) fin
        else .wait 2 0xFF
      else
        let g := fun (i : Nat) => (p.scal.getD i (0, false)).1
        let v := sxResult k o.imm (g 0) (g 1) (g 2)
        match o.d with
        | .push q =>
          match pushScalar s c q.val (v, p.scal.any (fun v => v.2)) o.led with
          | .go _ s => .go (ended s) fin
          | .wait kd ob => .wait kd ob
        | _ => .go (ended s) fin

end Sys2Proof.Machine
end

