-- ==== Sys2Proof/Machine/Engine.lean ====
section
/-! DEFINITION. The engines of a core at work (R150-R156, R172, R176-R184): the lines an operation's ends move, the NL
engine, starting an operation, running it as far as its operands and room allow, completing it. -/

namespace Sys2Proof.Machine

/-! ### Operands and the lines they move (R212, R180) -/

/-- The ends of an operation with the number of lines each moves (R212, R218, R221-R223, R226-R229). -/
def opEnds (o : CoreOp) : List (EndSpec × Nat) :=
  match o with
  | .pass _ => []
  | .drain o =>
    let n := o.n.toNat + 1
    [(o.d, ceilDiv (n * 128) (fmtPerLine ((fmtOf o.ofmt.toNat).getD .fp32))), (o.a, n)]
  | .vx k o =>
    let n := o.n.toNat + 1
    let per := fmtPerLine ((fmtOf o.fmt.toNat).getD .fp32)
    match vxShape k with
    | .elems => [(o.d, n), (o.a, n)] ++ (if vxUsesB k then [(o.b, n)] else []) ++ (if vxUsesC k then [(o.c, n)] else [])
    | .bcast => [(o.d, n)]
    | .cvt => [(o.d, ceilDiv (n * fmtPerLine ((fmtOf (o.imm.toNat % 16)).getD .fp32)) per), (o.a, n)]
    | .cvtmx => [(o.d, ceilDiv (n * 128) per), (o.a, n), (o.c, ceilDiv (n * 4) 512)]
    | .reduce => [(o.d, if o.f then 1 else 2), (o.a, n), (o.b, 2)]
    | .gath => [(o.d, n), (o.a, ceilDiv o.imm.toNat 128), (o.b, n)]
    | .scat => [(o.d, ceilDiv o.imm.toNat 128), (o.a, n), (o.b, n)]
  | .sx k o => (match k with | .kvcmd => [] | _ => [(o.d, 1)]) ++ (sxReads k o).map (fun e => (e, 1))
  | .ldl o => [(o.data, o.n.toNat + 1)]
  | .ldx o => [(o.data, o.n.toNat + 1), (o.addr, ceilDiv (o.n.toNat + 1) 64)]
  | .atom o => [(o.data, o.n.toNat + 1), (o.addr, o.n.toNat + 1)]
  | .stl o => [(o.data, o.n.toNat + 1), (o.mask, o.n.toNat + 1)]
  | .stx o => [(o.data, o.n.toNat + 1), (o.addr, ceilDiv (o.n.toNat + 1) 64)]
  | .send o => [(o.src, o.n.toNat + 1)]
  | .fx _ => []
  | .seq o =>
    match o with
    | .brc e _ _ => [(e, 1)]
    | .loop e _ _ => [(e, 1)]
    | _ => []

/-- Whether scratch lines `x` to `x + n − 1` meet a configured queue's storage. -/
def spanInStorage (s : Stack) (c x n : Nat) : Bool :=
  (List.range 16).any (fun q => overlaps (x, n) (dqBase s c q, dqDepth s c q) && decide (0 < dqDepth s c q))

/-- Whether a LINE end of an operation names queue storage (R180). -/
def opAliases (s : Stack) (c : Nat) (o : CoreOp) : Bool :=
  (opEnds o).any (fun e => match e.1 with
    | .line x => spanInStorage s c x.val e.2
    | _ => false)

/-- The scratch line that an operation reads first, where its ends name one. -/
def firstLine (s : Stack) (c : Nat) (o : CoreOp) : Option Nat :=
  (((opEnds o).drop (match o with | .drain _ => 1 | .vx _ _ => 1 | .ldl _ => 1 | .ldx _ => 1 | .atom _ => 1 | _ => 0)).findSome?
    (fun e => match e.1 with
      | .line x => some x.val
      | .pop q => some (dqLine s c q.val 0)
      | .peek i q => some (dqLine s c q.val i.val)
      | _ => none))

/-! ### Neighbour links (R150-R156) -/

/-- The V track of row `r`, west to east (Table 5.3). -/
def vTrack (r : Nat) : List Nat := [0x80 + 4 * r, 0x81 + 4 * r, 0xA0 + r, 0x82 + 4 * r, 0x83 + 4 * r]

/-- The same role in another row (R151). -/
def sameRole (c r : Nat) : Nat :=
  if c < 0x80 then r * 16 + c % 16 else if c < 0xA0 then 0x80 + r * 4 + c % 4 else 0xA0 + r

/-- The neighbour of a core in a direction (R150, R151). -/
def neighbour (s : Stack) (c : Nat) (d : Dir) : Option Nat :=
  let r := coreRow c
  let rows := (List.range 8).filter (fun i => s.tick.mask.getLsbD i)
  let track := fun (step : Nat → Option Nat) => (if c < 0x80 then
      (step (c % 16)).bind (fun i => if i < 16 then some (r * 16 + i) else none)
    else (step ((vTrack r).findIdx (fun x => x = c))).bind (fun i => (vTrack r)[i]?))
  match d with
  | .east => track (fun i => some (i + 1))
  | .west => track (fun i => if i = 0 then none else some (i - 1))
  | .south => ((rows.filter (fun i => decide (r < i))).head?).map (sameRole c)
  | .north => ((rows.filter (fun i => decide (i < r))).getLast?).map (sameRole c)

/-- The direction from which a line sent in direction `d` comes in (R233). -/
def incoming (d : Dir) : Dir :=
  match d with
  | .north => .south | .south => .north | .east => .west | .west => .east

/-- The incoming side of a core's link from direction `d`. -/
def linkIn (s : Stack) (c : Nat) (d : Dir) : LinkIn := (s.core c).nlIn.getD (dirCode d) LinkIn.empty
def setLinkIn (s : Stack) (c : Nat) (d : Dir) (x : LinkIn) : Stack :=
  s.onCore c (fun k => { k with nlIn := k.nlIn.set (dirCode d) x })

/-- One act of the NL engine: the next line sent for one credit; NL_DIR where there is no neighbour, and then its SRC lines stay where they are
(the manual does not say whether such a SEND pops them; DESIGN CHOICE, log 94); a wait for a
credit with the receiver's queue as its object (R154-R156). Kind 4 is no wait of R69: all lines are sent. -/
def nlAct (s : Stack) (c : Nat) (o : NlOp) (x : QEntry) : Act :=
  let n := o.n.toNat + 1
  let p := x.prog
  if p.i ≥ n then (if p.fin ≥ n then .done else .wait 4 0)
  else
    match neighbour s c o.dir with
    | none =>
      .go (raiseCore s c .nl (qposOf (s.core c).nl x.uid) fNlDir) { x with prog := { p with i := n, fin := n } }
    | some t =>
      let l := linkIn s t (incoming o.dir)
      if l.credits = 0 then .wait 2 o.rq.val
      else
        match readEnd s c o.src p.i with
        | .wait k ob => .wait k ob
        | .go line s =>
          .go (setLinkIn s t (incoming o.dir)
                { l with credits := l.credits - 1, flight := l.flight ++ [⟨x.uid, o.rq.val, line, 1⟩] })
            { x with prog := { p with i := p.i + 1 } }

/-! ### Running an operation -/

/-- One act of an engine on its operation. -/
def engineAct (now : Nat) (s : Stack) (c : Nat) (op : CoreOp) (x : QEntry) : Act :=
  match op with
  | .drain o => drainAct s c o x
  | .vx k o => vxAct s c k o x
  | .sx k o => sxAct s c k o x
  | .send o => nlAct s c o x
  | .pass _ => .done
  | .fx _ => .done
  | .seq _ => .done
  | op => ldstAct now (fun n s k => mcSettle (mcReplicate n s k 8) k.tag) s c (opEngine op) op x

/-- A bound on the acts of one operation. -/
def actFuel : Nat := 70000

/-- An operation run until it waits or its work is done; `stop` says after which state of its entry to stop. -/
def runActs (now : Nat) (c : Nat) (op : CoreOp) (stop : QEntry → Bool) : Nat → Stack → QEntry → Stack
  | 0, s, x => putOp s c (opEngine op) x
  | n + 1, s, x =>
    match engineAct now s c op x with
    | .go s x => if stop x then putOp s c (opEngine op) x else runActs now c op stop n s x
    | .wait _ _ => putOp s c (opEngine op) x
    | .done => putOp s c (opEngine op) { x with done := true }

/-- The started operation of a queue that is `op` and not done. -/
def startedOp (s : Stack) (c : Nat) (op : CoreOp) : Option QEntry :=
  ((s.core c).queue (opEngine op)).find? (fun x => x.started && !x.done && decide (x.op = some op))

/-- Whether a core runs (R191): an engine of a core that is HALTED or FAULTED does nothing (R192). -/
def coreRuns (s : Stack) (c : Nat) : Bool := decide ((s.core c).run = .running)

/-- The operation `op` of a running core taken as far as it goes. -/
def runOp (now : Nat) (s : Stack) (c : Nat) (op : CoreOp) : Stack :=
  match startedOp s c op with
  | some x => if coreRuns s c then runActs now c op (fun _ => false) actFuel s x else s
  | none => s

/-! ### Starting (R172, R178, R184, R64, R218) -/

/-- The scratch lines that the LINE ends of an operation name. -/
def lineSpans (o : CoreOp) : List (Nat × Nat) :=
  (opEnds o).filterMap (fun e => match e.1 with | .line x => some (x.val, e.2) | _ => none)

/-- The scratch lines that a load lands in. -/
def landSpan (o : CoreOp) : Option (Nat × Nat) :=
  match o with
  | .ldl _ | .ldx _ | .atom _ => (match ldstData o with | .line x => some (x.val, ldstN o) | _ => none)
  | _ => none

/-- Whether an operation behind `before` may start: MX overlaps passes, a DRAIN starts when every earlier pass that
writes lines it reads, reads or writes lines it writes, or drains into the queue into which it pushes, has retired (R172; DEDUCED, log 92), LD and ST start once the operation before has issued its requests and lands in none of the
scratch lines that the operation names, every other engine when the operations before it are done (R172, R118, R218). -/
def mayOverlap (op : CoreOp) (before : List QEntry) : Bool :=
  before.all (fun x => x.done ||
    match op with
    | .pass _ => (match x.op with | some (.pass _) => true | _ => false)
    | .drain o =>
      (match x.pass, o.a with
       | some p, .line a =>
         let out := lineSpans op
         !(passAcc p.d && overlaps (p.d.accout, passAccLines p.d) (a.val, o.n.toNat + 1))
           && (match o.d with
             | .push q => !(passDrain p.d && decide (p.d.dq = q.val))
             | .line _ => !(out.take 1).any (fun l => (passReads p.d).any (overlaps l) || (p.d.accIn && overlaps (p.d.accin, passAccLines p.d) l)
                 || (passAcc p.d && overlaps (p.d.accout, passAccLines p.d) l))
             | _ => true)
       | _, _ => false)
    | .ldl _ | .ldx _ | .atom _ | .stl _ | .stx _ => (match x.op with
        | some p => decide (x.prog.i ≥ ldstN p) && (match landSpan p with | some l => !(lineSpans op).any (overlaps l) | none => true)
        | none => false)
    | _ => false)

/-- The next operation of a queue: the first not started, with those before it; none behind a gate marker (R184). -/
def nextOp (q : List QEntry) : Option (QEntry × CoreOp × List QEntry) :=
  match q.find? (fun x => !x.started) with
  | none => none
  | some x => x.op.map (fun o => (x, o, q.takeWhile (fun y => decide (y.uid ≠ x.uid))))

/-- Whether an operation can do its first act now. -/
def firstActReady (now : Nat) (s : Stack) (c : Nat) (op : CoreOp) (x : QEntry) : Bool :=
  match engineAct now s c op x with
  | .wait _ _ => false
  | _ => true

/-- ENGINE_OP_START: the next operation of the engine's queue starts, where order, gate marker, exchange gate (R64),
operands, room and the passes before it that wait (R178) let it; parity failures of the reads it makes take effect, and an operation whose LINE end names
queue storage raises DQ_ALIAS and makes no access (R180). -/
def startOp (now : Nat) (s : Stack) (c : Nat) (e : Engine) (u : Upsets) : Stack :=
  match nextOp ((s.core c).queue e) with
  | none => s
  | some (x, op, before) =>
    if !coreRuns s c || !mayOverlap op before || passHolds s c before || (ldstX op && !goReceived s x.tick) then s
    else if opAliases s c op then
      putOp (raiseCore s c e (qposOf ((s.core c).queue e) x.uid) fDqAlias) c e { x with started := true, done := true }
    else if firstActReady now s c op x then
      let s := applyUpsets s u
      let s := match firstLine s c op with
        | some l => injectSram s (haSite (coreSite s c)) 0 (scratchAddr c l / 32)
        | none => s
      putOp s c e { x with started := true }
    else s

/-! ### Completing (R172, Table 6.2, R230, R191) -/

/-- Whether an entry's operation has completed. -/
def entryComplete (x : QEntry) : Bool :=
  x.done || (x.started &&
    match x.op with
    | some (.ldl o) => decide (x.prog.i ≥ o.n.toNat + 1 ∧ x.prog.fin ≥ o.n.toNat + 1)
    | some (.ldx o) => decide (x.prog.i ≥ o.n.toNat + 1 ∧ x.prog.fin ≥ o.n.toNat + 1)
    | some (.atom o) => decide (x.prog.i ≥ o.n.toNat + 1 ∧ x.prog.fin ≥ o.n.toNat + 1)
    | some (.stl o) => decide (x.prog.i ≥ o.n.toNat + 1 ∧ x.prog.fin ≥ o.n.toNat + 1)
    | some (.stx o) => decide (x.prog.i ≥ o.n.toNat + 1 ∧ x.prog.fin ≥ o.n.toNat + 1)
    | some (.send o) => decide (x.prog.i ≥ o.n.toNat + 1 ∧ x.prog.fin ≥ o.n.toNat + 1)
    | _ => false)

/-- Whether a core has nothing dispatched that has not completed. -/
def coreIdle (k : Core) : Bool :=
  k.mx.isEmpty && k.vx.isEmpty && k.sx.isEmpty && k.ld.isEmpty && k.st.isEmpty && k.nl.isEmpty && k.fx.isEmpty

/-- A core that has executed HALT goes to HALTED once every operation dispatched earlier has completed (Table 6.8). -/
def tryHalt (s : Stack) (c : Nat) : Stack :=
  s.onCore c (fun k => if k.halting && decide (k.run = .running) && coreIdle k then { k with run := .halted } else k)

/-- ENGINE_OP_COMPLETE: the oldest completed operation of a queue frees its entry; a multicast STL whose completions
missed members raises MC_PARTIAL with the target bitmap (R230). -/
def completeOp (s : Stack) (c : Nat) (e : Engine) : Stack :=
  if coreRuns s c then
    match ((s.core c).queue e).find? entryComplete with
    | none => s
    | some x =>
      let q := qposOf ((s.core c).queue e) x.uid
      let s := s.onCore c (fun k => k.setQueue e ((k.queue e).filter (fun y => decide (y.uid ≠ x.uid))))
      let s := if x.prog.missed = 0 then s
        else
          raise s { source := fMcPartial, addr := haSite (coreSite s c), core := some c, detail0 := x.prog.report,
                    detail1 := x.prog.missed.setWidth 64, attributed := true, qpos := q }
      tryHalt s c
  else s

end Sys2Proof.Machine
end

