-- ==== Sys2Proof/Machine/Seq.lean ====
section
/-! DEFINITION. The sequencer (R170-R171, R184, R200-R202, R214-R216), the FX engine (R182-R188), landings and answers of
LD and ST (R228, R231, R232), neighbour-link arrivals (R154-R159), and the flags of a row (R148, R186). -/

namespace Sys2Proof.Machine

/-! ### Instruction memory (R195-R200) -/

/-- The local address of byte `o` of a core's instruction memory. -/
def imemAddr (c o : Nat) : Nat := windowBase c + 0x400000 + o

/-- A 32-bit word of a core's instruction memory. -/
def imem32 (s : Stack) (c o : Nat) : Nat := leNat (fun i => readByte s.mem (imemAddr c o + i)) 4

/-- ENTRY and CODE_END of the core header (Table 6.9). -/
def codeEntry (s : Stack) (c : Nat) : Nat := imem32 s c 128
def codeEnd (s : Stack) (c : Nat) : Nat := imem32 s c 132

/-- The instruction word at byte offset `o`. -/
def imemWord (s : Stack) (c o : Nat) : BitVec 128 := bv 128 (leNat (fun i => readByte s.mem (imemAddr c o + i)) 16)

/-- Whether the sequencer may fetch at `o`: inside the code range, from a valid line (R200). -/
def fetchable (s : Stack) (c o : Nat) : Bool :=
  decide (codeEntry s c ≤ o ∧ o < codeEnd s c) && (s.core c).valid.getLsbD (o / 512)

/-! ### Dispatch (R170, R171) -/

/-- Entries of an instruction queue (R171). -/
def queueSize : Nat := 32

/-- Whether every queue that an instruction needs has a free entry (R171). -/
def dispatchRoom (k : Core) (o : CoreOp) : Bool :=
  let free := fun (e : Engine) => match e with | .fx => decide (k.fx.length < queueSize) | .seq => true | e => decide ((k.queue e).length < queueSize)
  match o with
  | .seq _ => true
  | .fx (.wait _ _ g) => free .fx && free g
  | .fx (.waitc _ g) => free .fx && free g
  | .fx _ => free .fx
  | o => free (opEngine o)

/-- Whether an operation rounds stochastically, so that it counts in the ordinal of R104. -/
def isStochastic (s : Stack) (c : Nat) (o : CoreOp) : Bool :=
  match o with
  | .drain o => o.rnd
  | .vx .cvt o => o.rnd
  | .vx .cvtmx o => o.rnd
  | .pass o => (resolvePass s c o).rnd && passDrain (resolvePass s c o)
  | _ => false

/-- An operation at the tail of its engine's queue. -/
def dispatchOp (s : Stack) (c : Nat) (o : CoreOp) : Stack :=
  let st := isStochastic s c o
  s.onCore c (fun k =>
    let x : QEntry := { uid := k.uid, op := some o, started := false, done := false, tick := tickOf s, ord := k.stoch,
                        prog := {}, pass := none }
    { k.setQueue (opEngine o) (k.queue (opEngine o) ++ [x]) with
      uid := k.uid + 1, pc := k.pc + 16, stoch := if st then (k.stoch + 1) % 65536 else k.stoch, seqStall := false })

/-- The sequencer dispatches nothing further in the job (R200). -/
def stopSeq (s : Stack) (c : Nat) : Stack := s.onCore c (fun k => { k with seqStopped := true, seqCur := none, seqStall := false })

/-- Whether the sequencer may fetch now. -/
def seqFree (k : Core) : Bool :=
  decide (k.run = .running) && !k.seqStopped && !k.seqHold && k.seqGate.isNone && k.seqCur.isNone && !k.halting

/-- SEQ_FETCH_DISPATCH: the next instruction fetched and dispatched, or the sequencer stalls; a fetch outside the code
or from an invalid line raises IMEM_FETCH, a poisoned word bites (R170, R171, R200). An instruction of the sequencer or
of FX is held for its own row. A word that names no instruction, which admission refuses (R211), stops the sequencer. -/
def fetchDispatch (s : Stack) (c : Nat) (u : Upsets) : Stack :=
  let k := s.core c
  if !seqFree k || decide (s.tick.phase = .starting) then s
  else if !fetchable s c k.pc then stopSeq (raiseCore s c .seq 0 fImemFetch) c
  else
    let g := imemAddr c k.pc / 32
    let s := injectSram (applyUpsets s u) (haSite (coreSite s c)) 1 g
    if markOf s g ≠ 0 then stopSeq (biteCore s c .seq 0 biteControl) c
    else
      match decodeCore (imemWord s c k.pc) with
      | none => stopSeq s c
      | some o =>
        if !dispatchRoom k o then s.onCore c (fun k => { k with seqStall := true })
        else
          match o with
          | .seq _ => s.onCore c (fun k => { k with seqCur := some o, pc := k.pc + 16, seqStall := false })
          | .fx _ => s.onCore c (fun k => { k with seqCur := some o, pc := k.pc + 16, seqStall := false })
          | o => dispatchOp s c o

/-- A sequencer instruction held for execution, when it is `o` and the core runs. -/
def seqHas (s : Stack) (c : Nat) (o : CoreOp) : Bool :=
  coreRuns s c && decide ((s.core c).seqCur = some o)

/-- The held instruction done, with the core changed by `f`. -/
def seqDone (s : Stack) (c : Nat) (f : Core → Core) : Stack := s.onCore c (fun k => f { k with seqCur := none })

/-- A value popped for the sequencer: bytes 0-7 of the head line, which is popped (R170). -/
def seqValue (s : Stack) (c : Nat) (e : EndSpec) : Try (Word × Bool) :=
  match e with
  | .pop q =>
    if dqReady s c q.val 0 then
      let l := dqPeek s c q.val 0
      .go (l.data.setWidth 64, l.marks.getLsbD 0) (dqDrop s c q.val)
    else .wait 1 q.val
  | _ => .go (0, false) s

/-- BRC (R216): a poisoned value bites and stops the sequencer; otherwise a branch on zero or non-zero. -/
def seqBrc (s : Stack) (c : Nat) (e : EndSpec) (t : Nat) (z : Bool) (u : Upsets) : Stack :=
  match seqValue (applyUpsets s u) c e with
  | .wait _ _ => s
  | .go (v, bad) s =>
    if bad then stopSeq (biteCore s c .seq 0 biteControl) c
    else seqDone s c (fun k => if decide (v = 0) = z then { k with pc := t } else k)

/-- Open loops at most (R214). -/
def maxLoops : Nat := 4

/-- A LOOP with its count known (R214). -/
def openLoop (s : Stack) (c : Nat) (n : Int) (stop : Nat) : Stack :=
  if n < 0 ∨ n > 0xFFFFFFFF then stopSeq (raiseCore s c .seq 0 fSeqLoop) c
  else if n = 0 then seqDone s c (fun k => { k with pc := stop + 16 })
  else seqDone s c (fun k => { k with loops := ⟨k.pc, stop, n.toNat⟩ :: k.loops })

/-- LOOP (R214, R216). -/
def seqLoop (s : Stack) (c : Nat) (e : EndSpec) (count : Nat) (stop : Nat) (u : Upsets) : Stack :=
  if (s.core c).loops.length ≥ maxLoops then stopSeq (raiseCore s c .seq 0 fSeqLoop) c
  else if e = .none then openLoop s c count stop
  else
    match seqValue (applyUpsets s u) c e with
    | .wait _ _ => s
    | .go (v, bad) s => if bad then stopSeq (biteCore s c .seq 0 biteControl) c else openLoop s c v.toInt stop

/-- ENDLOOP (R214). -/
def seqEndloop (s : Stack) (c : Nat) : Stack :=
  match (s.core c).loops with
  | [] => stopSeq (raiseCore s c .seq 0 fSeqLoop) c
  | l :: r =>
    if l.left > 1 then seqDone s c (fun k => { k with pc := l.body, loops := { l with left := l.left - 1 } :: r })
    else seqDone s c (fun k => { k with loops := r })

/-! ### FX entries (R183-R188) -/

/-- A held FX instruction placed in the FX queue, with its gate marker (R184); TICK_END makes the sequencer hold
(R188). -/
def fxPlace (s : Stack) (c : Nat) (o : FxOp) : Stack :=
  if seqHas s c (.fx o) && dispatchRoom (s.core c) (.fx o) then
    seqDone s c (fun k =>
      let u := k.uid
      let k := { k with fx := k.fx ++ [⟨u, o, false⟩], uid := u + 1 }
      let mark := fun (k : Core) (g : Engine) =>
        match g with
        | .seq => { k with seqGate := some u }
        | g => k.setQueue g (k.queue g ++ [{ uid := u, op := none, started := false, done := false, tick := tickOf s,
                                             ord := 0, prog := {}, pass := none }])
      match o with
      | .wait _ _ g => mark k g
      | .waitc _ g => mark k g
      | .tickEnd => { k with seqHold := true }
      | _ => k)
  else s

/-- The gate marker of entry `u` gone from engine `g` (R184). -/
def releaseGate (k : Core) (g : Engine) (u : Nat) : Core :=
  match g with
  | .seq => { k with seqGate := if k.seqGate = some u then none else k.seqGate }
  | g => k.setQueue g ((k.queue g).filter (fun x => decide (x.uid ≠ u)))

/-- Whether the after-mask of entry `u` is satisfied: no operation dispatched earlier to an engine it names is pending
(R183). -/
def afterDone (k : Core) (m : BitVec 6) (u : Nat) : Bool :=
  queueEngines.all (fun e => !m.getLsbD (engineCode e) || (k.queue e).all (fun x => x.op.isNone || decide (x.uid > u)))

/-- Whether every earlier ST operation of the core has completed (R183). -/
def storesDone (k : Core) (u : Nat) : Bool := k.st.all (fun x => x.op.isNone || decide (x.uid > u))

/-- Whether every operation dispatched before entry `u`, to every engine, has completed (R188). -/
def allDone (k : Core) (u : Nat) : Bool :=
  queueEngines.all (fun e => (k.queue e).all (fun x => x.op.isNone || decide (x.uid > u)))
    && k.fx.all (fun x => decide (x.uid ≥ u))

/-- Whether another WAITC on the same flag gates a lower engine code, or the same engine and is older: the manual ranks by the engine code
alone, and the model lets the older of two entries that gate one engine win (R186; DESIGN CHOICE, log 93). -/
def waitcBeaten (k : Core) (x : FxEntry) (f : Nat) (g : Engine) : Bool :=
  k.fx.any (fun y => decide (y.uid ≠ x.uid) &&
    (match y.op with
     | .waitc f' g' => decide (f'.val = f ∧ (engineCode g' < engineCode g ∨ (engineCode g' = engineCode g ∧ y.uid < x.uid)))
     | _ => false))

/-- Whether a stack takes a SIGNAL for core `t`: its row lies in the program mask and is not retired (R187). -/
def signalTaken (s : Stack) (t : Nat) : Bool :=
  decide (t < 168) && s.tick.mask.getLsbD (coreRow t) && !rowRetired s (coreRow t)

/-- The effect of an FX entry whose condition holds; none where it does not hold (Table 6.6). A local flag that one WAITC has taken in a cycle is
taken by no other in that cycle (R186). -/
def fxEffect (now : Nat) (s : Stack) (c : Nat) (x : FxEntry) : Option Stack :=
  let k := s.core c
  match x.op with
  | .wait f v g => if flagSeen now s c f.val = v then some (s.onCore c (fun k => releaseGate k g x.uid)) else none
  | .waitc f g =>
    if f.val < 64 then
      if flagSeen now s c f.val && !flagTaken now f.val k && !waitcBeaten k x f.val g then
        some ((s.onCore c (takeLocal now f.val)).onCore c (fun k => releaseGate k g x.uid))
      else none
    else if x.granted then some (s.onCore c (fun k => releaseGate k g x.uid))
    else none
  | .set f m => if afterDone k m x.uid then some (writeFlag now s c f.val true) else none
  | .clr f m => if afterDone k m x.uid then some (writeFlag now s c f.val false) else none
  | .signal t g m =>
    if afterDone k m x.uid && storesDone k x.uid then
      if signalTaken s t then some (s.onCore c (fun k => { k with signals := k.signals ++ [(t, g.val)] }))
      else some (raiseCore s c .fx (k.fx.findIdx (fun y => y.uid = x.uid)) fSignalTarget)
    else none
  | .tickEnd => if allDone k x.uid then some (s.onCore c (fun k => { k with tickEnd := true })) else none

/-- FX_ENTRY_COMPLETE: an entry whose condition holds takes its effect and frees its queue entry (R183). -/
def fxComplete (now : Nat) (s : Stack) (c : Nat) (x : FxEntry) : Stack :=
  if coreRuns s c then
    match fxEffect now s c x with
    | none => s
    | some s => tryHalt (s.onCore c (fun k => { k with fx := k.fx.filter (fun y => decide (y.uid ≠ x.uid)) })) c
  else s

/-- TICK_END_COMPLETE (R188). -/
def tickEndComplete (now : Nat) (s : Stack) (c : Nat) : Stack :=
  match (s.core c).fx.find? (fun x => decide (x.op = .tickEnd)) with
  | some x => fxComplete now s c x
  | none => s

/-- SIGNAL_DELIVER: a signal for flag `f` of core `t` that some core of the stack has sent is written (R187); at a FAULTED core it is gone without
a write, since the flags of that core keep what they held (R192; DEDUCED, log 103). -/
def signalDeliver (now : Nat) (s : Stack) (t f : Nat) : Stack :=
  match (List.range 168).find? (fun c => (s.core c).signals.contains (t, f)) with
  | none => s
  | some c =>
    let s := s.onCore c (fun k => { k with signals := k.signals.erase (t, f) })
    if (s.core t).run = .faulted then s else setLocalFlag now s t f true

/-- The cores of a row, ascending. -/
def rowCores (r : Nat) : List Nat :=
  (List.range 16).map (fun i => r * 16 + i) ++ (List.range 4).map (fun i => 0x80 + r * 4 + i) ++ [0xA0 + r]

/-- The WAITC on row flag `f` that the S-core grants: of the lowest core, then of the lowest engine code, then the oldest. The manual ranks
by core number alone; among the tests of one core the model takes the order that R186 gives local flags (DESIGN CHOICE, log 93). -/
def rowGrant (s : Stack) (r f : Nat) : Option (Nat × Nat) :=
  (rowCores r).findSome? (fun c =>
    let k := s.core c
    if k.run = .running then
      (k.fx.find? (fun x => !x.granted &&
        (match x.op with | .waitc f' g => decide (f'.val = 64 + f) && !waitcBeaten k x f'.val g | _ => false))).map (fun x => (c, x.uid))
    else none)

/-- The writes of row flags that stand: a clear gives way to a set of the same flag issued in the same cycle (R148, R186). -/
def standingOps (ops : List (Nat × Bool × Nat)) : List (Nat × Bool × Nat) :=
  ops.filter (fun o => o.2.1 || !ops.contains (o.1, true, o.2.2))

/-- ROW_FLAG_TEST, at most one in a cycle: each row flag that reads 1 grants one waiting WAITC; then the clears of granted tests are applied,
then the writes that cores have issued in earlier cycles, cycle by cycle; those of the cycle itself are still on their way (R148, R186). -/
def rowFlagTest (now : Nat) (s : Stack) (r : Nat) : Stack :=
  let x := s.row r
  if x.flagTest = some now then s
  else
  let grants := (List.range 64).filterMap (fun f => if x.flags.getLsbD f then (rowGrant s r f).map (fun g => (f, g)) else none)
  let s := grants.foldl (fun s g =>
    s.onCore g.2.1 (fun k => { k with fx := k.fx.map (fun y => if y.uid = g.2.2 then { y with granted := true } else y) })) s
  let fl := grants.foldl (fun fl g => flagBits fl g.1 false) x.flags
  let here := x.flagOps.filter (fun o => decide (o.1 < now))
  let fl := (standingOps here).foldl (fun fl o => flagBits fl o.2.2 o.2.1) fl
  s.setRow r { x with flags := fl, flagOps := x.flagOps.filter (fun o => decide (now ≤ o.1)), flagTest := some now }

/-! ### Landings and answers (R228, R231, R232, R277) -/

/-- A FAULTED core whose job has ended is HALTED once its responses have arrived or failed (Table 6.8). -/
def settleFaulted (s : Stack) (c : Nat) : Stack :=
  s.onCore c (fun k => if k.run = .faulted ∧ ¬ k.participating ∧ k.reqs = [] then { k with run := .halted } else k)

/-- How many transmissions of a transfer fail: those the operand says, and injected ones (R526); at most four. -/
def transferFails (s : Stack) (unit checker fails : Nat) : Nat × Bool × Stack :=
  let k := checkerKey unit checker
  let n := tget (fun _ => 0) s.inject k
  let t := min 4 (fails + n)
  let used := t - fails
  (t, decide (0 < used), if used = 0 then s else { s with inject := tset (fun _ => 0) s.inject k (n - used) })

/-- The replay faults of a transfer with `n` failed transmissions: one replay event per resend, the path's fault after
the fourth failure (R277). -/
def raiseReplays (s : Stack) (replay fault addr n : Nat) (core : Option Nat) (inj : Bool) : Stack :=
  let s := (List.range (min n 3)).foldl (fun s _ => raise s { source := replay, addr := addr, core := core, injected := inj }) s
  if n ≥ 4 then raise s { source := fault, addr := addr, core := core, injected := inj } else s

/-- A line as accepted after `n` failed transmissions: the failing words are poisoned after the fourth (R277). -/
def acceptedLine (l : Line) (n : Nat) (failing : BitVec 16) (inj : Bool) : Line :=
  if n ≥ 4 then { l with marks := l.marks ||| (if inj then 0xFFFF#16 else failing) } else l

/-- LINE_LAND: the line that answers request `req` lands through its operation's DATA end with its poison marks, after
the transfers across the bond (R228, R231, R277). A FAULTED core pushes nothing (R192). -/
def lineLand (s : Stack) (c req fails : Nat) (failing : BitVec 16) (u : Upsets) : Stack :=
  match findReq s c req with
  | none => s
  | some r =>
    match r.answer with
    | .line l =>
      let p := coreSite s c
      let s := applyUpsets s u
      let (n, inj, s) := transferFails s (haSlice p) 1 fails
      let s := raiseReplays s fBondReplay fBondFault (haSlice p) n (some c) inj
      let s := if n ≥ 4 then markInjected inj s.bus.length (siteFailed s p) else s
      let s := if coreRuns s c then
          match reqOp s c r with
          | some o => landLine s c (ldstData o) r.uid r.i (acceptedLine l n failing inj)
          | none => s
        else s
      settleFaulted (finishReq s c r) c
    | _ => s

/-- STORE_ACK: a store is acknowledged to its core. -/
def storeAck (s : Stack) (c req : Nat) : Stack :=
  match findReq s c req with
  | none => s
  | some r => if r.answer = .acked then settleFaulted (finishReq s c r) c else s

/-- REQUEST_ERROR_ANSWER (R232): zeros, every word poisoned, land; a store stores nothing; MEM_ADDR or REMOTE_LOST. -/
def errorAnswer (s : Stack) (c req : Nat) : Stack :=
  match findReq s c req with
  | none => s
  | some r =>
    match r.answer with
    | .error st =>
      if r.parts ≠ 0 then s
      else
        let s := if coreRuns s c then
            let s := if r.write then s
              else match reqOp s c r with
                | some o => landLine s c (ldstData o) r.uid r.i Line.lost
                | none => s
            raiseCore s c r.e (qposOf ((s.core c).queue r.e) r.uid) (if st = stNodeLost then fRemoteLost else fMemAddr)
          else s
        settleFaulted (finishReq s c r) c
    | _ => s

/-- A transaction put where its place in the order of issue is. -/
def insertTxn (e : Nat × Txn) (l : List (Nat × Txn)) : List (Nat × Txn) :=
  l.takeWhile (fun x => decide (x.2.order < e.2.order)) ++ e :: l.dropWhile (fun x => decide (x.2.order < e.2.order))

/-- Whether a transaction is refused, with its back-off over at cycle `now`. -/
def backoffOver (now : Nat) (x : Txn) : Bool := match x.state with | .refused t => decide (t ≤ now) | _ => false

/-- Refused transactions of a request whose back-off has passed, in their order of issue; none while an older refused transaction to the same node
waits, of another request or with its back-off still running (R393). -/
def resendable (now : Nat) (s : Stack) (c req : Nat) : List (Nat × Txn) :=
  let mine := fun (x : Txn) => decide (x.for_.core = c ∧ x.for_.req = req) && backoffOver now x
  let may := s.router.tags.filter (fun e => mine e.2 && s.router.tags.all (fun o =>
    match o.2.state with
    | .refused _ => mine o.2 || decide (o.2.pkt.dst ≠ e.2.pkt.dst ∨ e.2.order ≤ o.2.order)
    | _ => true))
  may.foldr insertTxn []

/-- RETRY_LATER_RESEND (R228, R393): refused packets of a request are sent again with RESEND, on the link that their node has now; one that no link
can carry is answered NODE_LOST (R369). A refused access inside the stack goes to its vault controller again. -/
def resendReq (now : Nat) (s : Stack) (c req : Nat) : Stack :=
  let s := (resendable now s c req).foldl (fun s e =>
    let k := { e.2.pkt with resend := true }
    match egressLink s k.dst with
    | some l =>
      sendOn now { s with router := { s.router with tags := tput s.router.tags e.1 { e.2 with pkt := k, link := l, state := .open_ } } } l k
    | none => failTxn s e.1 stNodeLost) s
  { s with entering := s.entering.map (fun a =>
      match a.origin, a.refused with
      | .core c' r' _, some t => if c' = c ∧ r' = req ∧ t ≤ now then { a with refused := none } else a
      | _, _ => a) }

/-! ### Arrivals on a neighbour link (R154-R159) -/

/-- The unit of the link segment next to the receiver, and the site that a failed segment counts against (R38, R159). The two sites that bound a
north-south segment stand at one position: it counts against the southern one, whose site number is the higher, also where that is an S site
(DESIGN CHOICE, log 89). -/
def segmentOf (s : Stack) (c : Nat) (d : Dir) : Nat × Nat :=
  let p := coreSite s c
  let q := p % 23
  let row := 0xA000 + (p / 23) * 0x100
  match d with
  | .east => (row + 0x40 + q, p / 23 * 23 + (if q + 1 = 10 then q else q + 1))
  | .west => (row + 0x40 + (q - 1), p / 23 * 23 + (if q = 10 then q - 1 else q))
  | .north => (row - 0x100 + 0x60 + q, p)
  | .south => (row + 0x60 + q, p + 23)

/-- The core that sends to `c` from direction `d`, with its operation's line counted as pushed (Table 6.2). -/
def linePushed (s : Stack) (c : Nat) (d : Dir) (uid : Nat) : Stack :=
  match neighbour s c d with
  | none => s
  | some t => s.onCore t (fun k => { k with nl := k.nl.map (fun x =>
      if x.uid = uid then { x with prog := { x.prog with fin := x.prog.fin + 1 } } else x) })

/-- Whether the core that sends to `c` from direction `d` is FAULTED: lines of its operation that are not pushed yet never are (R192). -/
def senderFaulted (s : Stack) (c : Nat) (d : Dir) : Bool :=
  match neighbour s c d with
  | some t => decide ((s.core t).run = .faulted)
  | none => false

/-- Landed lines pushed in order while their queues have room (R155); none to or from a FAULTED core (R192). -/
def pushLanded (c : Nat) (d : Dir) : Nat → Stack → Stack
  | 0, s => s
  | n + 1, s =>
    let l := linkIn s c d
    match l.landed with
    | [] => s
    | x :: r =>
      if dqRoom s c x.rq && decide ((s.core c).run ≠ .faulted) && !senderFaulted s c d then
        let s := dqPush s c x.rq x.line .full
        let s := setLinkIn s c d { l with landed := r, returning := l.returning + 1 }
        pushLanded c d n (linePushed s c d x.uid)
      else s

/-- LINK_LINE_LAND: the oldest line in flight lands and its parity resolves: a failure is retried and raises LINK_REPLAY,
the fourth is pushed poisoned and raises LINK_FAULT; landed lines are pushed (R154, R155, R158, R159, R167). -/
def linkLand (s : Stack) (c : Nat) (d : Dir) (failing : BitVec 16) : Stack :=
  let l := linkIn s c d
  match l.flight with
  | [] => pushLanded c d 8 s
  | x :: r =>
    let (unit, site) := segmentOf s c d
    let (inj, s) := takeInject s unit 0
    let failing := if inj then 0xFFFF#16 else failing
    if failing = 0 then pushLanded c d 8 (setLinkIn s c d { l with flight := r, landed := l.landed ++ [x] })
    else if x.sent < 4 then
      let s := setLinkIn s c d { l with flight := { x with sent := x.sent + 1 } :: r }
      let s := setReg s (rNlStat c) (addSat (reg s (rNlStat c)) 0 32 1)
      raise s { source := fLinkReplay, addr := haSite (coreSite s c), core := some c, injected := inj }
    else
      let x := { x with line := { x.line with marks := x.line.marks ||| failing } }
      let s := setLinkIn s c d { l with flight := r, landed := l.landed ++ [x] }
      let st := reg s (rNlStat c)
      let s := setReg s (rNlStat c) (setFld (addSat st 56 8 1) 52 4 (dirCode d))
      let s := raise s { source := fLinkFault, addr := haSite (coreSite s c), core := some c, attributed := true,
                         detail0 := coreReport s fLinkFault .nl 0, injected := inj }
      pushLanded c d 8 (markInjected inj s.bus.length (siteFailed s site))

/-- LINK_CREDIT_RETURN: a credit that the receiver has freed reaches the sender (R155). -/
def creditReturn (s : Stack) (c : Nat) (d : Dir) : Stack :=
  let l := linkIn s c d
  if l.returning = 0 then s else setLinkIn s c d { l with returning := l.returning - 1, credits := l.credits + 1 }

end Sys2Proof.Machine
end

