-- ==== Sys2Proof/Machine/Memory.lean ====
section
/-! DEFINITION. Vault controllers and columns, slices, the pantry and its row ports (05, 08), the DRAM word code at work
and soft repairs (09): how an access is arbitrated, performed and delivered. -/

namespace Sys2Proof.Machine

/-! ### Answers to accesses -/

/-- A line that a READ, WRITE, FILL or COPY has had read, or its write acknowledged (R431). -/
def answerBulk (s : Stack) (run : Nat) (write : Bool) (a : Access) : Stack :=
  { s with bulk := s.bulk.map (fun b =>
      if b.id ≠ run then b
      else if write then { b with asked := b.asked - 1 }
      else { b with asked := b.asked - 1, lines := b.lines ++ [(a.addr, a.result)], unchecked := b.unchecked || a.unchecked }) }

/-- A row command or a sub-bank access of the KV engine performed; the words that its transfer could not deliver are kept (R277, R347). -/
def answerKv (s : Stack) (a : Access) : Stack :=
  let bad := a.result.marks &&& ~~~(readLine s a.addr).marks
  { s with kv := { s.kv with asked := s.kv.asked.map (fun k => if k.id = a.id then { k with done := true, failing := bad } else k) } }

/-- The answer of an access to whoever waits for it: a core's request, a responder transaction, a memory command, the KV engine. -/
def answerAccess (now : Nat) (s : Stack) (a : Access) : Stack :=
  match a.origin with
  | .core c req sub =>
    match a.kind with
    | .read => answerCore s c req sub (.line a.result)
    | .atomic _ off _ _ =>
      answerCore s c req sub (.old ((a.result.data >>> (8 * off)).setWidth 64) (a.result.marks.getLsbD (off / 32)))
    | _ => answerCore s c req sub .ack
  | .packet id => answerPacket now s id a
  | .nbu _ _ => s
  | .firmware run w => answerBulk s run w a
  | .kv _ => answerKv s a

/-! ### Performing an access at its target (R229, R263-R276, R305, R391) -/

/-- The new value of a 64-bit atomic (R229): 0 ADD, 1 SMIN, 2 SMAX, 3 SWAP, 4 CAS. -/
def atomicNew (aty : Nat) (old operand compare : Word) : Word :=
  match aty with
  | 0 => old + operand
  | 1 => if operand.toInt < old.toInt then operand else old
  | 2 => if old.toInt < operand.toInt then operand else old
  | 3 => operand
  | 4 => if old = compare then operand else old
  | _ => old

/-- The element operations that a near-bank unit performs in place (Table 10.4), on D and B with the immediate. -/
def nbuElem (op : Nat) (t : Bool) (imm : BitVec 32) (d b : BitVec 32) : BitVec 32 :=
  match op with
  | 0x08 => vxElem .add t d b 0
  | 0x09 => vxElem .mul t d b 0
  | 0x0A => vxElem .min t d b 0
  | 0x0B => vxElem .max t d b 0
  | 0x0C => vxElem .fma t imm b d
  | 0x0D => vxElem .mul t d imm 0
  | _ => d

/-- Whether an element operation uses B. -/
def nbuUsesB (op : Nat) : Bool := decide (op ≠ 0x0D)

/-- The line that an RMW of a near-bank unit writes, from the row it read (R305, R322). -/
def rmwLine (k : AccessKind) (old b : Line) : Line :=
  match k with
  | .rmwElem op t imm =>
    pack32 (List.zipWith (fun x y => (nbuElem op t imm x.1 y.1, x.2 || (nbuUsesB op && y.2))) (line32 old) (line32 b))
  | .rmwAdds t adds =>
    pack32 (adds.foldl (fun els x => els.modify x.1 (fun e => (vxElem .add t e.1 x.2.1 0, e.2 || x.2.2))) (line32 old))
  | _ => old

/-- The line and byte mask that an access writes, given what it has read. -/
def accessWrite (a : Access) (old : Line) : Line × BitVec 512 :=
  match a.kind with
  | .read => (Line.zero, 0)
  | .row _ => (Line.zero, 0)
  | .write => (a.data, a.mask)
  | .atomic aty off operand compare =>
    let o : Word := (old.data >>> (8 * off)).setWidth 64
    let v := atomicNew aty o operand compare
    (⟨v.setWidth 4096 <<< (8 * off), if old.marks.getLsbD (off / 32) then 1#16 <<< (off / 32) else 0⟩, spanMask off 8)
  | k => (rmwLine k old a.data, fullMask)

/-- Whether an access reads its row before it writes: reads, atomics, RMWs, and writes of part of a word of a PROTECTED
region (R271, R273). -/
def accessReads (s : Stack) (a : Access) : Bool :=
  match a.kind with
  | .write => maskPartial a.mask && decide (holding s a.addr = .coded)
  | .row true => maskPartial a.mask && decide (holding s a.addr = .coded)
  | _ => true

/-- The syndromes that a row's decode sees: the stored ones, with those of injected checks of the tile (R526). -/
def decodedSyn (s : Stack) (p addr : Nat) : List (BitVec 16) × Bool × Stack :=
  match place addr with
  | .vault _ o =>
    let unit := haTile (lineLayer (o / 512)) p
    let one := fun (acc : List (BitVec 16) × Bool × Stack) (c : Nat × BitVec 16) =>
      let (syn, any, s) := acc
      let key := checkerKey unit c.1
      let n := tget (fun _ => 0) s.inject key
      if n = 0 then acc
      else
        ((List.range 16).map (fun w => if w < n then syn.getD w 0 ^^^ c.2 else syn.getD w 0), true || any,
         { s with inject := tset (fun _ => 0) s.inject key (n - min n 16) })
    [(0, 0x0001#16), (1, 0x0003#16), (2, 0xFFFF#16)].foldl one (lineSyn s addr, false, s)
  | _ => (lineSyn s addr, false, s)

/-- The stack with the masked bytes of a line written, the read of a read-modify-write having seen `syn`: a word that
the write does not touch keeps its stored check value unless it was corrected (R272). -/
def writeLineSeen (s : Stack) (a : Nat) (l : Line) (mask : BitVec 512) (syn : List (BitVec 16)) : Stack :=
  let h := holding s a
  let old := rawLine s a
  let part := maskPartial mask
  let new := fun w =>
    let seen := syn.getD w 0
    let r := writeWord h part (wordOf old w) seen (wordOf l.data w) (l.marks.getLsbD w) (maskWord mask w)
    if maskWord mask w = 0 ∧ r.2 = seen then (r.1, markOf s (a / 32 + w)) else r
  putLine (freshParity s a mask) a (joinWords (fun w => (new w).1)) (fun w => (new w).2)

/-- Raised for a poisoned word stored in a PROTECTED region (R291): by the storing core, or by the stack controller for
Ivton writes. An atomic that writes back to a poisoned word consumes no poison (R272). -/
def storeBite (s : Stack) (a : Access) (l : Line) (mask : BitVec 512) : Stack :=
  if a.kind = .write ∧ storesPoison s a.addr l mask then
    match a.origin with
    | .core c req _ =>
      let e : Engine := match findReq s c req with | some r => r.e | none => .st
      let uid := match findReq s c req with | some r => r.uid | none => 0
      biteCore s c e (qposOf ((s.core c).queue e) uid) biteStore
    | _ => biteUnit s haController biteStore
  else s

/-- An access performed: what it reads, with the syndromes of a DRAM row it decoded, and its write made. `p` is the site
whose tiles hold the line. -/
def perform (s : Stack) (p : Nat) (a : Access) : Stack × Access :=
  let h := holding s a.addr
  let reads := accessReads s a
  let (syn, inj, s) := if reads ∧ h = .coded then decodedSyn s p a.addr else (lineSyn s a.addr, false, s)
  let old := deliver h (rawLine s a.addr) syn
  let (l, mask) := accessWrite a old
  let a := { a with result := old, unchecked := decide (h = .unchecked), syn := if reads ∧ h = .coded then syn else [],
                    done := true, inj := inj }
  if mask = 0 then (s, a)
  else (writeLineSeen (storeBite s a l mask) a.addr l mask syn, a)

/-! ### The events of a DRAM decode (R267, R298, R299, R285) -/

/-- Repair entries of a vault: its soft entries by number, and how many are in use, those of group repairs under way among them. -/
def softEntries (s : Stack) (p : Nat) : List Word := (List.range 256).map (fun n => reg s (rVltSoftRepair p n))
def softUsed (s : Stack) (p : Nat) : Nat := (softEntries s p).countP (fun w => decide (fld w 63 1 = 1)) + (s.vault p).groups.length

/-- Spare rows in use in a bank and spare groups in use in a tile, by soft and fuse entries. -/
def rowsUsed (s : Stack) (p layer bank : Nat) : Nat :=
  (softEntries s p).countP (fun w => decide (fld w 62 2 = 2 ∧ fld w 45 3 = layer ∧ fld w 41 4 = bank))
    + (s.vault p).fuses.countP (fun r => !r.group && decide (r.layer = layer ∧ r.bank = bank))
def groupsUsed (s : Stack) (p layer : Nat) : Nat :=
  (softEntries s p).countP (fun w => decide (fld w 62 2 = 3 ∧ fld w 45 3 = layer))
    + (s.vault p).fuses.countP (fun r => r.group && decide (r.layer = layer)) + (s.vault p).groups.countP (fun g => decide (g.r.layer = layer))

/-- Whether a repair finds a spare and a soft entry (R281, R285). -/
def repairRoom (s : Stack) (p : Nat) (r : Repair) : Bool :=
  decide (softUsed s p < 256) &&
    (if r.group then decide (groupsUsed s p r.layer < 4) else decide (rowsUsed s p r.layer r.bank < 32))

/-- A repair that firmware decides to make (R285): it joins those to be made, or REPAIR_EXHAUSTED is raised. A row or group that lies in a
spare already takes a further spare (log 81). -/
def wantRepair (s : Stack) (p : Nat) (r : Repair) : Stack :=
  let v := s.vault p
  if v.wanted.contains r ∨ v.groups.any (fun g => decide ({ g.r with spare := 0 } = r)) then s
  else if repairRoom s p r then s.setVault p { v with wanted := v.wanted ++ [r] }
  else raise s { source := fRepairExhausted, addr := haVault p, vault := siteCore s p }

/-- The row of a vault line as a repair names it. -/
def rowRepair (o : Nat) : Repair :=
  ⟨false, lineLayer (o / 512), lineBank (o / 512), lineRow (o / 512), 0, 0⟩

/-- VLT_ECC_LOG for word `w` of the line at vault offset `o` (Table 9.13). -/
def eccLog (o w : Nat) (syn : BitVec 16) : Word := bv 64 (2 ^ 63 + (o / 512) * 2 ^ 36 + w * 2 ^ 32 + syn.toNat)

/-- The event of one word's decode counted and raised. -/
def wordEvent (p v o : Nat) (s : Stack) (w : Nat) (syn : BitVec 16) : Stack :=
  let unit := haTile (lineLayer (o / 512)) p
  match (decodeWord 0 syn).2.2 with
  | .clean => s
  | .poisonSeen => setReg s (rVltEcc p) (addSat (reg s (rVltEcc p)) 48 16 1)
  | .corrected =>
    raise (setReg s (rVltEcc p) (addSat (reg s (rVltEcc p)) 0 32 1)) { source := fDramCorrected, addr := unit, vault := some v }
  | .uncorrectable =>
    let s := setReg s (rVltEcc p) (addSat (reg s (rVltEcc p)) 32 16 1)
    let log := eccLog o w syn
    let s := if fld (reg s (rVltEccLog p)) 63 1 = 1 then s else setReg s (rVltEccLog p) log
    wantRepair (raise s { source := fDramUncorrectable, addr := unit, vault := some v, detail0 := log }) p (rowRepair o)

/-- The events of a row's decode, word by word. -/
def rowEvents (s : Stack) (p addr : Nat) (syn : List (BitVec 16)) : Stack :=
  match place addr with
  | .vault v o => (List.range syn.length).foldl (fun s w => wordEvent p v o s w (syn.getD w 0)) s
  | _ => s

/-- The local address of line `l` of logical vault `v` (R33). -/
def vaultLine (v l : Nat) : Nat := v * 0x30000000 + l * 512

/-- The syndromes that a decode of the row at line `a` in the tiles of site `p` sees, with its events (R267, R526). -/
def decodeRow (s : Stack) (p a : Nat) : List (BitVec 16) × Stack :=
  let (syn, inj, s) := decodedSyn s p a
  let n := s.bus.length
  let s := rowEvents s p a syn
  (syn, markInjected inj n s)

/-! ### Entering a vault controller (R237, R241, R592) -/

/-- Sizes of the two queues of a vault controller. -/
def topSize : Nat := 64
def baseSize : Nat := 256

/-- The site whose column an access from the router takes (Table 8.2): of the vault, of the slice's or window's core,
or the S site of the pantry row bank. -/
def routerSite (s : Stack) (addr : Nat) : Option Nat :=
  match place addr with
  | .vault v _ => some (coreSite s v)
  | .window c _ => some (coreSite s c)
  | .pantry b _ => some (b * 23 + 10)
  | _ => none

/-- Whether an access of the router takes a column: a pantry access of a core takes its row's port instead (Table 8.2). -/
def takesColumn (a : Access) : Bool :=
  match a.origin, place a.addr with
  | .core _ _ _, .pantry _ _ => false
  | _, _ => true

/-- Who made an access: a core of the stack, the node of a responder transaction, a near-bank unit, a memory command, the KV engine (R392). -/
def accessSource (s : Stack) (a : Access) : Nat × Nat :=
  match a.origin with
  | .core c _ _ => (0, c)
  | .packet t => (match s.router.rsps.find? (fun r => r.id = t) with | some r => (1, r.pkt.src) | none => (2, t))
  | .nbu p _ => (3, p)
  | .firmware run _ => (4, run)
  | .kv r => (5, r)

/-- Whether access `a` is the first that waits in a list of those of its source for its line (R392). -/
def firstOfLine (s : Stack) (q : List Access) (a : Access) : Bool :=
  match q.find? (fun x => decide (x.addr / 512 = a.addr / 512 ∧ accessSource s x = accessSource s a)) with
  | some x => decide (x.id = a.id)
  | none => true

/-- VAULT_REQUEST_ARRIVE: access `id` enters the top-end queue of its core's site, or from the router the base-end queue
of the site that serves it; a full base-end queue refuses it with RETRY_LATER (R592). Accesses of one source to one line arrive in their
order (R392). -/
def vaultArrive (now : Nat) (s : Stack) (p id : Nat) : Stack :=
  let v := s.vault p
  if columnsHeld s then s
  else match v.entering.find? (fun a => a.id = id) with
  | some a =>
    if v.top.length < topSize ∧ firstOfLine s v.entering a then
      s.setVault p { v with entering := v.entering.filter (fun x => decide (x.id ≠ id)), top := v.top ++ [{ a with arrived := now }] }
    else s
  | none =>
    match s.entering.find? (fun a => decide (a.id = id) && a.refused.isNone) with
    | none => s
    | some a =>
      if routerSite s a.addr ≠ some p ∨ !takesColumn a ∨ !firstOfLine s s.entering a then s
      else if v.base.length < baseSize then
        { s.setVault p { v with base := v.base ++ [{ a with arrived := now }] } with
          entering := s.entering.filter (fun x => decide (x.id ≠ id)) }
      else
        match a.origin with
        | .packet t => refusePacket now { s with entering := s.entering.filter (fun x => decide (x.id ≠ id)) } t stRetryLater (creditBackoff s)
        | _ => { s with entering := s.entering.map (fun x =>
            if x.id = id then { x with refused := some (now + backoffCycles (creditBackoff s)) } else x) }

/-! ### Arbitration (R240, R242, R244-R247, R255, R305, R593) -/

/-- The bank of a vault line, as a key. -/
def bankKey (addr : Nat) : Option Nat :=
  match place addr with
  | .vault _ o => some (lineLayer (o / 512) * 16 + lineBank (o / 512))
  | _ => none

/-- Whether a kind of access, and an access, writes. -/
def accessWritesKind (k : AccessKind) : Bool :=
  match k with
  | .read => false
  | .row w => w
  | _ => true
def accessWrites (a : Access) : Bool := accessWritesKind a.kind

/-- The column direction of an access's data slot: an atomic and a write carry data down, an RMW's first slot is a
read. -/
def slotWrites (a : Access) : Bool :=
  match a.kind with
  | .write => true
  | .atomic _ _ _ _ => true
  | .row w => w
  | _ => false

/-- The data slot of an access granted at `g` (Tables 8.3, 8.5, 8.10); none where it is found later (R593). -/
def slotOf (path : Nat) (top : Bool) (a : Access) (g : Nat) : Option VaultSlot :=
  let lanes := decide (path ≠ 0)
  let len := if lanes then 16 else 1
  let atTop := (bankKey a.addr).isNone
  if slotWrites a then
    if top then some ⟨g + (if lanes then 11 else 8), len, true⟩ else some ⟨g + (if lanes && !atTop then 0 else 2), len, true⟩
  else if atTop then none
  else some ⟨g + 42, len, false⟩

/-- Whether a slot is permitted beside those given (R242, R255). -/
def slotFits (slots : List VaultSlot) (x : VaultSlot) : Bool :=
  let gap := if x.len = 1 then 3 else 4
  slots.all (fun y =>
    decide (x.cycle + x.len ≤ y.cycle ∨ y.cycle + y.len ≤ x.cycle) &&
      (decide (x.write = y.write) || decide (x.cycle + x.len - 1 + gap ≤ y.cycle ∨ y.cycle + y.len - 1 + gap ≤ x.cycle)))

/-- The rank of a waiting request (Table 8.4): `kind` is 0 top-end, 1 base-end, 2 near-bank, 3 stack firmware. -/
def rankOf (now kind : Nat) (a : Access) : Nat := if now ≥ a.arrived + 2 + 4096 then 1 else kind + 2

/-- Every request that waits at a vault controller with its kind. -/
def waitingAt (v : VaultCtl) : List (Nat × Access) :=
  v.top.map (fun a => (0, a)) ++ v.base.map (fun a => (1, a)) ++ v.nbu.map (fun a => (2, a)) ++ v.firm.map (fun a => (3, a))

/-- The hierarchy address of who asks a vault controller, by the kind of the request (R38): its core, the router or a KV agent, its near-bank
unit, stack firmware. -/
def askerAddr (p : Nat) (e : Nat × Access) : Nat :=
  match e.1 with
  | 0 => haSite p
  | 1 => (match e.2.origin with | .kv r => haKvAgent r | _ => haRouter)
  | 2 => haNbu p
  | _ => haController

/-- Whether a request precedes another in arrival; of one cycle, the lower hierarchy address goes first (R245, R40), and of one unit the
request that it made first. -/
def cameBefore (p : Nat) (a b : Nat × Access) : Bool :=
  decide (a.2.arrived < b.2.arrived ∨ (a.2.arrived = b.2.arrived ∧
    (askerAddr p a < askerAddr p b ∨ (askerAddr p a = askerAddr p b ∧ a.2.id < b.2.id))))

/-- Whether the row budget of the present window of 1,024 cycles has room (R247). -/
def rateRoom (s : Stack) (p now : Nat) : Bool :=
  let v := s.vault p
  let used := if v.window = now / 1024 then v.rows else 0
  decide (used < fld (reg s (rVltRate p)) 0 11)

/-- Whether a bank is free at cycle `now` for a row command: its last occupation is over and no RMW has its write still to come there (R240,
R305). -/
def bankFree (v : VaultCtl) (now addr : Nat) : Bool :=
  match bankKey addr with
  | some k => decide (tget (fun _ => 0) v.busy k ≤ now) && !v.rmw.any (fun r => decide (r.1 = k))
  | none => true

/-- A vault controller at which RMWs have been dropped: the refreshes that fell due behind them are issued (R249). -/
def settleOwed (v : VaultCtl) : VaultCtl :=
  let free := v.owed.filter (fun e => !v.rmw.any (fun r => decide (r.1 = e.1)))
  { v with owed := v.owed.filter (fun e => v.rmw.any (fun r => decide (r.1 = e.1)))
           busy := free.foldl (fun b e => tset (fun _ => 0) b e.1 (tget (fun _ => 0) b e.1 + 100 * e.2)) v.busy }

/-- Whether the TSV lanes let a transfer be granted at cycle `now`: 16 cycles after the last one (R255). -/
def lanesLet (v : VaultCtl) (now : Nat) : Bool := decide (v.path = 0) || v.lastGrant.all (fun g => decide (g + 16 ≤ now))

/-- Whether the column has room at cycle `now` for a request of a kind: its bank is free, its data slot is permitted, on the TSV lanes 16
cycles have passed since the last grant, no RMW waits for its write slot before a read, the rate budget has room (R240, R242, R247, R255,
R305). -/
def columnRoom (s : Stack) (p now : Nat) (e : Nat × Access) : Bool :=
  let v := s.vault p
  let a := e.2
  bankFree v now a.addr
    && (match slotOf v.path (decide (e.1 = 0)) a now with | some x => slotFits v.slots x | none => true)
    && lanesLet v now
    && (slotWrites a || !v.rmw.any (fun r => decide (r.2.1 ≤ now)))
    && rateRoom s p now

/-- Whether a waiting request is eligible at cycle `now` (R244, R305, R307). -/
def eligible (s : Stack) (p now : Nat) (e : Nat × Access) : Bool :=
  let a := e.2
  decide (a.arrived + 2 ≤ now)
    && (waitingAt (s.vault p)).all (fun x => decide (x.2.addr ≠ a.addr) || decide (x.2.id = a.id) || !cameBefore p x e)
    && columnRoom s p now e

/-- The request granted: the eligible one of the highest rank, the first arrived within it (R245). -/
def pickGrant (s : Stack) (p now : Nat) : Option (Nat × Access) :=
  (waitingAt (s.vault p)).foldl (fun best e =>
    if eligible s p now e then
      match best with
      | none => some e
      | some b =>
        let r := rankOf now e.1 e.2
        let rb := rankOf now b.1 b.2
        if r < rb ∨ (r = rb ∧ cameBefore p e b) then some e else best
    else best) none

/-- How long a granted row command holds its bank (R240, R271): 180 cycles for a partial-word write of a PROTECTED
region, and an RMW until its write is granted. -/
def bankHold (s : Stack) (a : Access) : Nat :=
  match a.kind with
  | .read => 100
  | .write => if maskPartial a.mask && decide (holding s a.addr = .coded) then 180 else 100
  | .row w => if w && maskPartial a.mask && decide (holding s a.addr = .coded) then 180 else 100
  | .atomic _ _ _ _ => if holding s a.addr = .coded then 180 else 100
  | _ => 160

/-- The counts of a grant (R261, R262): row reads and writes, the longest wait, turns of the column. -/
def countGrant (s : Stack) (p now : Nat) (a : Access) : Stack :=
  let v := s.vault p
  let s := if (bankKey a.addr).isNone then s
    else setReg s (rVltCount p) (addSat (reg s (rVltCount p)) (if accessWrites a then 32 else 0) 32 1)
  let w := reg s (rVltWait p)
  let w := setFld w 0 32 (max (fld w 0 32) (min 0xFFFFFFFF (now - (a.arrived + 2))))
  let w := if v.lastWrite = some (!slotWrites a) then addSat w 32 32 1 else w
  let s := setReg s (rVltWait p) w
  let v := s.vault p
  s.setVault p { v with lastGrant := some now, lastWrite := some (slotWrites a), window := now / 1024,
                        rows := (if v.window = now / 1024 then v.rows else 0) + 1, tickRows := v.tickRows + 1 }

/-- The stack with a request gone from the queues of a vault controller. -/
def dequeue (s : Stack) (p id : Nat) : Stack :=
  let v := s.vault p
  let out := fun (q : List Access) => q.filter (fun x => decide (x.id ≠ id))
  s.setVault p { v with top := out v.top, base := out v.base, nbu := out v.nbu, firm := out v.firm }

/-- A line of a region that a near-bank unit may not write (R308). -/
def nbuProtected (s : Stack) (a : Access) : Bool :=
  (match a.origin with | .nbu _ _ => true | _ => false) && accessWrites a && decide (holding s a.addr = .coded)

/-- NBU_LOG filled while VALID is 0, and the fault raised (R323, R329): kind, line. Table 10.10 says of LINE what it is for a refused or out-of-range
line and for NBU_INDEX; of another kind the callers give 0, and of a poisoned index its element (DESIGN CHOICE, log 112). -/
def nbuFault (s : Stack) (p : Nat) (v kind source line : Nat) (detail1 : Word) : Stack :=
  let n := tget (fun _ => Nbu.reset) s.nbus v
  let (ix, tk) := match n.run with
    | some r => (match r.job with | some j => (j.idx, r.tick) | none => (r.todo.headD 0, r.tick))
    | none => (0, 0)
  let log := bv 64 (2 ^ 63 + kind * 2 ^ 60 + (ix % 256) * 2 ^ 52 + (tk % 65536) * 2 ^ 32 + min line 0x1FFFFF)
  let s := if fld (reg s (rNbuLog p)) 63 1 = 1 then s else setReg s (rNbuLog p) log
  let n := { n with run := n.run.map (fun r => { r with failed := true }) }
  let s := { s with nbus := tset (fun _ => Nbu.reset) s.nbus v n }
  raise s { source := source, addr := haNbu p, vault := some v, detail0 := log, detail1 := detail1 }

/-- The line index of a vault address. -/
def lineIndex (addr : Nat) : Nat := match place addr with | .vault _ o => o / 512 | _ => 0

/-- A granted access at its place: a line of DRAM is performed and joins the transfers in flight; an RMW also waits for
the grant of its write; an access to the top of the column goes to its target (R241, R305, R593). -/
def granted (now : Nat) (s : Stack) (p : Nat) (top : Bool) (a : Access) : Stack :=
  let hold := bankHold s a
  let path := (s.vault p).path
  match bankKey a.addr with
  | some k =>
    let (s, b) := perform s p { a with granted := now }
    let v := s.vault p
    let slots := match slotOf path top a now with | some x => v.slots ++ [x] | none => v.slots
    let v := { v with busy := tset (fun _ => 0) v.busy k (now + hold), slots := slots }
    match a.kind with
    | .rmwElem _ _ _ => s.setVault p { v with rmw := v.rmw ++ [(k, now + 52, b)] }
    | .rmwAdds _ _ => s.setVault p { v with rmw := v.rmw ++ [(k, now + 52, b)] }
    | _ => s.setVault p { v with flight := v.flight ++ [b] }
  | none =>
    let v := s.vault p
    let s := match slotOf path top a now with
      | some x => s.setVault p { v with slots := v.slots ++ [x] }
      | none => s
    let a := { a with granted := now }
    let s := { s with topside := s.topside ++ [a] }
    match place a.addr with
    | .window c o => if 0x800000 ≤ o then { s with slices := setListAt s.slices c (listAt s.slices c ++ [a]) } else s
    | .pantry b o =>
      let key := b * 16 + o / 512 % 16
      { s with subbanks := setListAt s.subbanks key (listAt s.subbanks key ++ [PantryOp.ivton a.id (s.aclk + 4)]) }
    | _ => s

/-- The first data slot for a write at or after cycle `now` that those given permit (R242). -/
def firstWriteSlot (v : VaultCtl) (now : Nat) : Option VaultSlot :=
  let x := fun (i : Nat) => (⟨now + i, if v.path = 0 then 1 else 16, true⟩ : VaultSlot)
  ((List.range 512).find? (fun i => slotFits v.slots (x i))).map x

/-- The write of an RMW whose result is ready, granted ahead of every request in the first data slot that is permitted: its bank frees 32
cycles after the slot, and then takes the refreshes that have fallen due on it; the column may turn for the write (R249, R255, R262, R305). -/
def grantRmwWrite (s : Stack) (p now : Nat) : Option Stack :=
  let v := s.vault p
  match v.rmw.find? (fun r => decide (r.2.1 ≤ now) && lanesLet v now) with
  | none => none
  | some (k, _, a) =>
    (firstWriteSlot v now).map (fun x =>
      let s := s.setVault p { v with
        rmw := v.rmw.filter (fun r => decide (r.2.2.id ≠ a.id)), slots := v.slots ++ [x], flight := v.flight ++ [a]
        busy := tset (fun _ => 0) v.busy k (x.cycle + 32 + 100 * tget (fun _ => 0) v.owed k), owed := tdel v.owed k
        lastGrant := some now, lastWrite := some true }
      if v.lastWrite = some false then setReg s (rVltWait p) (addSat (reg s (rVltWait p)) 32 32 1) else s)

/-- VAULT_GRANT: stored bits flipped by upsets stand as they are; then at most one row command is granted in the cycle,
the write of a ready RMW first (R242, R245, R305, R308); none while the column's coils are tested (R533). -/
def vaultGrant (now : Nat) (s : Stack) (p : Nat) (u : DramUpsets) : Stack :=
  let s := flipDram s u
  if (s.vault p).lastGrant = some now ∨ testing s p then s
  else
    match grantRmwWrite s p now with
    | some s => s
    | none =>
      match pickGrant s p now with
      | none => s
      | some (kind, a) =>
        let s := dequeue s p a.id
        if nbuProtected s a then
          match a.origin with
          | .nbu v _ =>
            let s := nbuFault s p v 0 fNbuProtect (lineIndex a.addr) 0
            let x := s.vault p
            s.setVault p { x with flight := x.flight ++ [{ a with done := true, syn := [] }] }
          | _ => s
        else granted now (countGrant s p now a) p (decide (kind = 0)) a

/-! ### Delivery over the column (R241, R277, R278) -/

/-- The checker that receives a transfer: 0 at the top end, 1 at the base end, 2 on TSV lanes (Table 16.4). -/
def columnChecker (path : Nat) (top : Bool) : Nat := if path ≠ 0 then 2 else if top then 0 else 1

/-- Whether an access is from the site's own core, at the top end. -/
def isTop (s : Stack) (p : Nat) (a : Access) : Bool :=
  match a.origin with
  | .core c _ _ => decide (coreSite s c = p) && (match place a.addr with | .vault v _ => decide (v = c) | _ => false)
  | _ => false

/-- COL_REPLAY raises counted against FLT_REPAIR_CFG.COIL_REPLAY_LIMIT within one second, and a COL_FAULT, make a coil
test due, which a member at a tick boundary begins at once (R533). -/
def noteReplays (now : Nat) (s : Stack) (p n : Nat) (fault : Bool) : Stack :=
  let v := s.vault p
  let second := 1000000 * cyclesUs
  let rs := v.replays.filter (fun t => decide (now < t + second)) ++ List.replicate (min n 3) now
  let lim := fld (reg s rFltRepairCfg) 16 16
  beginTest (s.setVault p { v with replays := rs, testDue := v.testDue || fault || (decide (lim ≠ 0) && decide (lim ≤ rs.length)) })

/-- The words of a stored line poisoned in place (R278). -/
def poisonStored (s : Stack) (a : Access) (failing : BitVec 16) (mask : BitVec 512) : Stack :=
  (List.range 16).foldl (fun s w =>
    if failing.getLsbD w && decide (maskWord mask w ≠ 0) then
      { s with marks := tset (fun _ => 0) s.marks (a.addr / 32 + w) 0xFFFF#16 }
    else s) s

/-- Whether the top end of a column receives a transfer: that of the site's own core, or a write to what is served at the top (R593). -/
def receivesTop (s : Stack) (p : Nat) (a : Access) : Bool := isTop s p a || ((bankKey a.addr).isNone && slotWrites a)

/-- One transfer over a column, with `fails` failed transmissions: replay events, COL_FAULT and its poison, and the
events of the row's decode. What the KV engine moves it takes and gives itself, so the words that failed are told to it (log 84). -/
def columnTransfer (now : Nat) (s : Stack) (p : Nat) (a : Access) (fails : Nat) (failing : BitVec 16) : Stack × Access :=
  let v := s.vault p
  let (n, inj, s) := transferFails s (haColumn p) (columnChecker v.path (receivesTop s p a)) fails
  let s := raiseReplays s fColReplay fColFault (haColumn p) n none inj
  let s := noteReplays now s p n (decide (n ≥ 4))
  let s := markInjected a.inj s.bus.length (rowEvents s p a.addr a.syn)
  let all := if inj then 0xFFFF#16 else failing
  if n ≥ 4 ∧ accessWrites a ∧ a.kind ≠ .row true then (poisonStored s a all (accessWrite a a.result).2, a)
  else (s, { a with result := acceptedLine a.result n failing inj })

/-- COLUMN_TRANSFER_DONE: the oldest transfer of a core, of Ivton, of stack firmware or of the KV engine delivers its line or its acknowledgement. -/
def columnDone (now : Nat) (s : Stack) (p fails : Nat) (failing : BitVec 16) : Stack :=
  let v := s.vault p
  match v.flight.find? (fun a => match a.origin with | .nbu _ _ => false | _ => true) with
  | none => s
  | some a =>
    let s := s.setVault p { v with flight := v.flight.filter (fun x => decide (x.id ≠ a.id)) }
    let (s, a) := columnTransfer now s p a fails failing
    answerAccess now s a

/-- RATE_WINDOW_START (R247). -/
def rateWindow (now : Nat) (s : Stack) (p : Nat) : Stack :=
  let v := s.vault p
  s.setVault p { v with window := now / 1024, rows := 0, slots := v.slots.filter (fun x => decide (now ≤ x.cycle + x.len + 4)) }

/-- REFRESH_DUE: the refresh of a bank is issued in the first cycle in which the bank is free, for 100 cycles (R240, R248, R249): after the RMW
whose write is still to be granted there. A layer in self-refresh takes none. -/
def refreshDue (now : Nat) (s : Stack) (p bank layer : Nat) : Stack :=
  let v := s.vault p
  if v.selfRefresh.getLsbD layer then s
  else
    let k := layer * 16 + bank
    let waits := v.rmw.any (fun r => decide (r.1 = k))
    s.setVault p { v with
      busy := if waits then v.busy else tset (fun _ => 0) v.busy k (max now (tget (fun _ => 0) v.busy k) + 100)
      owed := if waits then tset (fun _ => 0) v.owed k (tget (fun _ => 0) v.owed k + 1) else v.owed
      refreshes := tset (fun _ => 0) v.refreshes k (tget (fun _ => 0) v.refreshes k + 1) }

/-! ### Slices, windows and the pantry from the column (R250, R391, R593) -/

/-- Marks access `id` at the top of a column as performed. -/
def topPerformed (s : Stack) (a : Access) : Stack :=
  { s with topside := s.topside.map (fun x => if x.id = a.id then a else x) }

/-- The rank of an access at a slice bank (R250). -/
def sliceRank (c : Nat) (a : Access) : Nat :=
  match a.origin with
  | .core k _ _ => if k = c then (if accessWrites a then 0 else 1) else 2
  | _ => 2

/-- SLICE_BANK_GRANT: the highest-ranked access of a bank is performed (R250). -/
def sliceGrant (s : Stack) (c bank : Nat) (u : Upsets) (now : Nat) : Stack :=
  let q := (listAt s.slices c).filter (fun a => decide (a.addr / 512 % 16 = bank))
  let best := q.foldl (fun b a => match b with
    | none => some a
    | some x => if sliceRank c a < sliceRank c x then some a else some x) none
  match best with
  | none => s
  | some a =>
    let p := coreSite s c
    let s := { s with slices := setListAt s.slices c ((listAt s.slices c).filter (fun x => decide (x.id ≠ a.id))) }
    let s := injectSram (applyUpsets s u) (haSlice p) 0 (a.addr / 32)
    let (s, a) := perform s p a
    if sliceRank c a = 2 then topPerformed s a else answerAccess now s a

/-- The data slot of a read that is served at the top of a column, once its data is ready: the present cycle, where no granted transfer
holds it and R242 permits it (R593); none where the read must wait for a later one. A write has had its slot from its grant. -/
def topSlot (now : Nat) (s : Stack) (a : Access) : Option Stack :=
  if slotWrites a then some s
  else match routerSite s a.addr with
  | none => some s
  | some p =>
    let v := s.vault p
    let x : VaultSlot := ⟨now, if v.path = 0 then 1 else 16, false⟩
    if slotFits v.slots x then some (s.setVault p { v with slots := v.slots ++ [x] }) else none

/-- TOP_ACCESS_COMPLETE: an access at the top of a column that its target has performed, or an access to a core's
memory, is answered after its transfer over the column, which may fail (R277, R593, R180, R195); accesses to one line go in their order (R392), and
SRAM reads may fail their parity (R275). -/
def topComplete (now : Nat) (s : Stack) (id : Nat) (u : Upsets) (fails : Nat) (failing : BitVec 16) : Stack :=
  match s.topside.find? (fun a => a.id = id) with
  | none => s
  | some a =>
    if !firstOfLine s s.topside a then s
    else match topSlot now s a with
    | none => s
    | some t =>
      let gone := { t with topside := t.topside.filter (fun x => decide (x.id ≠ id)) }
      let sent := fun (s : Stack) (a : Access) => match routerSite s a.addr with
        | some p => let (s, a) := columnTransfer now s p a fails failing; answerAccess now s a
        | none => answerAccess now s a
      if a.done then sent gone a
      else
        match place a.addr with
        | .window c o =>
          if o < 0x800000 then
            let (s, a) := perform (applyUpsets gone u) (coreSite s c) a
            sent s a
          else s
        | _ => s

/-! ### Row ports (R160-R164) -/

/-- Windows and writes a row port holds (R163). -/
def portSize : Nat := 16

/-- Windows closed by the clock: at the end of the fourth cycle (R161). -/
def closeWindows (r : Row) (t : Nat) : Row :=
  { r with windows := r.windows.map (fun w => if w.closed.isNone ∧ w.opened + 4 ≤ t then { w with closed := some (w.opened + 4) } else w) }

/-- The stack with a request of a core marked as arrived at its port, or as waiting for it again. -/
def setArrived (b : Bool) (s : Stack) (a : Access) : Stack :=
  match a.origin with
  | .core c req _ => s.onCore c (fun k => { k with reqs := k.reqs.map (fun r => if r.id = req then { r with arrived := b } else r) })
  | _ => s

/-- The stack with a request of a core marked as arrived at its port. -/
def markArrived (s : Stack) (a : Access) : Stack := setArrived true s a

/-- A request at the port of a row in cycle `t`: a read joins or opens a window, a write takes a slot and closes the
window of its line; none where no slot is free (R161-R163). Of the reads of one cycle that would open a window the lowest core opens it
(R164). `fresh` says that the request arrives now, and has not waited. -/
def portTake (s : Stack) (row core : Nat) (a : Access) (t : Nat) (fresh : Bool) : Option Stack :=
  let r := closeWindows (s.row row) t
  if accessWrites a then
    if r.writes.length < portSize then
      some (markArrived (s.setRow row { r with
        writes := r.writes ++ [⟨core, a.id, a.addr, t, 0⟩]
        windows := r.windows.map (fun w => if w.addr = a.addr ∧ w.closed.isNone then { w with closed := some (t + 1) } else w) }) a)
    else none
  else if r.windows.any (fun w => decide (w.addr = a.addr) && w.closed.isNone) then
    some (markArrived (s.setRow row { r with windows := r.windows.map (fun w =>
      if w.addr = a.addr ∧ w.closed.isNone then
        { w with members := w.members ++ [(core, a.id)], opener := if w.opened = t then min w.opener core else w.opener }
      else w) }) a)
  else if r.windows.length < portSize then
    some (markArrived (s.setRow row { r with windows := r.windows ++ [⟨a.addr, t, core, [(core, a.id)], none, 0, fresh⟩] }) a)
  else none

/-- The access of core `c` for the pantry that has not reached its port. -/
def pantryAccess (s : Stack) (c : Nat) (e : Engine) : Option Access :=
  s.entering.find? (fun a =>
    (match a.origin with
     | .core k req _ => decide (k = c) && (match findReq s c req with
         | some r => decide (r.e = e) && !(s.row (coreRow c)).waiting.any (fun w => decide (w.2 = (c, a.id)))
             && !(s.row (coreRow c)).writes.any (fun w => decide (w.id = a.id))
             && !(s.row (coreRow c)).windows.any (fun w => w.members.contains (c, a.id))
         | none => false)
     | _ => false) && (match place a.addr with | .pantry _ _ => true | _ => false) && !a.done)

/-- The window that a request arriving in the same cycle has opened, of the highest opener above core `c` (R164). -/
def laterWindow (r : Row) (c t : Nat) : Option PortWindow :=
  r.windows.foldl (fun b w =>
    if w.fresh ∧ w.opened = t ∧ w.closed.isNone ∧ c < w.opener ∧ b.all (fun x => decide (x.opener < w.opener)) then some w else b) none

/-- The stack with a window given up: its members wait from cycle `t` on. -/
def giveUpWindow (s : Stack) (row t : Nat) (w : PortWindow) : Stack :=
  let r := s.row row
  let s := s.setRow row { r with windows := r.windows.erase w, waiting := r.waiting ++ w.members.map (fun m => (t, m)) }
  w.members.foldl (fun s m => match s.entering.find? (fun a => a.id = m.2) with | some a => setArrived false s a | none => s) s

/-- The stack with the latest clock cycle of ACLK that a row port has named. -/
def seenAclk (s : Stack) (t : Nat) : Stack := { s with aclk := max s.aclk t }

/-- PANTRY_REQUEST_ARRIVE in ACLK cycle `t`. A read that could join an open window waits too while others wait for a slot since an earlier cycle:
R163 has every request that arrives then wait behind them, R161 has every later read join (DESIGN CHOICE, log 82). Of the reads of one cycle that
open windows, too many for the free slots, those of the lowest cores do (R164). -/
def pantryArrive (s : Stack) (c : Nat) (e : Engine) (t : Nat) : Stack :=
  let s := seenAclk s t
  match pantryAccess s c e with
  | none => s
  | some a =>
    let row := coreRow c
    let r := closeWindows (s.row row) t
    let wait := fun (s : Stack) => s.setRow row { s.row row with waiting := (s.row row).waiting ++ [(t, c, a.id)] }
    if r.waiting.any (fun w => decide (w.1 < t)) then wait s
    else
      match portTake s row c a t true with
      | some s => s
      | none =>
        match (if accessWrites a then none else laterWindow r c t) with
        | none => wait s
        | some w => (portTake (giveUpWindow (s.setRow row r) row t w) row c a t true).getD (wait s)

/-- Waiting requests by the cycle of their arrival, and of one cycle by ascending core, in order of arrival within a core (R163). -/
def insertWaiting (w : Nat × Nat × Nat) (ws : List (Nat × Nat × Nat)) : List (Nat × Nat × Nat) :=
  match ws with
  | [] => [w]
  | x :: r => if w.1 < x.1 ∨ (w.1 = x.1 ∧ w.2.1 ≤ x.2.1) then w :: x :: r else x :: insertWaiting w r
def waitingOrder (ws : List (Nat × Nat × Nat)) : List (Nat × Nat × Nat) := ws.foldr insertWaiting []

/-- A waiting request that takes a free slot of its kind; it goes on waiting where there is none. -/
def takeSlot (row t : Nat) (s : Stack) (w : Nat × Nat × Nat) : Stack :=
  let gone := s.setRow row { s.row row with waiting := (s.row row).waiting.erase w }
  match s.entering.find? (fun a => a.id = w.2.2) with
  | none => gone
  | some a => (portTake gone row w.2.1 a t false).getD s

/-- Waiting requests take free slots one each (R163). -/
def takeSlots (row t : Nat) (s : Stack) : Stack := (waitingOrder (s.row row).waiting).foldl (takeSlot row t) (seenAclk s t)

/-- PANTRY_WINDOW_CLOSE in ACLK cycle `t`. -/
def windowClose (s : Stack) (row t : Nat) : Stack := (seenAclk s t).setRow row (closeWindows (s.row row) t)

/-- Eligible operations of a port in cycle `t` with their order (R164): opening or arrival cycle, window before write,
core. -/
def portEligible (r : Row) (t : Nat) : List ((Nat × Nat × Nat) × (PortWindow ⊕ PortWrite)) :=
  r.windows.filterMap (fun w => match w.closed with
    | some c => if c ≤ t then some ((w.opened, 0, w.opener), Sum.inl w) else none
    | none => none)
  ++ r.writes.filterMap (fun w => if w.arrived < t then some ((w.arrived, 1, w.core), Sum.inr w) else none)

/-- Lexical order of triples. -/
def keyLt (a b : Nat × Nat × Nat) : Bool :=
  decide (a.1 < b.1 ∨ (a.1 = b.1 ∧ (a.2.1 < b.2.1 ∨ (a.2.1 = b.2.1 ∧ a.2.2 < b.2.2))))

/-- The entry of a list that the least key is of, the first of several. -/
def leastOf {α : Type} (l : List ((Nat × Nat × Nat) × α)) : Option ((Nat × Nat × Nat) × α) :=
  l.foldl (fun b e => match b with
    | none => some e
    | some x => if keyLt e.1 x.1 then some e else some x) none

/-- The sub-bank of a pantry line, as a key (R251). -/
def subbankKey (addr : Nat) : Nat :=
  match place addr with
  | .pantry b o => b * 16 + o / 512 % 16
  | _ => 0

/-- PANTRY_PORT_ISSUE in ACLK cycle `t`: the first eligible operation goes to its sub-bank, its slot free; one operation issues in a cycle
(R160, R164). -/
def portIssue (s : Stack) (row t : Nat) : Stack :=
  let r := closeWindows (s.row row) t
  let s := seenAclk s t
  if r.lastIssue = some t then s.setRow row r
  else
  match leastOf (portEligible r t) with
  | none => s.setRow row r
  | some (_, Sum.inl w) =>
    let s := s.setRow row { r with windows := r.windows.filter (fun x => decide (x ≠ w)), lastIssue := some t }
    let k := subbankKey w.addr
    { s with subbanks := setListAt s.subbanks k (listAt s.subbanks k ++ [PantryOp.window row { w with issued := t }]) }
  | some (_, Sum.inr w) =>
    let s := s.setRow row { r with writes := r.writes.filter (fun x => decide (x ≠ w)), lastIssue := some t }
    let k := subbankKey w.addr
    { s with subbanks := setListAt s.subbanks k (listAt s.subbanks k ++ [PantryOp.write row { w with issued := t }]) }

/-! ### Sub-banks of the pantry (R251-R254) -/

/-- |a − b|. -/
def dist (a b : Nat) : Nat := if a < b then b - a else a - b

/-- The ACLK cycle in which an operation reaches its sub-bank: four after a row port has issued it (R252). -/
def subbankArrival (o : PantryOp) : Nat :=
  match o with
  | .window _ w => w.issued + 4
  | .write _ w => w.issued + 4
  | .kv _ _ t => t
  | .ivton _ t => t

/-- The order of operations at a sub-bank of row bank `b` (R253): own row port; other row ports by distance, then row; KV agents likewise; Ivton. -/
def subbankOrder (b : Nat) (o : PantryOp) : Nat :=
  match o with
  | .window r _ => dist r b * 8 + r % 8
  | .write r _ => dist r b * 8 + r % 8
  | .kv r _ _ => 100 + dist r b * 8 + r % 8
  | .ivton _ _ => 200

/-- The operations at sub-bank `k` of row bank `b`, each with the cycle in which it could be granted, when the sub-bank is free and it has
arrived, and its order (R252, R253). -/
def subbankKeys (s : Stack) (b k : Nat) : List ((Nat × Nat × Nat) × PantryOp) :=
  let key := b * 16 + k
  (listAt s.subbanks key).map (fun o => ((max (subbankArrival o) (tget (fun _ => 0) s.subfree key), subbankOrder b o, 0), o))

/-- How many ACLK cycles an operation holds its sub-bank: four for a read (R252, R593), with which an atomic begins, and one for a write. -/
def subbankHold (s : Stack) (o : PantryOp) : Nat :=
  let of := fun (a : Option Access) => match a with
    | some a => (match a.kind with | .write => 1 | .row true => 1 | _ => 4)
    | none => 1
  match o with
  | .window _ _ => 4
  | .write _ w => of (s.entering.find? (fun a => a.id = w.id))
  | .kv _ a _ => of (some a)
  | .ivton id _ => of (s.topside.find? (fun a => a.id = id))

/-! ### The glaze bus (R165, R166, R277) -/

/-- The next glaze-bus cycle from `c` on that no line takes. -/
def freeGlaze (g : List (PortWindow × Line × Nat)) (c : Nat) : Nat :=
  ((List.range (g.length + 1)).find? (fun i => !g.any (fun x => decide (x.2.2 = c + i)))).elim c (fun i => c + i)

/-- A read of window `w` whose line comes to the glaze bus in cycle `c`, or in the first cycle after that of the line delivered last. Of two lines of
one cycle the one issued earlier takes it, the other the next free cycle (R165). -/
def placeGlaze (r : Row) (w : PortWindow) (l : Line) (c : Nat) : Row :=
  let c := r.lastGlaze.elim c (fun t => max c (t + 1))
  match r.glaze.find? (fun x => x.2.2 = c) with
  | none => { r with glaze := r.glaze ++ [(w, l, c)] }
  | some x =>
    if x.1.issued ≤ w.issued then { r with glaze := r.glaze ++ [(w, l, freeGlaze r.glaze c)] }
    else { r with glaze := r.glaze.map (fun y => if y = x then (x.1, x.2.1, freeGlaze r.glaze c) else y) ++ [(w, l, c)] }

/-- PANTRY_SUBBANK_GRANT: the operation that can be granted first, and of those of one cycle the first in order, is performed, and the sub-bank is
held: a read goes to its row's glaze bus, as many cycles later as it has lost, a write is acknowledged, an access of the KV engine is answered,
an Ivton access is marked as performed (R252-R254). -/
def subbankGrant (now : Nat) (s : Stack) (b k : Nat) (u : Upsets) : Stack :=
  let key := b * 16 + k
  match leastOf (subbankKeys s b k) with
  | none => s
  | some ((g, _, _), o) =>
    let s := { s with subbanks := setListAt s.subbanks key ((listAt s.subbanks key).erase o)
                      subfree := tset (fun _ => 0) s.subfree key (g + subbankHold s o) }
    let s := applyUpsets s u
    match o with
    | .window r w =>
      let s := injectSram s (haPantry b) 0 (w.addr / 32)
      s.setRow r (placeGlaze (s.row r) w (readLine s w.addr) (w.issued + 12 + 2 * dist r b + (g - (w.issued + 4))))
    | .write _ w =>
      match s.entering.find? (fun a => a.id = w.id) with
      | none => s
      | some a =>
        let s := { s with entering := s.entering.filter (fun x => decide (x.id ≠ w.id)) }
        let s := injectSram s (haPantry b) 0 (w.addr / 32)
        let (s, a) := perform s (b * 23 + 10) a
        answerAccess now s a
    | .kv _ a _ =>
      let s := injectSram s (haPantry b) 0 (a.addr / 32)
      let (s, a) := perform s (b * 23 + 10) a
      answerAccess now s a
    | .ivton id _ =>
      match s.topside.find? (fun a => a.id = id) with
      | none => s
      | some a =>
        let s := injectSram s (haPantry b) 0 (a.addr / 32)
        let (s, a) := perform s (b * 23 + 10) a
        topPerformed s a

/-- A line lands for access `id` of core `c` at once. -/
def glazeLand (l : Line) (s : Stack) (m : Nat × Nat) : Stack :=
  match s.entering.find? (fun a => a.id = m.2) with
  | none => s
  | some a =>
    let s := { s with entering := s.entering.filter (fun x => decide (x.id ≠ m.2)) }
    match a.origin with
    | .core c req sub =>
      let s := answerCore s c req sub (.line l)
      match findReq s c req with
      | none => s
      | some r =>
        let s := if coreRuns s c then
            match reqOp s c r with
            | some o => landLine s c (ldstData o) r.uid r.i l
            | none => s
          else s
        settleFaulted (finishReq s c r) c
    | _ => s

/-- The read of a row's port that is the next on the glaze bus: the one of the earliest cycle (R165). -/
def nextGlaze (g : List (PortWindow × Line × Nat)) : Option (PortWindow × Line × Nat) :=
  g.foldl (fun b x => match b with
    | none => some x
    | some y => if x.2.2 < y.2.2 then some x else some y) none

/-- GLAZE_DELIVER: the next read of a row's port is on the glaze bus and lands in every core of its window; each failed
transmission makes the port reissue it, the fourth is accepted with its failing words poisoned. -/
def glazeDeliver (s : Stack) (row fails : Nat) (failing : BitVec 16) : Stack :=
  let r := s.row row
  match nextGlaze r.glaze with
  | none => s
  | some (w, l, c) =>
    let s := s.setRow row { r with glaze := r.glaze.erase (w, l, c), lastGlaze := some c }
    let (n, inj, s) := transferFails s (haGlaze row) 0 fails
    let s := raiseReplays s fGlazeReplay fGlazeFault (haGlaze row) n none inj
    w.members.foldl (glazeLand (acceptedLine l n failing inj)) s

/-! ### Row commands that stack firmware makes one at a time (R240, R242, R245-R247, R255, R261, R530) -/

/-- A row command of stack firmware that has waited since `arrived`. -/
def firmwareAccess (addr : Nat) (write : Bool) (arrived : Nat) : Access :=
  { id := 0, origin := .firmware 0 write, kind := .row write, addr := addr, data := Line.zero, mask := if write then fullMask else 0,
    arrived := arrived, granted := 0, result := Line.zero, unchecked := false, syn := [], refused := none, done := false }

/-- Whether a vault controller grants such a row command now (Table 8.4): no command was granted in this cycle, no RMW waits for its write slot, no
request of a higher rank is eligible nor one of its rank that came earlier, none waits for its line, and there is room: for one with a transfer
that of the column, for one in the tile a free bank and the budget. -/
def firmwareMay (s : Stack) (p now : Nat) (transfer : Bool) (a : Access) : Bool :=
  let v := s.vault p
  let rank := rankOf now 3 a
  !testing s p && decide (v.lastGrant ≠ some now ∧ a.arrived + 2 ≤ now) && !v.rmw.any (fun r => decide (r.2.1 ≤ now))
    && !(waitingAt v).any (fun x => decide (x.2.addr / 512 = a.addr / 512))
    && (pickGrant s p now).all (fun b => decide (rank < rankOf now b.1 b.2 ∨ (rank = rankOf now b.1 b.2 ∧ a.arrived < b.2.arrived)))
    && (if transfer then columnRoom s p now (3, a) else bankFree v now a.addr && rateRoom s p now)

/-- A row of a bank taken for `hold` cycles. -/
def holdBank (s : Stack) (p now addr hold : Nat) : Stack :=
  match bankKey addr with
  | some k => s.setVault p { s.vault p with busy := tset (fun _ => 0) (s.vault p).busy k (now + hold) }
  | none => s

/-- A read or write of a line by stack firmware that carries it over the column of site `p` (R530): none where it cannot be granted yet. -/
def firmwareRow (now : Nat) (s : Stack) (p addr : Nat) (write : Bool) (arrived : Nat) : Option Stack :=
  let a := firmwareAccess addr write arrived
  if !firmwareMay s p now true a then none
  else
    let s := countGrant s p now a
    let v := s.vault p
    let s := match slotOf v.path false a now with | some x => s.setVault p { v with slots := v.slots ++ [x] } | none => s
    some (holdBank s p now addr 100)

/-- An in-tile row operation of stack firmware on a line of site `p` (R247, R282, R283, R287): it takes a bank for `hold` cycles and a row of the
budget, and no data slot; its wait counts (R262). None where it cannot be granted yet. -/
def tileRow (now : Nat) (s : Stack) (p addr hold arrived : Nat) : Option Stack :=
  if !firmwareMay s p now false (firmwareAccess addr false arrived) then none
  else
    let w := reg s (rVltWait p)
    let s := setReg s (rVltWait p) (setFld w 0 32 (max (fld w 0 32) (min 0xFFFFFFFF (now - (arrived + 2)))))
    let v := s.vault p
    some (holdBank (s.setVault p { v with
      lastGrant := some now, window := now / 1024, rows := (if v.window = now / 1024 then v.rows else 0) + 1, tickRows := v.tickRows + 1 })
      p now addr hold)

/-! ### Soft repairs (R281-R285, R297, R300) -/

/-- VLT_SPARES reloaded (Table 9.11). -/
def updateSpares (s : Stack) (p : Nat) : Stack :=
  let rows := (List.range 128).map (fun k => 32 - min 32 (rowsUsed s p (k / 16) (k % 16)))
  let groups := (List.range 8).foldl (fun n l => n + (4 - min 4 (groupsUsed s p l))) 0
  setReg s (rVltSpares p)
    (bv 64 ((s.vault p).fuses.length * 2 ^ 32 + softUsed s p * 2 ^ 14 + (rows.foldl min 32) * 2 ^ 6 + groups))

/-- A soft entry's register (Table 9.14). -/
def softWord (r : Repair) : Word :=
  bv 64 (2 ^ 63 + (if r.group then 2 ^ 62 else 0) + r.layer * 2 ^ 45 + r.bank * 2 ^ 41 + r.row * 2 ^ 27 + r.grp * 2 ^ 15 + r.spare)

/-- The first free soft entry. -/
def freeSoft (s : Stack) (p : Nat) : Option Nat :=
  (List.range 256).find? (fun n => decide (fld (reg s (rVltSoftRepair p n)) 63 1 = 0))

/-- The lowest spare number below `n` that no repair of the same place uses. -/
def freeSpare (s : Stack) (p : Nat) (r : Repair) (n : Nat) : Nat :=
  let taken := fun (i : Nat) =>
    (softEntries s p).any (fun w => decide (fld w 63 1 = 1 ∧ fld w 62 1 = (if r.group then 1 else 0) ∧ fld w 45 3 = r.layer ∧
        fld w 41 4 = r.bank ∧ fld w 0 5 = i))
      || (s.vault p).fuses.any (fun f => decide (f.group = r.group ∧ f.layer = r.layer ∧ f.bank = r.bank ∧ f.spare = i))
      || (r.group && (s.vault p).groups.any (fun g => decide (g.r.layer = r.layer ∧ g.r.spare = i)))
  ((List.range n).find? (fun i => !taken i)).getD 0

/-- One word copied to a spare (R282), its decode having seen `syn`: a poisoned or uncorrectable word stays poisoned, a corrected one is
written corrected. A word of a COMPUTE region is copied as it stands (R284). -/
def copyWord (s : Stack) (g : Nat) (syn : BitVec 16) : Stack :=
  if holding s (g * 32) = .coded then
    if syn = 0 then s
    else
      let a := g * 32
      let d := bv 256 (leNat (fun i => readByte s.mem (a + i)) 32)
      let (d', bad, _) := decodeWord d syn
      { s with mem := writeBytes s.mem a ((List.range 32).map (fun i => (d' >>> (8 * i)).setWidth 8))
               marks := tset (fun _ => 0) s.marks g (if bad then 0xFFFF#16 else 0) }
  else s

/-- The row at line `a` of site `p` read and decoded, with its events, and the words of it that `q` names copied (R267, R282, R526). -/
def copyRow (s : Stack) (p a : Nat) (q : Nat → Bool) : Stack :=
  if holding s a ≠ .coded then s
  else
    let (syn, s) := decodeRow s p a
    ((List.range 16).filter q).foldl (fun s w => copyWord s (a / 32 + w) (syn.getD w 0)) s

/-- A soft repair enabled: its entry taken, VLT_SPARES updated. -/
def enableRepair (s : Stack) (p : Nat) (r : Repair) : Stack :=
  match freeSoft s p with
  | none => s
  | some n => updateSpares (setReg s (rVltSoftRepair p n) (softWord r)) p

/-- Rows of a bank, spare rows included, and the row operations of a group repair: one for each row of each of the 16 banks (R283). -/
def tileRows : Nat := 12320
def groupOps : Nat := tileRows * 16

/-- The line of a row of a tile of site `p`; of a spare row, which no address names, that of row 0 of its bank. -/
def rowLine (s : Stack) (p layer bank row : Nat) : Nat :=
  vaultLine ((siteCore s p).getD 0) ((if row < 12288 then row else 0) * 128 + bank * 8 + layer)

/-- A soft repair of site `p` taken up with the spare that it takes: a repair that firmware is to make. With no spare or entry left
REPAIR_EXHAUSTED is raised and nothing changes (R285). -/
def takeRepair (s : Stack) (p : Nat) (r : Repair) : Stack × Option Repair :=
  let v := s.vault p
  if !v.wanted.contains r then (s, none)
  else
    let s := s.setVault p { v with wanted := v.wanted.erase r }
    if repairRoom s p r then (s, some { r with spare := freeSpare s p r (if r.group then 4 else 32) })
    else (raise s { source := fRepairExhausted, addr := haVault p, vault := siteCore s p }, none)

/-- The cycle since which the row operation of a soft repair that is presented now waits, and the site with that cycle kept. -/
def repairSince (now : Nat) (s : Stack) (p : Nat) : Nat := (s.vault p).repairAt.getD (now - 2)
def waitRepair (now : Nat) (s : Stack) (p : Nat) : Stack := s.setVault p { s.vault p with repairAt := some (repairSince now s p) }

/-- SOFT_ROW_REPAIR: one in-tile row operation at rank 5, the bank held 200 cycles; the entry is enabled as it ends (R282). -/
def softRowRepair (now : Nat) (s : Stack) (p layer bank row : Nat) : Stack :=
  match takeRepair s p ⟨false, layer, bank, row, 0, 0⟩ with
  | (t, none) => t
  | (t, some r) =>
    let a := rowLine s p layer bank row
    match tileRow now t p a 200 (repairSince now s p) with
    | none => waitRepair now s p
    | some t =>
      let t := t.setVault p { t.vault p with repairAt := none }
      enableRepair (if row < 12288 then copyRow t p a (fun _ => true) else t) p r

/-- A group repair of a tile under way. -/
def groupRunOf (v : VaultCtl) (layer grp : Nat) : Option GroupRun := v.groups.find? (fun g => decide (g.r.layer = layer ∧ g.r.grp = grp))

/-- One row operation of a group repair: the word of the row that holds the group is copied and the pointer advances; after the last the
entry is enabled (R283). -/
def groupStep (now : Nat) (s : Stack) (p : Nat) (g : GroupRun) : Stack :=
  let row := g.ptr / 16
  let a := rowLine s p g.r.layer (g.ptr % 16) row
  match tileRow now s p a 180 (repairSince now s p) with
  | none => waitRepair now s p
  | some s =>
    let s := if row < 12288 then copyRow s p a (fun w => decide (w = g.r.grp / 4)) else s
    let v := { s.vault p with repairAt := none }
    if g.ptr + 1 < groupOps then s.setVault p { v with groups := v.groups.map (fun x => if x = g then { g with ptr := g.ptr + 1 } else x) }
    else enableRepair (s.setVault p { v with groups := v.groups.erase g }) p g.r

/-- SOFT_GROUP_REPAIR: the next row operation of the repair of a group, which it begins where stack firmware is to make it (R283, R285). -/
def softGroupRepair (now : Nat) (s : Stack) (p layer grp : Nat) : Stack :=
  match groupRunOf (s.vault p) layer grp with
  | some g => groupStep now s p g
  | none =>
    match takeRepair s p ⟨true, layer, 0, 0, grp, 0⟩ with
    | (s, none) => s
    | (s, some r) => groupStep now (s.setVault p { s.vault p with groups := (s.vault p).groups ++ [⟨r, 0⟩] }) p ⟨r, 0⟩

end Sys2Proof.Machine
end

