-- ==== Sys2Proof/Machine/Port.lean ====
section
/-! DEFINITION. The command port of a stack (13_cipauc_commands.md): the fields of a command, its reply, the checks made
on arrival (R428), the order in which commands start (R429). -/

namespace Sys2Proof.Machine
open Sys2Proof

/-! ### CRC-32C (R419) -/

/-- One bit of the reflected Castagnoli CRC. -/
def crcBit (x : BitVec 32) : BitVec 32 := if x.getLsbD 0 then (x >>> 1) ^^^ 0x82F63B78#32 else x >>> 1

/-- Eight bits. -/
def crcBits (n : Nat) (x : BitVec 32) : BitVec 32 :=
  match n with
  | 0 => x
  | k + 1 => crcBits k (crcBit x)

/-- CRC-32C of a list of bytes. -/
def crc32c (bs : List Byte) : BitVec 32 := ~~~(bs.foldl (fun c b => crcBits 8 (c ^^^ b.setWidth 32)) (BitVec.allOnes 32))

/-! ### Fields (Table 13.1) -/

def Cmd.op (c : Cmd) : Nat := fld c.w0 16 16
def Cmd.flags (c : Cmd) : Nat := fld c.w0 8 6
def Cmd.tkind (c : Cmd) : Nat := fld c.w1 0 4
def Cmd.core (c : Cmd) : Nat := fld c.w1 16 8
def Cmd.part (c : Cmd) : Nat := fld c.w1 12 2
def Cmd.arg (c : Cmd) (i : Nat) : Word := c.p.getD i 0
def Cmd.mctp (c : Cmd) : Bool := decide (c.ref.issuer = 0x10000)

/-! ### Opcodes (Tables 13.4-13.9, 17.6) -/

/-- An opcode: code, mark M, permitted TKINDs, FLAGS bits defined, mark B, parameters used as a mask. -/
structure OpInfo where
  code : Nat
  m : Bool
  kinds : List Nat
  flags : Nat
  b : Bool
  params : Nat

def opTable : List OpInfo :=
  [⟨0x0001, true, [0], 0, false, 0⟩, ⟨0x0002, true, [0], 0, false, 0⟩, ⟨0x0003, true, [0, 1], 1, false, 1⟩,
    ⟨0x0004, true, [0, 3], 1, true, 0⟩,
    ⟨0x0100, false, [0], 0, false, 1⟩, ⟨0x0101, false, [0], 0, false, 3⟩, ⟨0x0102, false, [0], 0, true, 3⟩,
    ⟨0x0103, false, [0], 0, true, 7⟩, ⟨0x0104, false, [0], 0, true, 7⟩, ⟨0x0105, false, [0], 0, true, 7⟩,
    ⟨0x0106, false, [0], 0, false, 0⟩, ⟨0x0107, false, [0], 0, true, 1⟩,
    ⟨0x0200, false, [1], 1, false, 1⟩, ⟨0x0201, false, [2], 0, false, 0⟩, ⟨0x0202, false, [0], 0, false, 15⟩,
    ⟨0x0203, false, [2], 0, true, 0⟩, ⟨0x0204, false, [2], 0, false, 0⟩, ⟨0x0205, false, [3], 0, false, 1⟩,
    ⟨0x0206, false, [2], 1, true, 0⟩, ⟨0x0207, false, [2], 0, false, 0⟩]
  ++ [⟨0x0300, false, [0], 0, false, 128⟩, ⟨0x0301, false, [0], 0, false, 143⟩, ⟨0x0302, false, [0], 0, false, 135⟩,
    ⟨0x0303, false, [0], 0, false, 135⟩, ⟨0x0304, false, [0], 0, false, 129⟩, ⟨0x0305, false, [0], 0, false, 135⟩,
    ⟨0x0306, false, [0], 0, false, 131⟩, ⟨0x0307, false, [0], 0, false, 131⟩, ⟨0x0308, false, [0], 0, false, 129⟩]
  ++ [⟨0x0400, false, [0], 0, false, 3⟩, ⟨0x0401, false, [0], 0, true, 7⟩, ⟨0x0402, false, [0], 0, false, 1⟩,
    ⟨0x0500, true, [0, 2], 0, false, 1⟩, ⟨0x0501, true, [0, 2, 3], 0, false, 7⟩, ⟨0x0502, false, [0, 2], 0, false, 0⟩,
    ⟨0x0503, false, [0, 2], 0, false, 1⟩, ⟨0x0504, true, [0, 3], 1, false, 0⟩,
    ⟨0x0600, true, [0], 0, false, 3⟩, ⟨0x0601, true, [0], 0, false, 1⟩, ⟨0x0602, false, [0], 0, false, 7⟩,
    ⟨0x0700, true, [0], 3, false, 15⟩, ⟨0x0701, true, [0, 3], 0, false, 0⟩, ⟨0x0702, true, [0], 1, true, 3⟩,
    ⟨0x0703, true, [0], 0, false, 0⟩, ⟨0x0704, false, [0], 0, false, 3⟩,
    ⟨0x0800, true, [0, 3], 0, false, 0⟩, ⟨0x0801, true, [0, 3], 0, false, 0⟩, ⟨0x0802, false, [0], 0, false, 15⟩]

/-- The row of an opcode. -/
def opInfo (code : Nat) : Option OpInfo := opTable.find? (fun o => o.code = code)

/-- Opcodes that carry a payload. -/
def opPayload (code : Nat) : Bool :=
  decide (code ∈ [0x0100, 0x0102, 0x0200, 0x0201, 0x0202, 0x0300, 0x0400, 0x0502, 0x0503, 0x0701, 0x0702, 0x0800])

/-! ### Replies (R418-R422) -/

/-- ACT_TICK of a command on this stack's partition. -/
def actTick (s : Stack) : Word := if jobRuns s then reg s rTckNumber else BitVec.allOnes 64

/-- The bytes of a list of words, little-endian. -/
def wordsBytes (ws : List Word) : List Byte := ws.flatMap (fun w => natBytes 8 w.toNat)

/-- A reply's bytes: header, result block, reply data (R418-R421); reserved bits are 0 whatever the command held there. ACT_TICK is the tick noted
when the command took effect, `tick` where none was. ELAPSED in ns from 0.4 ns cycles. -/
def replyBytes (now : Nat) (tick : Word) (c : Cmd) (status : Nat) (results : List Word) (data : List Byte) (unchecked : Bool) :
    List Byte :=
  let data := if status = stOk ∨ status = stPartial ∨ status = stPoisoned then data else []
  let w0 := setFld (setFld (setFld c.w0 15 1 1) 14 1 (if unchecked then 1 else 0)) 0 8 1
  let w1 := setFld (setFld (setFld c.w1 32 32 data.length) 24 8 0) 4 8 0
  let crc : Word := if data.isEmpty then 0 else (crc32c data).setWidth 64
  let el := min (2 ^ 64 - 1) ((now - c.at_) * 2 / 5)
  wordsBytes ([w0, w1, crc, bv 64 status, c.acted.getD tick, bv 64 el, 0, 0] ++ (List.range 8).map (fun i => results.getD i 0)) ++ data

/-- A list of bytes in pieces of 512, with the offset of each. -/
def pieces (o fuel : Nat) (bs : List Byte) : List (Nat × List Byte) :=
  match fuel with
  | 0 => []
  | n + 1 => if bs.isEmpty then [] else (o, bs.take 512) :: pieces (o + 512) n (bs.drop 512)

/-- A packet sent toward a node; from a stack without a node ID, and in answer to a command that named no node (`link` from 16 on), on the
link named (R365, R494, R548). -/
def sendTo (now : Nat) (s : Stack) (link : Nat) (k : Packet) : Stack :=
  if nodeId s = 0xFFFF ∨ 16 ≤ link then
    let l := link % 16
    if l < 8 ∧ linkUp s l then sendOn now s l k else s
  else (txPacket now s k).2

/-- A reply sent: as CMD_RPL packets to the issuing node (R388, R424), or to the module controller (R425). -/
def sendReply (now : Nat) (s : Stack) (c : Cmd) (bytes : List Byte) : Stack :=
  if c.mctp then { s with sent := .reply bytes :: s.sent }
  else (pieces 0 200 bytes).foldl (fun s e =>
    sendTo now s c.link { ty := .cmdRpl, tag := c.ptag, src := nodeId s, dst := c.ref.issuer, addr := e.1, data := e.2 }) s

/-- The command `r` that has started. -/
def startedCmd (s : Stack) (r : CmdRef) : Option Cmd := s.port.started.find? (fun c => c.ref = r)

/-- The command port without command `r`. -/
def dropCmd (s : Stack) (r : CmdRef) : Stack :=
  { s with port := { s.port with started := s.port.started.filter (fun c => decide (c.ref ≠ r)) } }

/-- A command answered with a tick of its own for ACT_TICK. -/
def replyAt (now : Nat) (tick : Word) (s : Stack) (c : Cmd) (status : Nat) (results : List Word) (data : List Byte)
    (unchecked : Bool) : Stack :=
  sendReply now (dropCmd s c.ref) c (replyBytes now tick c status results data unchecked)

/-- A command answered. -/
def reply (now : Nat) (s : Stack) (c : Cmd) (status : Nat) (results : List Word) (data : List Byte) : Stack :=
  replyAt now (actTick s) s c status results data false

/-- A command answered with a status alone. -/
def answerCmd (now : Nat) (s : Stack) (c : Cmd) (status : Nat) : Stack := reply now s c status [] []

/-- A command that has begun work whose end it waits for; `tick` is that of its effect, where it takes effect as it begins. -/
def beginCmd (s : Stack) (r : CmdRef) (tick : Option Word := none) : Stack :=
  { s with port := { s.port with started := s.port.started.map (fun c => if c.ref = r then { c with begun := true, acted := tick } else c) } }

/-! ### Checks on arrival (R428) -/

/-- Commands held and not answered (R426). -/
def heldCmds (s : Stack) : List Cmd := s.port.held ++ s.port.started ++ s.kv.waiting

def maxHeld : Nat := 64
def maxAsm : Nat := 16
def maxB : Nat := 4

/-- The areas of R431 that a range of addresses may lie in. -/
def rangeInArea (a n : Nat) : Bool :=
  decide (a + n ≤ 0x1F80000000)
    || decide (0x4000000000 ≤ a ∧ a + n ≤ 0x4024000000)
    || decide (0x5000000000 ≤ a ∧ a < 0x50A8000000 ∧ (a - 0x5000000000) / 0x1000000 = (a + n - 1 - 0x5000000000) / 0x1000000)

/-- The member list of a DOMAIN_JOIN payload. -/
def joinMembers (c : Cmd) : List Nat := (List.range (c.arg 1).toNat).map (fun i => bytesNat ((c.data.drop (2 * i)).take 2))

/-- The collective entries of a DOMAIN_JOIN payload, four words each. -/
def joinEntries (c : Cmd) : List (List Word) :=
  let o := (2 * (c.arg 1).toNat + 31) / 32 * 32
  (List.range (c.arg 3).toNat).map (fun k => (List.range 4).map (fun j => word64At c.data (o + 32 * k + 8 * j)))

/-- The last line of a vault. -/
def lastLine : Nat := 1572863

/-- Whether a collective entry satisfies R399. -/
def collEntryOk (e : List Word) : Bool :=
  let w0 := e.getD 0 0
  let w1 := e.getD 1 0
  let n := fld w0 0 6 + 1
  decide (1 ≤ fld w0 60 4 ∧ fld w0 60 4 ≤ 4) && decide (fld w0 56 4 = 0 ∨ fld w0 56 4 = 0xA)
    && decide (fld w0 40 8 ≤ 0xA7) && decide (fld w0 32 8 ≤ 0x3F) && decide (fld w0 24 8 ≤ 167) && decide (fld w0 6 18 = 0)
    && decide (fld w1 32 32 + n ≤ lastLine + 1) && decide (fld w1 0 32 + n ≤ lastLine + 1)
    && decide (e.getD 2 0 = 0 ∧ e.getD 3 0 = 0)

/-- The list has no entry twice. -/
def distinct (l : List Nat) : Bool :=
  match l with
  | [] => true
  | a :: r => !r.contains a && distinct r

/-- Ranges of a command's memory, as (first, length). -/
def cmdRanges (c : Cmd) : List (Nat × Nat) :=
  match c.op with
  | 0x0100 => [((c.arg 0).toNat, c.data.length)]
  | 0x0101 => [((c.arg 0).toNat, (c.arg 1).toNat)]
  | 0x0102 => [((c.arg 0).toNat, (c.arg 1).toNat)]
  | 0x0103 => [((c.arg 0).toNat, (c.arg 2).toNat), ((c.arg 1).toNat, (c.arg 2).toNat)]
  | 0x0104 => [((c.arg 0).toNat, (c.arg 1).toNat)]
  | 0x0105 => (if (c.arg 0).toNat = 0xFF then List.range 168 else [(c.arg 0).toNat]).flatMap (fun v =>
      ((List.range 12).filter (fun j => (c.arg 1).getLsbD j)).map (fun j => (v * 0x30000000 + j * 0x4000000, 0x4000000)))
  | _ => []

/-- Whether two ranges overlap. -/
def rangesMeet (a b : Nat × Nat) : Bool := decide (a.1 < b.1 + b.2 ∧ b.1 < a.1 + a.2)

/-- The partitions that PARTITION_SET's P0 uses, in stack order. -/
def mapParts (p : Nat) : List Nat := (List.range 4).map (fun i => p / 4 ^ i % 4)

/-- Whether a PARTITION_SET map is well formed (R435). -/
def mapOk (p : Nat) : Bool :=
  decide (p < 256) && (List.range 4).all (fun k => decide (k ∈ mapParts p) || (mapParts p).all (fun q => decide (q < k)))

/-- Positions of a page of class `c`, its meta lines, its lines. -/
def kvP (c : Nat) : Nat := 16 * 2 ^ c
def kvMeta (c : Nat) : Nat := ceilDiv (kvP c) 64
def kvPL (e c : Nat) : Nat := kvMeta c + kvP c * e

/-- The line ranges that the pool takes in each vault: (vault, first, lines); the i-th vault of a class holds the pages that are i modulo their
number (R333). -/
def poolRanges (pool seq : Word) (cls : List Word) : List (Nat × Nat × Nat) :=
  let e := fld pool 57 6 + 1
  (fld seq 0 8, fld seq 8 21, 4096 * 128) :: (List.range 9).flatMap (fun c =>
    let w := cls.getD c 0
    let pages := fld w 40 24
    let nv := fld w 8 8
    if pages = 0 ∨ nv = 0 then []
    else (List.range nv).filterMap (fun i =>
      if pages ≤ i then none else some (fld w 0 8 + i, fld w 16 21, ceilDiv (pages - i) nv * kvPL e c)))

/-- Whether no two ranges of a list meet. -/
def apart : List (Nat × Nat × Nat) → Bool
  | [] => true
  | x :: r => r.all (fun y => decide (x.1 ≠ y.1) || decide (x.2.1 + x.2.2 ≤ y.2.1 ∨ y.2.1 + y.2.2 ≤ x.2.1)) && apart r

/-- The last pantry line. -/
def lastPantry : Nat := 1179647

/-- Whether a pool payload is refused with INVALID_PARAM. -/
def poolBad (pool seq : Word) (cls : List Word) : Bool :=
  let e := fld pool 57 6 + 1
  let trays := (0, fld pool 21 21, fld pool 48 9 * (1 + 64 * e))
  let pages := ((List.range 9).map (fun c => fld (cls.getD c 0) 40 24)).foldl (· + ·) 0
  let states := (0, fld pool 0 21, ceilDiv (4 * pages) 512)
  (List.range 9).any (fun c =>
    let w := cls.getD c 0
    decide (fld w 40 24 ≠ 0) && (decide (fld w 8 8 = 0 ∨ 168 < fld w 0 8 + fld w 8 8)
      || decide (lastLine + 1 < fld w 16 21 + ceilDiv (fld w 40 24) (fld w 8 8) * kvPL e c)))
  || decide (lastLine + 1 < fld seq 8 21 + 4096 * 128 ∨ 167 < fld seq 0 8 ∨ 256 < fld pool 48 9)
  || !apart (poolRanges pool seq cls)
  || !apart ([trays, states].filter (fun x => decide (x.2.2 ≠ 0)))
  || [trays, states].any (fun x => decide (x.2.2 ≠ 0 ∧ lastPantry + 1 < x.2.1 + x.2.2))

/-- Checkers of a unit (Table 16.4 is held in `hasChecker`): the opcode checks of step 8 that depend on the command
alone (R428); none where they pass. -/
def cmdAlone (hasChecker : Nat → Nat → Bool) (c : Cmd) : Option Nat :=
  let a := fun i => (c.arg i).toNat
  let bad := fun (b : Bool) (st : Nat) (k : Option Nat) => if b then some st else k
  let inv := fun (b : Bool) => bad b stInvalidParam none
  match c.op with
  | 0x0003 => inv (decide (a 0 < 1 ∨ 5 < a 0) || (decide (a 0 = 3) && !c.mctp) || decide (a 0 = 5 ∧ c.tkind ≠ 1))
  | 0x0100 => bad (decide (a 0 % 8 ≠ 0 ∨ c.data.length < 8 ∨ c.data.length % 8 ≠ 0)) stInvalidParam
                (bad (!rangeInArea (a 0) c.data.length) stAddrInvalid none)
  | 0x0101 => bad (decide (a 0 % 8 ≠ 0 ∨ a 1 < 8 ∨ 65536 < a 1 ∨ a 1 % 8 ≠ 0)) stInvalidParam
                (bad (!rangeInArea (a 0) (a 1)) stAddrInvalid none)
  | 0x0102 => bad (decide (a 0 % 512 ≠ 0 ∨ a 1 = 0 ∨ a 1 % 512 ≠ 0 ∨ c.data.length ≠ 32)) stInvalidParam
                (bad (!rangeInArea (a 0) (a 1)) stAddrInvalid none)
  | 0x0103 => bad (decide (a 0 % 512 ≠ 0 ∨ a 1 % 512 ≠ 0 ∨ a 2 % 512 ≠ 0) || rangesMeet (a 0, a 2) (a 1, a 2)) stInvalidParam
                (bad (!rangeInArea (a 0) (a 2) || !rangeInArea (a 1) (a 2)) stAddrInvalid none)
  | 0x0104 => bad (decide (a 0 % 512 ≠ 0 ∨ a 1 % 512 ≠ 0)) stInvalidParam (bad (decide (0x1F80000000 < a 0 + a 1)) stAddrInvalid none)
  | 0x0105 => inv (decide ((167 < a 0 ∧ a 0 ≠ 0xFF) ∨ 4096 ≤ a 1 ∨ 1 < a 2))
  | 0x0107 => inv (decide (167 < a 0 ∧ a 0 ≠ 0xFF))
  | 0x0202 => inv (decide (a 0 = 0xFFFF ∨ 65536 ≤ a 0 ∨ a 1 = 0 ∨ 16384 < a 1 ∨ a 1 ≤ a 2 ∨ 64 < a 3)
                || decide (c.data.length ≠ (2 * a 1 + 31) / 32 * 32 + 32 * a 3)
                || !distinct (joinMembers c) || (joinMembers c).any (fun d => !nodeUsable d) || (joinEntries c).any (fun e => !collEntryOk e))
  | 0x0205 => inv (!mapOk (a 0))
  | 0x0300 => inv (decide (c.data.length ≠ 88)
                || poolBad (word64At c.data 0) (word64At c.data 8) ((List.range 9).map (fun i => word64At c.data (8 * (2 + i)))))
  | 0x0301 => inv (decide (4095 < a 0 ∨ 8 < fld (c.arg 1) 0 4 ∨ (fld (c.arg 1) 8 1 = 1 ∧ (fld (c.arg 1) 16 32 = 0 ∨ 8127 < fld (c.arg 1) 16 32))
                ∨ (fld (c.arg 1) 8 1 = 0 ∧ fld (c.arg 1) 16 32 ≠ 0)))
  | 0x0302 => inv (decide (4095 < a 0 ∨ 65536 < a 1))
  | 0x0303 => inv (decide (4095 < a 0 ∨ 4095 < a 1 ∨ a 0 = a 1))
  | 0x0304 => inv (decide (4095 < a 0))
  | 0x0305 => inv (decide (4095 < a 0))
  | 0x0306 => some stState
  | 0x0307 => some stState
  | 0x0308 => inv (decide (4095 < a 0))
  | 0x0400 => inv (decide (c.data.length % 32 ≠ 0 ∨ 8192 < c.data.length ∨ (167 < a 0 ∧ a 0 ≠ 0xFF) ∨ lastLine < a 1))
  | 0x0401 => inv (decide (167 < a 0 ∨ 255 < a 1))
  | 0x0402 => inv (decide (167 < a 0))
  | 0x0501 => inv (if c.tkind = 3 then decide (a 0 ≠ 0 ∨ 2400 < a 1 ∨ (a 2 ≠ 0 ∧ (a 2 < 50 ∨ 2000 < a 2)))
                else decide (a 1 ≠ 0 ∨ a 2 ≠ 0 ∨ (a 0 ≠ 0 ∧ (a 0 < 150 ∨ 680 < a 0))))
  | 0x0502 => inv (decide (c.data.length ≠ 1024) || (List.range 256).any (fun i =>
                let b := fun k => (c.data.getD (4 * i + k) 0).toNat
                decide (5 < b 0 ∨ b 1 < b 0 ∨ 5 < b 1 ∨ b 3 ≠ 0)))
  | 0x0503 => inv (decide (c.data.length < 8 ∨ 512 < c.data.length ∨ c.data.length % 8 ≠ 0)
                || (List.range (c.data.length / 8)).any (fun i =>
                let w := word64At c.data (8 * i)
                decide (fld w 8 24 ≠ 0 ∨ fld w 32 32 = 0)))
  | 0x0504 => inv (decide (c.flags % 2 = 0))
  | 0x0600 => inv (decide (a 1 < 1 ∨ 64 < a 1))
  | 0x0602 => inv (decide (65536 ≤ a 0 ∨ a 2 < 1 ∨ 65535 < a 2) || !hasChecker (a 0) (a 1))
  | 0x0700 => inv (c.mctp && decide (c.flags % 2 = 1))
  | 0x0704 => inv (decide (a 1 < 1 ∨ 65536 < a 1))
  | 0x0800 => inv (decide (c.data.length ≠ 288))
  | 0x0802 => inv (decide (65536 ≤ a 0 ∨ 64 ≤ a 2 ∨ 4 ≤ a 3) || !nodeUsable (a 0))
  | _ => none

/-- Whether a stack answers a command of opcode `op` BUSY: its partition is DISABLING (R442), or it stands in the coolant hold (R470). -/
def busyFor (s : Stack) (op : Nat) : Bool :=
  (decide (s.pstate = .disabling) && !decide (op ∈ [0x0001, 0x0002, 0x0600, 0x0206]))
    || (s.power.coolantHold && !decide (op ∈ [0x0001, 0x0002, 0x0600, 0x0601]))

/-- Whether step 7 of R428 refuses opcode `op`: the stack is QUIESCED, or not READY. -/
def wrongFor (s : Stack) (op : Nat) : Bool :=
  let free := decide (op / 256 = 0 ∨ op / 256 = 7 ∨ op / 256 = 8 ∨ op = 0x0600 ∨ op = 0x0601)
  if s.boot = .quiesced then !decide (op ∈ [0x0001, 0x0002, 0x0003]) else decide (s.boot ≠ .ready) && !free

/-- The first status of steps 1-7 of R428 and of the command's own checks that applies on arrival: none where the command
is accepted. `parts` are the partitions in use, `w2`, `w3`, `rest` the header words 2, 3 and 4-7, `plen` the payload bytes
that arrived, `reset` says that a base non-transit reset is in progress. -/
def arrivalStatus (hasChecker : Nat → Nat → Bool) (s : Stack) (parts : List Nat) (c : Cmd) (w2 w3 : Word) (rest : Bool)
    (reset : Bool) : Option Nat :=
  let limit := if c.mctp then 4096 else 65536
  let crc : BitVec 32 := if c.data.isEmpty then 0 else crc32c c.data
  let badHeader := decide (fld c.w0 0 8 ≠ 1 ∨ fld c.w0 14 2 ≠ 0 ∨ fld c.w1 24 8 ≠ 0 ∨ fld c.w1 4 8 ≠ 0 ∨ 4 ≤ c.tkind)
    || (!c.mctp && decide (c.link < 16) && decide (fld c.w1 14 2 ≠ stackIndex s)) || decide (w2 ≠ crc.setWidth 64 ∨ w3 ≠ 0) || rest
    || decide (limit < fld c.w1 32 32 ∨ fld c.w1 32 32 ≠ c.data.length)
    || (heldCmds s).any (fun x => decide (x.ref = c.ref))
  if decide (maxHeld ≤ (heldCmds s).length) || reset || busyFor s c.op then some stBusy
  else if badHeader then some stInvalidParam
  else
    match opInfo c.op with
    | none => some stInvalidOpcode
    | some o =>
      if c.mctp && !o.m then some stInvalidOpcode
      else if !o.kinds.contains c.tkind || (decide (c.tkind = 1) && decide (0xA7 < c.core))
          || (decide (c.tkind = 2) && !parts.contains c.part) || decide (c.flags &&& (63 - o.flags) ≠ 0) then some stInvalidParam
      else if decide (c.op / 256 = 4) && decide (fld (reg s rSecLicence) 0 1 = 0) then some stNotLicensed
      else if decide (c.tkind = 1) && rowRetired s (coreRow c.core) then some stState
      else if wrongFor s c.op then some stState
      else if (List.range 8).any (fun i => decide (o.params / 2 ^ i % 2 = 0) && decide (c.arg i ≠ 0)) then some stInvalidParam
      else if !opPayload c.op && !c.data.isEmpty then some stInvalidParam
      else cmdAlone hasChecker c

/-- A whole command from its bytes. -/
def cmdOfBytes (issuer link ptag now : Nat) (bs : List Byte) : Cmd :=
  let w := fun i => word64At bs (8 * i)
  { ref := ⟨issuer, (w 0 >>> 32).setWidth 32⟩, link := link, ptag := ptag, at_ := now, w0 := w 0, w1 := w 1,
    p := (List.range 8).map (fun i => w (8 + i)), data := bs.drop 128 }

/-- ACT_TICK of a command that is answered before it starts: the tick of the partition that it names, as the table `parts` has it, else of the
stack's own (Table 13.1). -/
def arrivalTick (s : Stack) (parts : Tbl Word) (c : Cmd) : Word :=
  if c.tkind = 2 then tget (fun _ => BitVec.allOnes 64) parts c.part else actTick s

/-- A whole command at the port: accepted, or answered at once (R428). `parts` holds the partitions in use, with the ticks of their jobs. -/
def arriveCmd (hasChecker : Nat → Nat → Bool) (now : Nat) (s : Stack) (parts : Tbl Word) (reset : Bool) (c : Cmd)
    (bs : List Byte) : Stack :=
  let w := fun i => word64At bs (8 * i)
  let rest := (List.range 4).any (fun i => decide (w (4 + i) ≠ 0))
  match arrivalStatus hasChecker s (parts.map (fun e => e.1)) c (w 2) (w 3) rest reset with
  | some st => sendReply now s c (replyBytes now (arrivalTick s parts c) c st [] [] false)
  | none => wake now { s with port := { s.port with held := s.port.held ++ [c] } }

/-- The bytes of an assembly in ascending offset, when they run without a gap from 0. -/
def asmBytes (a : Asm) : List Byte :=
  let get := fun (bs : List Byte) (k : Nat) => match a.segs.find? (fun e => e.1 = 512 * k) with
    | some e => bs ++ e.2
    | none => bs
  (List.range a.segs.length).foldl get []

/-- The bytes that a command of which the first segment is `bs` has in all (R388). -/
def cmdLength (bs : List Byte) : Nat := 128 + min 65537 (fld (word64At bs 8) 32 32)

/-- A CMD segment at the port (R388, R426). -/
def portSegment (hasChecker : Nat → Nat → Bool) (now : Nat) (s : Stack) (parts : Tbl Word) (reset : Bool) (link : Nat)
    (k : Packet) : Stack :=
  let done := fun (s : Stack) (bs : List Byte) => arriveCmd hasChecker now s parts reset (cmdOfBytes k.src link k.tag now bs) bs
  if k.addr = 0 then
    if k.data.length ≥ min (128 + 65537) (cmdLength k.data) ∨ 65536 < fld (word64At k.data 8) 32 32 ∨ reset then done s k.data
    else if maxAsm ≤ s.port.asm.length then
      let c := cmdOfBytes k.src link k.tag now k.data
      sendReply now s c (replyBytes now (arrivalTick s parts c) c stBusy [] [] false)
    else { s with port := { s.port with asm := s.port.asm ++ [⟨k.src, k.tag, now, link, [(0, k.data)]⟩] } }
  else
    match s.port.asm.find? (fun a => decide (a.src = k.src ∧ a.ptag = k.tag)) with
    | none => s
    | some a =>
      let a' := { a with segs := a.segs ++ [(k.addr, k.data)] }
      let bs := asmBytes a'
      let others := s.port.asm.filter (fun x => decide (x ≠ a))
      if bs.length ≥ cmdLength bs then done { s with port := { s.port with asm := others } } bs
      else { s with port := { s.port with asm := others ++ [a'] } }

/-- CMD_ASSEMBLY_TIMEOUT (R426): the segments of a command are discarded and it is answered TIMEOUT. -/
def asmTimeout (now : Nat) (s : Stack) (parts : Tbl Word) (src : Nat) (tag : BitVec 32) : Stack :=
  match s.port.asm.find? (fun a => decide (a.src = src) && decide ((word64At (asmBytes a) 0 >>> 32).setWidth 32 = tag)) with
  | none => s
  | some a =>
    let bs := asmBytes a
    let c := cmdOfBytes a.src a.link a.ptag a.at_ (bs.take 128)
    let s := { s with port := { s.port with asm := s.port.asm.filter (fun x => decide (x ≠ a)) } }
    sendReply now s c (replyBytes now (arrivalTick s parts c) c stTimeout [] [] false)

/-! ### Starting (R429) -/

/-- Whether a command is marked B. -/
def isB (c : Cmd) : Bool := match opInfo c.op with | some o => o.b | none => false

/-- Whether a started B command holds its target: a JOB_START whose job has started does not (R429). -/
def holdsTarget (b : Cmd) : Bool := !(decide (b.op = 0x0203) && b.begun)

/-- Whether a later command meets a disable in progress instead of waiting for it: PARTITION_DISABLE and PARTITION_ENABLE (R443). -/
def meetsDisable (b c : Cmd) : Bool := decide (b.op = 0x0206 ∧ b.begun = true) && decide (c.op = 0x0206 ∨ c.op = 0x0207)

/-- Whether a later command must wait for a running B command: same core, same partition, or overlapping memory. -/
def mustWait (b c : Cmd) : Bool :=
  holdsTarget b && !meetsDisable b c &&
    ((decide (b.tkind = 1 ∧ c.tkind = 1 ∧ b.core = c.core)) || (decide (b.tkind = 2 ∧ c.tkind = 2 ∧ b.part = c.part))
      || (decide (b.op = 0x0702) && decide (c.op = 0x0702 ∨ c.op = 0x0703))
      || (cmdRanges b).any (fun x => (cmdRanges c).any (rangesMeet x)))

/-- Whether a running command that is not B lets a later one start beside it: a RESET_DOMAIN takes over a running reset, or is answered BUSY, at
once (R500). -/
def letsBeside (b c : Cmd) : Bool := isB b || (decide (b.op = 0x0003 ∧ b.begun = true) && decide (c.op = 0x0003))

/-- COMMAND_START: the first command accepted starts, when no command that is not B runs, the B commands that run are
not in its way and fewer than four run (R429), the stack is not idle (R461), and a repair under way since a job boundary came after the
command was accepted (R529). -/
def startCmd (s : Stack) (r : CmdRef) : Stack :=
  match s.port.held with
  | [] => s
  | c :: rest =>
    let bs := s.port.started.filter isB
    if c.ref ≠ r ∨ s.power.idle ≠ 0 ∨ s.mend.since.any (fun t => decide (t ≤ c.at_)) ∨ s.port.started.any (fun b => !letsBeside b c) ∨ s.port.started.any (fun b => mustWait b c) then s
    else if isB c && decide (maxB ≤ bs.length) then s
    else { s with port := { s.port with held := rest, started := s.port.started ++ [c] } }

end Sys2Proof.Machine
end

