-- ==== Sys2Proof/Machine/Kv.lean ====
section
/-! DEFINITION. The KV cache engine (11_kv_cache.md): pages, sequences and trays held in memory, the commands, the phase
of a tick, the agents of the rows. -/

namespace Sys2Proof.Machine
open Sys2Proof

/-! ### Layout (R330-R338) -/

/-- Fields of KVE_POOL and KVE_SEQTAB. -/
def kvConfigured (s : Stack) : Bool := decide (fld (reg s rKvePool) 63 1 = 1)
def kvE (s : Stack) : Nat := fld (reg s rKvePool) 57 6 + 1
def kvTrays (s : Stack) : Nat := fld (reg s rKvePool) 48 9
def kvTrayBase (s : Stack) : Nat := fld (reg s rKvePool) 21 21
def kvStateBase (s : Stack) : Nat := fld (reg s rKvePool) 0 21

/-- Tray capacity of class `c`. -/
def kvT (c : Nat) : Nat := min (kvP c) 64

/-- Fields of KVE_CLASSc. -/
def kvPages (s : Stack) (c : Nat) : Nat := fld (reg s (rKveClass c)) 40 24
def kvClassBase (s : Stack) (c : Nat) : Nat := fld (reg s (rKveClass c)) 16 21
def kvNv (s : Stack) (c : Nat) : Nat := fld (reg s (rKveClass c)) 8 8
def kvFirst (s : Stack) (c : Nat) : Nat := fld (reg s (rKveClass c)) 0 8

/-- The local address of a vault line and of a pantry line. -/
def vaultAddr (v line : Nat) : Nat := v * 0x30000000 + line * 512
def pantryAddr (line : Nat) : Nat := 0x4000000000 + line * 512

/-- The address of line `k` of page (c, i). -/
def pageAddr (s : Stack) (c i k : Nat) : Nat :=
  let nv := kvNv s c
  vaultAddr (kvFirst s c + i % nv) (kvClassBase s c + i / nv * kvPL (kvE s) c + k)

/-- The address of the meta record at offset `o` of a page, and of its data line `e`. -/
def metaAddr (s : Stack) (c i o : Nat) : Nat := pageAddr s c i (o / 64) + 8 * (o % 64)
def dataAddr (s : Stack) (c i o e : Nat) : Nat := pageAddr s c i (kvMeta c + o * kvE s + e)

/-- The address of the page state of (c, i): REF then PIN, two bytes each. -/
def pageStateAddr (s : Stack) (c i : Nat) : Nat :=
  pantryAddr (kvStateBase s) + 4 * (((List.range c).map (kvPages s)).foldl (· + ·) 0 + i)

/-- The address of a sequence's descriptor and of its page-table entry `i`. -/
def descAddr (s : Stack) (q : Nat) : Nat :=
  let w := reg s rKveSeqtab
  vaultAddr (fld w 0 8) (fld w 8 21 + q * 128)
def pteAddr (s : Stack) (q i : Nat) : Nat := descAddr s q + 512 * (1 + i / 64) + 8 * (i % 64)

/-- The address of line `k` of tray `t`. -/
def trayAddr (s : Stack) (t k : Nat) : Nat := pantryAddr (kvTrayBase s + t * (1 + 64 * kvE s) + k)

/-! ### Lines that a command reads and writes (R347) -/

/-- The stack with lines noted as read, written whole or written in part by the command in progress. -/
def kvNote (s : Stack) (write part : Bool) (ls : List Nat) : Stack :=
  { s with kv := { s.kv with touched := s.kv.touched ++ ls.map (fun a => ⟨a / 512 * 512, write, part⟩) } }
def kvTouch (s : Stack) (write : Bool) (ls : List Nat) : Stack := kvNote s write false ls

/-! ### Reading and writing memory -/

/-- Why a KV command stops: a status, and the KIND of poison consumed if it was poison (Table 11.12: 1 control, 2 address). -/
structure KvStop where
  status : Nat
  poison : Nat
  deriving DecidableEq, Repr

/-- A computation of the engine. -/
abbrev KvM := Except KvStop

/-- Refused with a status. -/
def kvNo {α : Type} (st : Nat) : KvM α := .error ⟨st, 0⟩

/-- The `n` bytes at address `a` within one line, as a number; a poisoned word stops the command with a KIND (R357). -/
def kvRead (kind : Nat) (s : Stack) (a n : Nat) : KvM Nat :=
  let l := readLine s (a / 512 * 512)
  if (List.range n).any (fun i => l.marks.getLsbD ((a % 512 + i) / 32)) then .error ⟨stPoisoned, kind⟩
  else .ok (l.data.toNat / 256 ^ (a % 512) % 256 ^ n)

/-- `n` bytes written at address `a` within one line. -/
def kvWrite (s : Stack) (a n v : Nat) : Stack :=
  writeLine (kvNote s true true [a]) (a / 512 * 512) ⟨bv 4096 (v % 256 ^ n * 256 ^ (a % 512)), 0⟩ (spanMask (a % 512) n)

/-- A line written whole; a poisoned word stored in a PROTECTED region bites (R231, R290) at the agent of row `r`; of an issuer's command and of a
phase, for which the manual names no agent, the model takes that of row 0 (DESIGN CHOICE, log 42). -/
def kvPutAt (r : Nat) (s : Stack) (a : Nat) (l : Line) : Stack :=
  let s := kvTouch s true [a]
  let s := if storesPoison s a l fullMask then biteUnit s (haKvAgent r) biteStore else s
  writeLine s a l fullMask
def kvPut (s : Stack) (a : Nat) (l : Line) : Stack := kvPutAt 0 s a l

/-! ### Descriptors (Table 11.2) -/

/-- A sequence descriptor. -/
structure KvDesc where
  live : Bool
  cls : Nat
  ring : Bool
  evict : Bool
  owner : Nat
  tray : Nat
  npages : Nat
  ringPages : Nat
  window : Nat
  appended : Nat
  res : Nat
  staged : Nat
  committed : Nat
  unbacked : Nat
  high : Nat
  deriving DecidableEq, Repr

/-- Field of a descriptor's number: byte offset and size. -/
def byteFld (x o n : Nat) : Nat := x / 256 ^ o % 256 ^ n

/-- The descriptor of sequence `q`. -/
def kvDesc (s : Stack) (q : Nat) : KvM KvDesc := do
  let x ← kvRead 2 s (descAddr s q) 52
  return { live := decide (byteFld x 0 1 = 1), cls := byteFld x 1 1, ring := decide (byteFld x 2 1 % 2 = 1),
           evict := decide (byteFld x 2 1 / 2 % 2 = 1), owner := byteFld x 3 1, tray := byteFld x 4 2, npages := byteFld x 6 2,
           ringPages := byteFld x 8 4, window := byteFld x 12 4, appended := byteFld x 16 8, res := byteFld x 24 4,
           staged := byteFld x 28 2, committed := byteFld x 30 2, unbacked := byteFld x 32 2, high := byteFld x 48 4 }

/-- The number of a descriptor's 52 bytes. -/
def descNum (d : KvDesc) : Nat :=
  (if d.live then 1 else 0) + d.cls * 256 + ((if d.ring then 1 else 0) + (if d.evict then 2 else 0)) * 256 ^ 2 + d.owner * 256 ^ 3
    + d.tray * 256 ^ 4 + d.npages * 256 ^ 6 + d.ringPages * 256 ^ 8 + d.window % 2 ^ 32 * 256 ^ 12 + d.appended % 2 ^ 64 * 256 ^ 16
    + d.res % 2 ^ 32 * 256 ^ 24 + d.staged * 256 ^ 28 + d.committed * 256 ^ 30 + d.unbacked * 256 ^ 32 + d.high * 256 ^ 48

/-- The descriptor line of sequence `q` written: bytes 52-511 are 0. -/
def putDesc (s : Stack) (q : Nat) (d : KvDesc) : Stack := kvPut s (descAddr s q) ⟨bv 4096 (descNum d), 0⟩

/-- The descriptor of a live sequence, or STATE. -/
def kvLive (s : Stack) (q : Nat) : KvM KvDesc := do
  let d ← kvDesc s q
  if d.live then return d else kvNo stState

/-! ### Page table and page states (Tables 11.3, 11.5) -/

/-- Page and FILLED of page-table entry `i`. -/
def kvPte (s : Stack) (q i : Nat) : KvM (Nat × Nat) := do
  let x ← kvRead 2 s (pteAddr s q i) 8
  return (x / 2 ^ 28 % 2 ^ 28, x % 2 ^ 13)

/-- A page-table entry written. -/
def putPte (s : Stack) (q i c page filled : Nat) : Stack :=
  kvWrite s (pteAddr s q i) 8 (2 ^ 63 + c * 2 ^ 58 + page * 2 ^ 28 + filled)

/-- The pages of a sequence with their FILLED, in order. -/
def kvTable (s : Stack) (q n : Nat) : KvM (List (Nat × Nat)) := (List.range n).mapM (kvPte s q)

/-- REF and PIN of a page. -/
def kvState (s : Stack) (c i : Nat) : KvM (Nat × Nat) := do
  let x ← kvRead 2 s (pageStateAddr s c i) 4
  return (x % 65536, x / 65536)

/-- REF and PIN of a page written. -/
def putState (s : Stack) (c i ref pin : Nat) : Stack := kvWrite s (pageStateAddr s c i) 4 (ref + pin * 65536)

/-- The free pages of class `c`, ascending (R347). -/
def kvFreePages (s : Stack) (c : Nat) : KvM (List Nat) := do
  let xs ← (List.range (kvPages s c)).mapM (kvState s c)
  return (List.range (kvPages s c)).filter (fun i => decide (xs.getD i (1, 1) = (0, 0)))

/-- REF of page (c, i) changed by one. -/
def refUp (s : Stack) (c i : Nat) : KvM Stack := do
  let (r, p) ← kvState s c i
  return putState s c i (r + 1) p
def refDown (s : Stack) (c i : Nat) : KvM Stack := do
  let (r, p) ← kvState s c i
  return putState s c i (r - 1) p

/-! ### Slots (R333, R340) -/

/-- A meta record: VALID, SCORE, POS. -/
def kvRecordAt (s : Stack) (c page o : Nat) : KvM (Bool × Nat × Nat) := do
  let x ← kvRead 1 s (metaAddr s c page o) 8
  return (decide (x / 2 ^ 48 % 2 = 1), x / 2 ^ 32 % 2 ^ 16, x % 2 ^ 32)

/-- The meta records of a sequence by slot. -/
def kvRecords (s : Stack) (c : Nat) (tab : List (Nat × Nat)) : KvM (List (Bool × Nat × Nat)) :=
  (List.range (tab.length * kvP c)).mapM (fun k => kvRecordAt s c (tab.getD (k / kvP c) (0, 0)).1 (k % kvP c))

/-- Slots that back tray entries of a sequence. -/
def kvBacking (s : Stack) (q : Nat) : List Nat := tget (fun _ => []) s.kv.backing q
def setBacking (s : Stack) (q : Nat) (l : List Nat) : Stack := { s with kv := { s.kv with backing := tset (fun _ => []) s.kv.backing q l } }

/-- The free slots of a sequence outside ring mode, ascending (R340). -/
def kvFreeSlots (s : Stack) (q : Nat) (d : KvDesc) : KvM (List Nat) := do
  let tab ← kvTable s q d.npages
  let rs ← kvRecords s d.cls tab
  return (List.range rs.length).filter (fun k => !(rs.getD k (true, 0, 0)).1 && !(kvBacking s q).contains k)

/-- The slots that the next `n` entries, from the first unbacked one, take: ring slots by ordinal (R356) or the lowest free
ones (R340). -/
def kvNextSlots (s : Stack) (q : Nat) (d : KvDesc) (n : Nat) : KvM (List Nat) :=
  if d.ring then
    let cap := d.ringPages * kvP d.cls
    .ok ((List.range n).map (fun i => (d.appended - d.unbacked + i) % cap))
  else do
    let f ← kvFreeSlots s q d
    return f.take n

/-! ### Allocation and copies (R347, R354) -/

/-- A page with its meta lines cleared. -/
def clearMeta (s : Stack) (c i : Nat) : Stack := (List.range (kvMeta c)).foldl (fun s k => kvPut s (pageAddr s c i k) Line.zero) s

/-- `n` pages allocated to sequence `q`, appended to its page table. -/
def kvAllocate (q : Nat) : Nat → Stack → KvDesc → KvM (Stack × KvDesc)
  | 0, s, d => .ok (s, d)
  | n + 1, s, d => do
    let f ← kvFreePages s d.cls
    match f with
    | [] => kvNo stPageExhausted
    | i :: _ =>
      let s := putPte (clearMeta (putState s d.cls i 1 0) d.cls i) q d.npages d.cls i 0
      kvAllocate q n s { d with npages := d.npages + 1 }

/-- A line copied with its marks (R290). -/
def kvCopyLine (r : Nat) (s : Stack) (src dst : Nat) : Stack := kvPutAt r (kvTouch s false [src]) dst (readLine s src)

/-- A private copy of page `i` made as page-table entry `k` of sequence `q`; REF of the original is lowered when `lower`
(R354, R353). -/
def kvCopyPage (s : Stack) (q c k : Nat) (lower : Bool) (from_ : Nat × Nat) : KvM Stack := do
  let f ← kvFreePages s c
  match f with
  | [] => kvNo stPageExhausted
  | i :: _ =>
    let s := (List.range (kvPL (kvE s) c)).foldl (fun s x => kvCopyLine 0 s (pageAddr s c from_.1 x) (pageAddr s c i x)) (putState s c i 1 0)
    let s := putPte s q k c i from_.2
    let s := setReg s rKveCount (addSat (reg s rKveCount) 48 16 1)
    if lower then refDown s c from_.1 else return s

/-- The entries of a sequence's page table that hold some of the slots and are shared. -/
def kvSharedOf (s : Stack) (c : Nat) (tab : List (Nat × Nat)) (slots : List Nat) : KvM (List Nat) := do
  let es := (List.range tab.length).filter (fun k => slots.any (fun x => decide (x / kvP c = k)))
  es.filterM (fun k => do
    let (r, _) ← kvState s c (tab.getD k (0, 0)).1
    return decide (1 < r))

/-- The shared pages among `es` copied. -/
def kvCopyShared (q c : Nat) : List Nat → Stack → KvM Stack
  | [], s => .ok s
  | k :: r, s => do
    let e ← kvPte s q k
    let s ← kvCopyPage s q c k true e
    kvCopyShared q c r s

/-! ### Eviction (R349) -/

/-- The eligible positions of a sequence as (score, pos, slot). -/
def kvEligible (s : Stack) (d : KvDesc) (tab : List (Nat × Nat)) : KvM (List (Nat × Nat × Nat)) := do
  if !d.evict then return []
  let rs ← kvRecords s d.cls tab
  let refs ← tab.mapM (fun e => kvState s d.cls e.1)
  return (List.range rs.length).filterMap (fun k =>
    let r := rs.getD k (false, 0, 0)
    if r.1 ∧ (refs.getD (k / kvP d.cls) (0, 0)).1 = 1 ∧ r.2.2 + d.window ≤ d.high then some (r.2.1, r.2.2, k) else none)

/-- Lexical order of candidates. -/
def evictLt (a b : Nat × Nat × Nat) : Bool :=
  decide (a.1 < b.1 ∨ (a.1 = b.1 ∧ (a.2.1 < b.2.1 ∨ (a.2.1 = b.2.1 ∧ a.2.2 < b.2.2))))

/-- The first candidate. -/
def evictMin (l : List (Nat × Nat × Nat)) : Option (Nat × Nat × Nat) :=
  l.foldl (fun b x => match b with | none => some x | some y => if evictLt x y then some x else some y) none

/-- One position evicted: VALID cleared, FILLED lowered. -/
def evictOne (s : Stack) (q : Nat) (d : KvDesc) (slot : Nat) : KvM Stack := do
  let (page, filled) ← kvPte s q (slot / kvP d.cls)
  let a := metaAddr s d.cls page (slot % kvP d.cls)
  let x ← kvRead 1 s a 8
  let l := readLine s (a / 512 * 512)
  let v := x - (x / 2 ^ 48 % 2) * 2 ^ 48
  let o := a % 512
  let data := bv 4096 (l.data.toNat - l.data.toNat / 256 ^ o % 256 ^ 8 * 256 ^ o + v * 256 ^ o)
  let s := kvPut s (a / 512 * 512) ⟨data, l.marks⟩
  return setReg (putPte s q (slot / kvP d.cls) d.cls page (filled - 1)) rKveCount (addSat (reg s rKveCount) 0 32 1)

/-- `n` positions evicted. -/
def kvEvict (q : Nat) (d : KvDesc) : Nat → List (Nat × Nat × Nat) → Stack → KvM Stack
  | 0, _, s => .ok s
  | n + 1, l, s =>
    match evictMin l with
    | none => .ok s
    | some x => do
      let s ← evictOne s q d x.2.2
      kvEvict q d n (l.filter (fun y => decide (y ≠ x))) s

/-! ### Flushes (R352) -/

/-- A tray entry and where it goes: its number, the page-table entry of its slot with that page and FILLED, the slot's offset in the page. -/
structure FlushTo where
  j : Nat
  k : Nat
  page : Nat
  filled : Nat
  o : Nat

/-- Where the entries of a tray go. -/
def flushTargets (s : Stack) (q : Nat) (d : KvDesc) (n : Nat) : KvM (List FlushTo) :=
  (List.range n).mapM (fun j => do
    let slot := (kvBacking s q).getD j 0
    let (page, filled) ← kvPte s q (slot / kvP d.cls)
    return ⟨j, slot / kvP d.cls, page, filled, slot % kvP d.cls⟩)

/-- The data lines of an entry copied to its slot. -/
def flushData (r : Nat) (d : KvDesc) (s : Stack) (x : FlushTo) : Stack :=
  let e := kvE s
  (List.range e).foldl (fun s i => kvCopyLine r s (trayAddr s d.tray (1 + x.j * e + i)) (dataAddr s d.cls x.page x.o i)) s

/-- A record put in a meta line, with the mark of the tray's word that it comes from. -/
def putRecord (tray : Line) (l : Line) (x : FlushTo) (a : Nat) : Line :=
  let new := tray.data.toNat / 256 ^ (8 * x.j) % 256 ^ 8
  let b := a % 512
  let old := l.data.toNat / 256 ^ b % 256 ^ 8
  ⟨bv 4096 (l.data.toNat - old * 256 ^ b + new * 256 ^ b), if tray.marks.getLsbD (x.j / 4) then l.marks ||| (1#16 <<< (b / 32)) else l.marks⟩

/-- One meta line that a tray targets read and rewritten whole, with the new records. -/
def flushMeta (r : Nat) (d : KvDesc) (tray : Line) (xs : List FlushTo) (s : Stack) (a : Nat) : Stack :=
  let at_ := fun (x : FlushTo) => metaAddr s d.cls x.page x.o
  let l := (xs.filter (fun x => decide (at_ x / 512 * 512 = a))).foldl (fun l x => putRecord tray l x (at_ x)) (readLine s a)
  kvPutAt r (kvTouch s false [a]) a l

/-- Whether the slot of an entry holds a valid position. -/
def slotValid (s : Stack) (d : KvDesc) (x : FlushTo) : Bool :=
  let a := metaAddr s d.cls x.page x.o
  decide ((readLine s (a / 512 * 512)).data.toNat / 256 ^ (a % 512) / 2 ^ 48 % 2 = 1)

/-- The first `n` entries of a tray moved to their slots: data lines entry by entry, then each meta line once, FILLED, HIGH_POS (R352). `r` is the
row whose agent flushes. -/
def flushEntries (r q n : Nat) (s : Stack) (d : KvDesc) : KvM (Stack × KvDesc) := do
  let xs ← flushTargets s q d n
  let tray := readLine s (trayAddr s d.tray 0)
  let new := xs.map (fun x => (x, !slotValid s d x))
  let s := xs.foldl (flushData r d) (kvTouch s false [trayAddr s d.tray 0])
  let metas := (xs.map (fun x => metaAddr s d.cls x.page x.o / 512 * 512)).eraseDups
  let s := metas.foldl (flushMeta r d tray xs) s
  let filled := fun (k : Nat) => (new.filter (fun e => decide (e.1.k = k) && e.2)).length
  let s := xs.foldl (fun s x => putPte s q x.k d.cls x.page (x.filled + filled x.k)) s
  return (s, { d with high := xs.foldl (fun m x => max m (tray.data.toNat / 256 ^ (8 * x.j) % 2 ^ 32)) d.high })

/-- Whether a tray is ready. -/
def trayReady (d : KvDesc) : Bool := decide (d.staged = kvT d.cls ∧ d.committed = kvT d.cls ∧ d.unbacked = 0)

/-- A ready tray flushed by the agent of row `r`; the number of entries. -/
def kvFlush (r : Nat) (s : Stack) (q : Nat) (d : KvDesc) : KvM (Nat × Stack × KvDesc) := do
  if !trayReady d then return (0, s, d)
  let n := d.staged
  let (s, d) ← flushEntries r q n s d
  let s := setBacking (kvPutAt r s (trayAddr s d.tray 0) Line.zero) q []
  return (n, s, { d with staged := 0, committed := 0 })

/-! ### The commands (R342-R356) -/

/-- What a KV command gives: results and the stack. -/
abbrev KvRes := KvM (List Word × Stack)

/-- The lowest free tray. -/
def freeTray (s : Stack) : Option Nat := (List.range (kvTrays s)).find? (fun t => !s.kv.trays.any (fun e => decide (e.2 = t)))

/-- KV_SEQ_CREATE. -/
def kvCreate (s : Stack) (p : Nat → Word) : KvRes := do
  let q := (p 0).toNat
  let c := fld (p 1) 0 4
  let ring := decide (fld (p 1) 8 1 = 1)
  let r := fld (p 1) 16 32
  if 4095 < q ∨ 8 < c ∨ kvPages s c = 0 ∨ (ring ∧ (r = 0 ∨ 8127 < r)) ∨ (!ring ∧ r ≠ 0) then kvNo stInvalidParam
  let d ← kvDesc s q
  if d.live then kvNo stState
  match freeTray s with
  | none => kvNo stPageExhausted
  | some t =>
    let s := putDesc s q { live := true, cls := c, ring := ring, evict := false, owner := fld (p 2) 0 3, tray := t, npages := 0,
                           ringPages := r, window := fld (p 3) 0 32, appended := 0, res := 0, staged := 0, committed := 0,
                           unbacked := 0, high := 0 }
    return ([bv 64 t], { s with kv := { s.kv with trays := tput s.kv.trays q t } })

/-- Pins raised on every page of a table (R355). -/
def pinPages (c : Nat) : List (Nat × Nat) → Stack → KvM Stack
  | [], s => .ok s
  | (i, _) :: r, s => do
    let (ref, pin) ← kvState s c i
    if pin = 65535 then kvNo stState
    pinPages c r { putState s c i ref (pin + 1) with kv := { s.kv with pins := s.kv.pins ++ [(c, i)] } }

/-- The tail of a reserve: unbacked entries backed, RES set, pages pinned. -/
def reserveEnd (s : Stack) (q n : Nat) (pin : Bool) (d : KvDesc) (counts : List Word) : KvRes := do
  let slots ← kvNextSlots s q d d.unbacked
  let s := setBacking s q (kvBacking s q ++ slots)
  let d := { d with unbacked := 0, res := n }
  let s := putDesc s q d
  if pin then
    let tab ← kvTable s q d.npages
    let s ← pinPages d.cls tab s
    return (counts, s)
  else return (counts, s)

/-- KV_STEP_RESERVE (R348, R356). -/
def kvReserve (s : Stack) (p : Nat → Word) : KvRes := do
  let q := (p 0).toNat
  let n := (p 1).toNat
  let pin := decide (fld (p 2) 0 1 = 1)
  if 4095 < q ∨ 65536 < n then kvNo stInvalidParam
  let d ← kvLive s q
  let need := d.unbacked + n
  let tab ← kvTable s q d.npages
  let free ← kvFreePages s d.cls
  if d.ring then
    if d.ringPages * kvP d.cls - kvT d.cls < need then kvNo stInvalidParam
    let slots ← kvNextSlots s q d need
    let last := slots.foldl (fun m x => max m (x / kvP d.cls + 1)) d.npages
    let add := last - d.npages
    let cow ← kvSharedOf s d.cls tab slots
    if free.length < add + cow.length then kvNo stPageExhausted
    let s ← kvCopyShared q d.cls cow s
    let (s, d) ← kvAllocate q add s d
    reserveEnd s q n pin d [bv 64 add, 0, bv 64 cow.length]
  else
    let slots ← kvFreeSlots s q d
    let have_ := slots.length
    let add := if have_ < need then ceilDiv (need - have_) (kvP d.cls) else 0
    let cow ← kvSharedOf s d.cls tab (slots.take (min need have_))
    if free.length < cow.length then kvNo stPageExhausted
    let cap := min free.length (8128 - d.npages)
    let cap := min cap (free.length - cow.length)
    let ev := if cap < add then need - have_ - cap * kvP d.cls else 0
    if cap < add ∧ !d.evict then kvNo stPageExhausted
    let el ← if cap < add then kvEligible s d tab else .ok []
    if el.length < ev then kvNo stPageExhausted
    let s ← kvEvict q d ev el s
    let s ← kvCopyShared q d.cls cow s
    let (s, d) ← kvAllocate q (min add cap) s d
    reserveEnd s q n pin d [bv 64 (min add cap), bv 64 ev, bv 64 cow.length]

/-- REF raised on the pages of a table, none beyond 65,535. -/
def refsUp (c : Nat) : List Nat → Stack → KvM Stack
  | [], s => .ok s
  | i :: r, s => do
    let (ref, _) ← kvState s c i
    if ref = 65535 then kvNo stPageExhausted
    let s ← refUp s c i
    refsUp c r s

/-- The child's page table: a private copy of each page that backs the parent's tray, the parent's other pages. -/
def forkTable (child c : Nat) (priv : List Nat) : List (Nat × (Nat × Nat)) → Stack → KvM Stack
  | [], s => .ok s
  | (k, e) :: r, s =>
    if priv.contains k then do
      let s ← kvCopyPage s child c k false e
      forkTable child c priv r s
    else forkTable child c priv r (putPte s child k c e.1 e.2)

/-- KV_FORK (R353). -/
def kvFork (s : Stack) (p : Nat → Word) : KvRes := do
  let parent := (p 0).toNat
  let child := (p 1).toNat
  if 4095 < parent ∨ 4095 < child ∨ parent = child then kvNo stInvalidParam
  let d ← kvLive s parent
  let x ← kvDesc s child
  if x.live then kvNo stState
  match freeTray s with
  | none => kvNo stPageExhausted
  | some t =>
    let tab ← kvTable s parent d.npages
    let priv := (List.range tab.length).filter (fun k => (kvBacking s parent).any (fun sl => decide (sl / kvP d.cls = k)))
    let free ← kvFreePages s d.cls
    if free.length < priv.length then kvNo stPageExhausted
    let es := (List.range tab.length).map (fun k => (k, tab.getD k (0, 0)))
    let s ← forkTable child d.cls priv es s
    let s ← refsUp d.cls ((es.filter (fun e => !priv.contains e.1)).map (fun e => e.2.1)) s
    let n := d.committed
    let e := kvE s
    let s := (List.range (n * e)).foldl (fun s k => kvCopyLine 0 s (trayAddr s d.tray (1 + k)) (trayAddr s t (1 + k))) s
    let old := readLine s (trayAddr s d.tray 0)
    let s := writeLine (kvNote (kvTouch (kvPut s (trayAddr s t 0) Line.zero) false [trayAddr s d.tray 0]) true true [trayAddr s t 0]) (trayAddr s t 0) old (spanMask 0 (8 * n))
    let s := putDesc s child { d with owner := fld (p 2) 0 3, evict := false, res := 0, tray := t, staged := n, committed := n, unbacked := n }
    return ([bv 64 t, bv 64 priv.length], { s with kv := { s.kv with trays := tput s.kv.trays child t } })

/-- REF lowered on the pages of a table; how many are reclaimed. -/
def refsDown (c : Nat) : List (Nat × Nat) → Stack → Nat → KvM (Stack × Nat)
  | [], s, n => .ok (s, n)
  | (i, _) :: r, s, n => do
    let (ref, pin) ← kvState s c i
    refsDown c r (putState s c i (ref - 1) pin) (if ref ≤ 1 ∧ pin = 0 then n + 1 else n)

/-- KV_FREE (R355). Its page-table entries become invalid (R336). -/
def kvFree (s : Stack) (p : Nat → Word) : KvRes := do
  let q := (p 0).toNat
  if 4095 < q then kvNo stInvalidParam
  let d ← kvLive s q
  let tab ← kvTable s q d.npages
  let (s, n) ← refsDown d.cls tab s 0
  let s := (List.range d.npages).foldl (fun s i => kvWrite s (pteAddr s q i) 8 0) s
  let s := putDesc s q { d with live := false, npages := 0, staged := 0, committed := 0, unbacked := 0, res := 0 }
  return ([bv 64 n], setBacking { s with kv := { s.kv with trays := tdel s.kv.trays q } } q [])

/-- KV_SET_EVICTION. -/
def kvSetEviction (s : Stack) (p : Nat → Word) : KvRes := do
  let q := (p 0).toNat
  if 4095 < q then kvNo stInvalidParam
  let d ← kvLive s q
  let ev := decide (fld (p 1) 0 1 = 1)
  if ev ∧ d.ring then kvNo stInvalidParam
  return ([], putDesc s q { d with evict := ev, window := fld (p 2) 0 32 })

/-- KV_APPEND at the agent of row `r` (R350, R351, R356). -/
def kvAppend (s : Stack) (r : Nat) (p : Nat → Word) : KvRes := do
  let q := (p 0).toNat
  let n := (p 1).toNat
  if 4095 < q ∨ n = 0 ∨ 64 < n then kvNo stInvalidParam
  let d ← kvLive s q
  if d.owner ≠ r then kvNo stState
  if kvT d.cls < d.staged + n then kvNo stPageExhausted
  let k := min n d.res
  let slots ← if k = 0 then .ok [] else kvNextSlots s q d k
  let s := setBacking s q (kvBacking s q ++ slots)
  let s := putDesc s q { d with staged := d.staged + n, appended := d.appended + n, res := d.res - k, unbacked := d.unbacked + (n - k) }
  return ([bv 64 d.staged, bv 64 k, bv 64 d.appended], s)

/-- The tray records of entries `j` to `j + n − 1` made valid. -/
def commitRecords (s : Stack) (t j n : Nat) : Stack :=
  (List.range n).foldl (fun s i =>
    let a := trayAddr s t 0 + 8 * (j + i)
    let l := readLine s (a / 512 * 512)
    let v := l.data.toNat / 256 ^ (a % 512) % 256 ^ 8
    kvWrite s a 8 (if v / 2 ^ 48 % 2 = 1 then v else v + 2 ^ 48)) s

/-- KV_COMMIT at the agent of row `r` (R352). -/
def kvCommit (s : Stack) (r : Nat) (p : Nat → Word) : KvRes := do
  let q := (p 0).toNat
  let n := (p 1).toNat
  if 4095 < q ∨ n = 0 ∨ 64 < n then kvNo stInvalidParam
  let d ← kvLive s q
  if d.owner ≠ r then kvNo stState
  if d.staged - d.committed < n then kvNo stInvalidParam
  let s := commitRecords s d.tray d.committed n
  let (f, s, d) ← kvFlush r s q { d with committed := d.committed + n }
  return ([bv 64 f], putDesc s q d)

/-- KV_GET_SEQ: descriptor bytes 0-51, as the first seven results. -/
def kvGetSeq (s : Stack) (p : Nat → Word) : KvRes := do
  let q := (p 0).toNat
  if 4095 < q then kvNo stInvalidParam
  let x ← kvRead 2 s (descAddr s q) 52
  return ((List.range 7).map (fun i => bv 64 (x / 2 ^ (64 * i))), s)

/-- A KV command of opcode `op`: from the agent of a row, or from an issuer (none). -/
def kvDo (s : Stack) (row : Option Nat) (op : Nat) (p : Nat → Word) : KvRes :=
  if !kvConfigured s then kvNo stState
  else
    match op, row with
    | 0x0301, _ => kvCreate s p
    | 0x0302, _ => kvReserve s p
    | 0x0303, _ => kvFork s p
    | 0x0304, _ => kvFree s p
    | 0x0305, _ => kvSetEviction s p
    | 0x0306, some r => kvAppend s r p
    | 0x0307, some r => kvCommit s r p
    | 0x0308, _ => kvGetSeq s p
    | 0x0306, none => kvNo stState
    | 0x0307, none => kvNo stState
    | _, _ => kvNo stInvalidOpcode

/-- Whether a command acts in a phase while a job runs (Table 11.4). -/
def kvInPhase (op : Nat) : Bool := decide (0x0301 ≤ op ∧ op ≤ 0x0305)

/-- The report of a fault of the engine, in the layout of KVE_LOG (R363). -/
def kvReport (s : Stack) (row kind q : Nat) : Word := bv 64 (2 ^ 63 + kind * 2 ^ 60 + row * 2 ^ 53 + tickOf s % 65536 * 2 ^ 32 + q % 4096)

/-- KVE_LOG filled while VALID is 0 (R363). -/
def kvLog (s : Stack) (row kind q : Nat) : Stack :=
  if fld (reg s rKveLog) 63 1 = 1 then s else setReg s rKveLog (kvReport s row kind q)

/-- Poison that the engine consumed, of a KIND (Table 11.12): logged and raised at the agent of a row (R357). -/
def kvBite (s : Stack) (row : Option Nat) (kind q : Nat) : Stack :=
  let r := row.getD 0
  let s := kvLog s r kind q
  raise s { source := fPoisonBite, addr := haKvAgent r, core := row.map (fun r => 0xA0 + r),
            detail0 := kvReport s r kind q, detail1 := bv 64 (if kind = 1 then biteControl else biteAddress) }

/-- The lines of a sequence's descriptor and of its first `n` page-table entries. -/
def kvSeqLines (s : Stack) (q n : Nat) : List Nat := (List.range (1 + ceilDiv n 64)).map (fun i => descAddr s q + 512 * i)

/-- The lines of the page states of pages. -/
def kvStateLines (s : Stack) (c : Nat) (pages : List Nat) : List Nat := pages.map (fun i => pageStateAddr s c i / 512 * 512)

/-- The meta lines of pages. -/
def kvMetaLines (s : Stack) (c : Nat) (pages : List Nat) : List Nat :=
  pages.flatMap (fun i => (List.range (kvMeta c)).map (fun k => pageAddr s c i k))

/-- The lines that a command reads besides those it copies (R336-R338, R347-R356): the descriptors it names, the page table, the page states of
its pages and of the class that it allocates from, the meta lines where it looks for slots, the tray's meta line. -/
def kvReads (s : Stack) (op : Nat) (p : Nat → Word) : List Nat :=
  let q := (p 0).toNat
  if 4095 < q then []
  else
    match kvDesc s q with
    | .error _ => [descAddr s q]
    | .ok d =>
      let pages := match kvTable s q d.npages with | .ok l => l.map (fun e => e.1) | .error _ => []
      let seq := kvSeqLines s q d.npages
      let slots := if d.ring then [] else seq ++ kvMetaLines s d.cls pages
      let class_ := kvStateLines s d.cls (List.range (kvPages s d.cls))
      (match op with
       | 0x0302 => if d.live then seq ++ slots ++ class_ else [descAddr s q]
       | 0x0303 => seq ++ class_ ++ (if (p 1).toNat ≤ 4095 then [descAddr s (p 1).toNat] else [])
       | 0x0304 => seq ++ kvStateLines s d.cls pages
       | 0x0306 => if d.live then descAddr s q :: slots else [descAddr s q]
       | 0x0307 => seq ++ [trayAddr s d.tray 0]
       | _ => [descAddr s q]).eraseDups

/-- A KV command done with its counts and faults: status, results, stack (R351, R357, R362). Each line that it reads is read once (log 42). -/
def kvRun (s : Stack) (row : Option Nat) (op : Nat) (p : Nat → Word) : Nat × List Word × Stack :=
  let r := row.getD 0
  let reads := if kvConfigured s then kvReads s op p else []
  let seen := fun (y : Stack) => kvTouch y false reads
  match kvDo s row op p with
  | .ok (rs, y) => (stOk, rs, seen y)
  | .error e =>
    let s := seen s
    let q := (p 0).toNat
    let s := if e.status = stPageExhausted then setReg s rKveCount (addSat (reg s rKveCount) 32 16 1) else s
    let s := if e.status = stPageExhausted ∧ op = 0x0306 then
        let s := kvLog s r 0 q
        raise s { source := fKvOverrun, addr := haKvAgent r, core := row.map (fun r => 0xA0 + r), detail0 := kvReport s r 0 q }
      else s
    (e.status, [], if e.poison = 0 then s else kvBite s row e.poison q)

/-! ### Its row commands and sub-bank accesses (R245, R253, R347) -/

/-- An access asked for: a vault line goes to the base-end queue of its site, where there is room, at rank 3 of Table 8.4, a pantry line to its
sub-bank at rank 3 of R253, from the agent of row `row`. -/
def kvAsk (now : Nat) (src : Option KvSource) (row : Nat) (s : Stack) (e : KvTouch) : Stack :=
  let a : Access := { id := s.nextId, origin := .kv row, kind := .row e.write, addr := e.addr, data := Line.zero,
                      mask := if e.part then spanMask 0 8 else if e.write then fullMask else 0, arrived := now, granted := 0, result := Line.zero,
                      unchecked := false, syn := [], refused := none, done := false }
  let asked := fun (s : Stack) (d : Bool) => { s with nextId := s.nextId + 1, kv := { s.kv with asked := s.kv.asked ++ [⟨src, e, a.id, d, 0⟩] } }
  match place e.addr with
  | .pantry b o =>
    let key := b * 16 + o / 512 % 16
    asked { s with subbanks := setListAt s.subbanks key (listAt s.subbanks key ++ [PantryOp.kv row a (s.aclk + 4)]) } false
  | .vault v _ =>
    let p := coreSite s v
    if (s.vault p).base.length < baseSize then asked (s.setVault p { s.vault p with base := (s.vault p).base ++ [a] }) false else s
  | _ => asked s true

/-- The accesses that a command, or the phase, has asked for. -/
def kvAskedBy (s : Stack) (src : Option KvSource) : List KvAsk := s.kv.asked.filter (fun k => decide (k.src = src))

/-- The words that the transfers of some accesses could not deliver. -/
def failedWords (ks : List KvAsk) : List Nat :=
  ks.flatMap (fun k => ((List.range 16).filter (fun w => k.failing.getLsbD w)).map (fun w => k.line.addr / 32 + w))

/-- The stack with words marked as poisoned. -/
def markWords (s : Stack) (gs : List Nat) : Stack := { s with marks := gs.foldl (fun t g => tset (fun _ => 0) t g 0xFFFF#16) s.marks }

/-- The stack as the engine sees it: what a transfer could not deliver is poisoned (R277). -/
def kvSees (s : Stack) (ks : List KvAsk) : Stack := markWords s (failedWords (ks.filter (fun k => !k.line.write)))

/-- What a command does, `y`, once every access is performed: words that were only not delivered keep their marks, those that a write could not
deliver are poisoned (R277). -/
def kvDone (s y : Stack) (src : Option KvSource) : Stack :=
  let ks := kvAskedBy s src
  let whole := fun (g : Nat) => y.kv.touched.any (fun e => e.write && !e.part && decide (e.addr / 512 = g / 16))
  let keep := (failedWords (ks.filter (fun k => !k.line.write))).filter (fun g => !whole g)
  let y := { y with
    marks := keep.foldl (fun t g => tset (fun _ => 0) t g (markOf s g)) y.marks
    kv := { y.kv with touched := [], asked := y.kv.asked.filter (fun k => decide (k.src ≠ src)) } }
  markWords y (failedWords (ks.filter (fun k => k.line.write)))

/-- The lines that a command touches, `y`, and has not asked for. -/
def kvMissing (s y : Stack) (src : Option KvSource) : List KvTouch :=
  y.kv.touched.eraseDups.filter (fun e => !(kvAskedBy s src).any (fun k => decide (k.line = e)))

/-- Whether every access that a command needs has been performed. -/
def kvReady (s y : Stack) (src : Option KvSource) : Bool :=
  (kvMissing s y src).isEmpty && (kvAskedBy s src).all (fun k => k.done || !y.kv.touched.contains k.line)

/-- A command of the engine, `f`, or the phase: its lines are asked for as they become known, and it acts once all are performed; else it
waits (R347). -/
def kvMay (now : Nat) (src : Option KvSource) (row : Nat) (s : Stack) (f : Stack → Stack) : Stack :=
  let y := f (kvSees s (kvAskedBy s src))
  if kvReady s y src then kvDone s y src else (kvMissing s y src).foldl (kvAsk now src row) s

/-! ### Agents (R149, R343) -/

/-- Replies that an agent holds at most (R343). -/
def maxKvReplies : Nat := 64

/-- Word `i` of a record. -/
def recWord (rec : List Byte) (i : Nat) : Word := word64At rec (8 * i)

/-- The line of a reply (R343). -/
def replyLine (rec : List Byte) (status : Nat) (rs : List Word) : List Word :=
  let w := recWord rec 0
  setFld (setFld (w &&& 0xFFFFFFFF0000FFFF#64) 16 16 status) 0 16 (fld w 0 16) :: rs

/-- Replies that have their line pushed into the S-core's queues in order, as far as there is room (R343). A FAULTED core's queues keep their
contents (R192). A queue whose producer is not the KV agent takes no line: the reply to such a queue is dropped (R175; DESIGN CHOICE, log 91). -/
def pushReplies (s : Stack) (r : Nat) : Nat → Stack
  | 0 => s
  | n + 1 =>
    match (s.row r).kvReplies with
    | [] => s
    | x :: rest =>
      match x.line with
      | none => s
      | some ws =>
        let c := 0xA0 + r
        if (s.core c).run = .faulted then s
        else if fld (reg s (rDqCfg c x.dq)) 16 4 ≠ 0xC then pushReplies (s.setRow r { s.row r with kvReplies := rest }) r n
        else if dqRoom s c x.dq then
          let s := dqPush s c x.dq (pack64 (ws.map (fun w => (w, false)))) .full
          pushReplies (s.setRow r { s.row r with kvReplies := rest }) r n
        else s

/-- Reply `id` of row `r` given its line. -/
def setReply (s : Stack) (r id : Nat) (ws : List Word) : Stack :=
  let x := s.row r
  pushReplies (s.setRow r { x with kvReplies := x.kvReplies.map (fun y => if y.id = id then { y with line := some ws } else y) }) r 64

/-- KV_AGENT_TAKE: the next record of a row's command queue taken when there is room for its reply. A phase command waits
for its phase while a job runs and the engine is configured; an opcode outside 0x0301-0x0308 is answered at once (R342-R345). -/
def agentTake (s : Stack) (r : Nat) : Stack :=
  let s := pushReplies s r 64
  let x := s.row r
  match x.kvq with
  | [] => s
  | rec :: rest =>
    if x.kvTaken.isSome ∨ maxKvReplies ≤ x.kvReplies.length then s
    else
      let id := s.nextId
      let w := recWord rec 0
      let op := fld w 0 16
      let s := { s.setRow r { x with kvq := rest, kvReplies := x.kvReplies ++ [⟨id, fld w 16 4, none⟩] } with nextId := id + 1 }
      if op < 0x0301 ∨ 0x0308 < op then setReply s r id (replyLine rec stInvalidOpcode [])
      else if kvInPhase op ∧ jobRuns s ∧ kvConfigured s then { s with kv := { s.kv with queued := s.kv.queued ++ [(r, id, rec)] } }
      else s.setRow r { s.row r with kvTaken := some (id, rec) }

/-- A record acted on by the agent of its row and answered. -/
def agentRun (s : Stack) (r id : Nat) (rec : List Byte) : Stack :=
  let (st, rs, s) := kvRun s (some r) (fld (recWord rec 0) 0 16) (fun i => recWord rec (i + 1))
  setReply s r id (replyLine rec st rs)

/-- The record that row `r`'s agent has taken, when its opcode is `op`: acted on, once its accesses are granted. -/
def agentAct (now : Nat) (s : Stack) (r : RowIx) (op : Nat) : Stack :=
  match (s.row r.val).kvTaken with
  | none => s
  | some (id, rec) =>
    if fld (recWord rec 0) 0 16 = op then
      kvMay now (some (.agent r)) r.val s (fun s => agentRun (s.setRow r.val { s.row r.val with kvTaken := none }) r.val id rec)
    else s

/-! ### Issuer commands (R342, R344, R346) -/

/-- An issuer's KV command acted on and answered. -/
def kvAnswer (now : Nat) (s : Stack) (c : Cmd) : Stack :=
  let (st, rs, s) := kvRun s none c.op c.arg
  sendReply now (dropCmd s c.ref) c (replyBytes now (actTick s) c st rs [] false)

/-- An issuer's KV command of opcode `op`: at once, as its accesses are granted, when no job runs, it is no phase command or nothing is configured;
else it waits for its tick, or answers STATE when that has passed. -/
def kvIssuer (now : Nat) (s : Stack) (r : CmdRef) (op : Nat) : Stack :=
  match startedCmd s r with
  | none => s
  | some c =>
    if c.op ≠ op then s
    else if kvInPhase op ∧ jobRuns s ∧ kvConfigured s then
      let t := (c.arg 7).toNat
      if t = 0 ∨ t ≤ s.kv.phaseTick then answerCmd now s c stState
      else
        let s := dropCmd s r
        { s with kv := { s.kv with waiting := s.kv.waiting ++ [c] } }
    else kvMay now (some (.issuer r)) 0 s (fun s => kvAnswer now s c)

/-- A KV row: the command of an issuer, or of a row's agent; in a base non-transit reset it waits (R501). -/
def kvRow (now : Nat) (s : Stack) (src : KvSource) (op : Nat) : Stack :=
  if columnsHeld s then s
  else match src with
  | .issuer r => kvIssuer now s r op
  | .agent r => agentAct now s r op

/-! ### KV_POOL_CONFIG (R334) -/

/-- KV_POOL_CONFIG: the registers loaded, their reserved bits 0 (R16), every sequence deleted, every tray released, every page state 0; it waits
until its accesses are granted. -/
def kvPoolConfig (now : Nat) (s : Stack) (c : Cmd) : Stack :=
  let w := fun i => word64At c.data (8 * i)
  let cls := (List.range 9).map (fun i => w (2 + i))
  if s.pstate = .admitted ∨ s.pstate = .running ∨ s.pstate = .disabling then answerCmd now s c stState
  else if poolBad (w 0) (w 1) cls then answerCmd now s c stInvalidParam
  else
    kvMay now (some (.issuer c.ref)) 0 s (fun s =>
    let s := setReg (setReg s rKvePool (setFld (setFld (w 0) 63 1 1) 42 6 0)) rKveSeqtab (setFld (w 1) 29 35 0)
    let s := (List.range 9).foldl (fun s i => setReg s (rKveClass i) (setFld (cls.getD i 0) 37 3 0)) s
    let s := (List.range 4096).foldl (fun s q => kvPut s (descAddr s q) Line.zero) s
    let pages := ((List.range 9).map (kvPages s)).foldl (· + ·) 0
    let s := (List.range (ceilDiv (4 * pages) 512)).foldl (fun s k =>
      let n := min 512 (4 * pages - 512 * k)
      writeLine (kvNote s true (decide (n % 32 ≠ 0)) [pantryAddr (kvStateBase s + k)]) (pantryAddr (kvStateBase s + k)) Line.zero (spanMask 0 n)) s
    answerCmd now { s with kv := { s.kv with trays := [], backing := [], pins := [] } } c stOk)

/-! ### The phase (R345) -/

/-- Every pin of the previous step released; pages with REF and PIN 0 are free from then on. A poisoned page state bites and stays (R357). -/
def releasePins (s : Stack) : Stack :=
  s.kv.pins.foldl (fun s x => match kvState s x.1 x.2 with
    | .ok (r, p) => putState s x.1 x.2 r (p - 1)
    | .error e => kvBite s none e.poison 0) { s with kv := { s.kv with pins := [] } }

/-- The stack with the descriptor of every live sequence read. -/
def kvSeen (s : Stack) : Stack := kvTouch s false (s.kv.trays.map (fun e => descAddr s e.1))

/-- RES of every live sequence set to 0; a poisoned descriptor bites (R357). -/
def clearRes (s : Stack) : Stack :=
  s.kv.trays.foldl (fun s e => match kvDesc s e.1 with
    | .ok d => if d.res = 0 then s else putDesc s e.1 { d with res := 0 }
    | .error x => kvBite s none x.poison e.1) (kvSeen s)

/-- Step 4: every ready tray flushed, in ascending sequence. -/
def flushReady (s : Stack) : Stack :=
  s.kv.trays.foldl (fun s e => match kvDesc s e.1 with
    | .ok d => (match kvFlush 0 s e.1 d with
      | .ok (n, s', d') => if n = 0 then s else kvTouch (putDesc s' e.1 d') false ((kvSeqLines s e.1 d.npages).drop 1)
      | .error x => if x.poison = 0 then s else kvBite s none x.poison e.1)
    | .error _ => s) s

/-- Step 3 at row `r`: its phase commands in order, those that its agent has taken and, as replies leave it, those that still stand in its command
queue; of these, what the agent then has no room for acts in the next phase (R343, R345; DESIGN CHOICE, log 42). -/
def phaseRow (r : Nat) : Nat → Stack → Stack
  | 0, s => s
  | n + 1, s =>
    match s.kv.queued.find? (fun x => decide (x.1 = r)) with
    | some x => phaseRow r n (agentRun { s with kv := { s.kv with queued := s.kv.queued.erase x } } r x.2.1 x.2.2)
    | none =>
      let t := agentTake s r
      if t.kv.queued.any (fun x => decide (x.1 = r)) then phaseRow r n t else t

/-- The phase for tick `t`. -/
def kvPhaseFor (now : Nat) (s : Stack) (t : Nat) : Stack :=
  let s := clearRes (releasePins s)
  let s := (s.kv.waiting.filter (fun c => decide ((c.arg 7).toNat = t))).foldl (kvAnswer now) s
  let s := { s with kv := { s.kv with waiting := s.kv.waiting.filter (fun c => decide ((c.arg 7).toNat ≠ t)), phaseTick := t, latest := t } }
  flushReady ((List.range 8).foldl (fun s r => phaseRow r (2 * (s.kv.queued.length + (s.row r).kvq.length) + 1) s) s)

/-- KV_PHASE: the phase of the next tick once every participating core has executed TICK_END or is HALTED or FAULTED (R189), with every record of
the rows' S-cores taken for which the agent has room, and its accesses performed (R343, R345, R347). -/
def kvPhase (now : Nat) (s : Stack) : Stack :=
  let t := tickOf s + 1
  if !columnsHeld s ∧ jobRuns s ∧ s.tick.phase = .run ∧ s.kv.phaseTick < t
      ∧ s.cores.all (fun e => !e.2.participating || e.2.tickEnd || decide (e.2.run ≠ .running))
      ∧ s.rows.all (fun e => (e.2.kvq.isEmpty || decide (maxKvReplies ≤ e.2.kvReplies.length)) && e.2.kvTaken.isNone) then
    kvMay now none 0 s (fun s => kvPhaseFor now s t)
  else s

/-- Every issuer command that still waits for its tick answers ABORTED (R346). -/
def kvCancel (now : Nat) (s : Stack) : Stack :=
  let ws := s.kv.waiting
  let s := { s with kv := { s.kv with waiting := [] } }
  ws.foldl (fun s c => sendReply now s c (replyBytes now (actTick s) c stAborted [] [] false)) s

/-- The end of a job at the member (R346): waiting commands answer ABORTED, pins are released. -/
def kvJobEnd (now : Nat) (s : Stack) : Stack :=
  let s := releasePins (kvCancel now s)
  { s with kv := { s.kv with phaseTick := 0, queued := [], touched := [], asked := [] } }

/-- KVE_STATUS and KVE_FREEn (Tables 11.10, 11.14). -/
def kveStatus (s : Stack) : Word :=
  let st := if !kvConfigured s then 0 else if jobRuns s then 3 else 1
  bv 64 (s.kv.latest % 65536 * 2 ^ 48 + s.kv.trays.length * 2 ^ 16 + st)
def kveFree (s : Stack) (c : Nat) : Word :=
  match kvFreePages s c with
  | .ok l => bv 64 l.length
  | .error _ => bv 64 ((List.range (kvPages s c)).countP (fun i => match kvState s c i with | .ok x => decide (x = (0, 0)) | .error _ => false))

end Sys2Proof.Machine
end

