-- ==== Sys2Proof/Machine/Nbu.lean ====
section
/-! DEFINITION. Near-bank units (10_near_bank_units.md): schedules and their checks, the entries of a tick, their row
operations, what each operation computes from the lines it reads, and its writes. -/

namespace Sys2Proof

/-! ### Schedule entries (Table 10.3) -/

def NbuEntry.op (e : NbuEntry) : Nat := Machine.fld e.w0 58 6
def NbuEntry.afmt (e : NbuEntry) : Fmt := (Machine.fmtOf (Machine.fld e.w0 54 4)).getD .fp32
def NbuEntry.bfmt (e : NbuEntry) : Fmt := (Machine.fmtOf (Machine.fld e.w0 50 4)).getD .fp32
def NbuEntry.ofmt (e : NbuEntry) : Fmt := (Machine.fmtOf (Machine.fld e.w0 46 4)).getD .fp32
def NbuEntry.sat (e : NbuEntry) : Bool := decide (Machine.fld e.w0 45 1 = 1)
def NbuEntry.rnd (e : NbuEntry) : Bool := decide (Machine.fld e.w0 44 1 = 1)
def NbuEntry.x (e : NbuEntry) : Bool := decide (Machine.fld e.w0 43 1 = 1)
def NbuEntry.ascale (e : NbuEntry) : Bool := decide (Machine.fld e.w0 42 1 = 1)
def NbuEntry.bscale (e : NbuEntry) : Bool := decide (Machine.fld e.w0 41 1 = 1)
def NbuEntry.t (e : NbuEntry) : Bool := decide (Machine.fld e.w0 40 1 = 1)
def NbuEntry.tag (e : NbuEntry) : Nat := Machine.fld e.w0 32 8
def NbuEntry.imm (e : NbuEntry) : BitVec 32 := e.w0.setWidth 32
def NbuEntry.n (e : NbuEntry) : Nat := Machine.fld e.w1 48 16 + 1
def NbuEntry.m (e : NbuEntry) : Nat := Machine.fld e.w1 34 14 + 1
def NbuEntry.asel (e : NbuEntry) : Nat := Machine.fld e.w1 27 7
def NbuEntry.bsel (e : NbuEntry) : Nat := Machine.fld e.w1 20 7
def NbuEntry.dsel (e : NbuEntry) : Nat := Machine.fld e.w1 13 7
def NbuEntry.nsel (e : NbuEntry) : Nat := Machine.fld e.w1 6 7
def NbuEntry.a (e : NbuEntry) : Nat := Machine.fld e.w2 32 32
def NbuEntry.b (e : NbuEntry) : Nat := Machine.fld e.w2 0 32
def NbuEntry.d (e : NbuEntry) : Nat := Machine.fld e.w3 32 32
def NbuEntry.s (e : NbuEntry) : Nat := Machine.fld e.w3 0 32

/-- V of a MATVEC. -/
def NbuEntry.v (e : NbuEntry) : Nat := e.imm.toNat % 8 + 1

end Sys2Proof

namespace Sys2Proof.Machine
open Sys2Proof

/-- The kinds of operation of Table 10.4. -/
inductive NbuKind
  | matvec | reduce | elem | scat | cvt
  deriving DecidableEq, Repr

def nbuKind (op : Nat) : Option NbuKind :=
  match op with
  | 0x01 => some .matvec
  | 0x02 => some .reduce
  | 0x03 => some .reduce
  | 0x04 => some .reduce
  | 0x08 => some .elem
  | 0x09 => some .elem
  | 0x0A => some .elem
  | 0x0B => some .elem
  | 0x0C => some .elem
  | 0x0D => some .elem
  | 0x10 => some .scat
  | 0x18 => some .cvt
  | _ => none

/-! ### Shapes: lines of each range (R312-R316) -/

/-- Lines of the input vectors, of one vector, of their scales, of the weight scales, of the initial values and of the
weights of a MATVEC with K = `k`. -/
def mvVecLines (e : NbuEntry) (k : Nat) : Nat := ceilDiv k (fmtPerLine e.bfmt)
def mvInLines (e : NbuEntry) (k : Nat) : Nat := e.v * mvVecLines e k
def mvBScaleLines (e : NbuEntry) (k : Nat) : Nat := if e.bscale then ceilDiv (e.v * ceilDiv k 32) 512 else 0
def mvAScaleLines (e : NbuEntry) (k : Nat) : Nat := if e.ascale then ceilDiv (ceilDiv k 32 * e.m) 512 else 0
def mvInitLines (e : NbuEntry) : Nat := if e.t then ceilDiv (e.v * e.m) 128 else 0
def mvRow (e : NbuEntry) : Nat := ceilDiv e.m (fmtPerLine e.afmt)
def mvALines (e : NbuEntry) (k : Nat) : Nat := k * mvRow e

/-- Lines of A, B, D and S that an entry with N = `n` spans. -/
def nbuSpans (e : NbuEntry) (n : Nat) : Nat × Nat × Nat × Nat :=
  match nbuKind e.op with
  | some .matvec => (mvALines e n, mvInLines e n + mvBScaleLines e n, ceilDiv (e.v * e.m) (fmtPerLine e.ofmt), mvAScaleLines e n)
  | some .reduce => (n, 0, 1, 0)
  | some .elem => (0, if nbuUsesB e.op then n else 0, n, 0)
  | some .scat => (n, n, ceilDiv e.imm.toNat 128, 0)
  | some .cvt => (n, 0, ceilDiv (n * fmtPerLine e.afmt) (fmtPerLine e.ofmt), 0)
  | none => (0, 0, 0, 0)

/-- Whether N lies in the range that its operation gives, and the vectors fit in the vector buffer (R313). The manual names no fault for vectors that do
not fit: the model stops the entry as one whose N is out of range (DESIGN CHOICE, log 113). -/
def nbuNOk (e : NbuEntry) (n : Nat) : Bool :=
  decide (1 ≤ n ∧ n ≤ 65536) && (match nbuKind e.op with
    | some .matvec => decide (mvInLines e n + mvBScaleLines e n ≤ 128)
    | _ => true)

/-! ### Checks of a schedule (R311, R105, R94) -/

/-- The rate class of a format (Table 3.6), 0 FP32, 1 half, 2 unit, 3 the double formats, with integers apart. -/
def pairOk (a b : Fmt) : Bool :=
  let half := fun (f : Fmt) => decide (f = .bf16 ∨ f = .fp16)
  let small := fun (f : Fmt) => decide (f = .e4m3 ∨ f = .e5m2 ∨ f = .e2m3 ∨ f = .e2m1)
  let one := fun (x y : Fmt) =>
    (decide (x = .fp32) && (decide (y = .fp32) || half y)) || (half x && (half y || small y)) || (small x && small y)
      || decide (x = .zl8 ∧ y = .zl8) || (decide (x = .int8) && decide (y = .int8 ∨ y = .int4)) || decide (x = .int4 ∧ y = .int4)
  one a b || one b a

/-- Whether a format may carry block scales (R94). -/
def scalable (f : Fmt) : Bool := decide (f = .e4m3 ∨ f = .e5m2 ∨ f = .e2m3 ∨ f = .e2m1)

/-- Whether an entry names ZL8. -/
def nbuZl8 (e : NbuEntry) : Bool :=
  match nbuKind e.op with
  | some .matvec => decide (e.afmt = .zl8 ∨ e.bfmt = .zl8 ∨ e.ofmt = .zl8)
  | some .cvt => decide (e.afmt = .zl8 ∨ e.ofmt = .zl8)
  | _ => false

/-- Whether a selector is on. -/
def selOn (sel : Nat) : Bool := decide (64 ≤ sel)

/-- Whether R311 refuses an entry with INVALID_PARAM. -/
def nbuInvalid (s : Stack) (e : NbuEntry) : Bool :=
  let f0 := fld e.w0
  let kind := nbuKind e.op
  let usesA := decide (kind = some .matvec ∨ kind = some .reduce ∨ kind = some .scat ∨ kind = some .cvt)
  let usesB := decide (kind = some .matvec ∨ kind = some .scat) || (decide (kind = some .elem) && nbuUsesB e.op)
  let usesImm := decide (kind = some .scat ∨ e.op = 0x0C ∨ e.op = 0x0D)
  let mv := decide (kind = some .matvec)
  let cv := decide (kind = some .cvt)
  let unused := (!(mv || cv) && decide (f0 54 4 ≠ 0 ∨ f0 46 4 ≠ 0 ∨ f0 44 2 ≠ 0)) || (!mv && decide (f0 50 4 ≠ 0 ∨ f0 41 2 ≠ 0))
    || (cv && decide (f0 40 1 ≠ 0)) || (!usesImm && !mv && decide (f0 0 32 ≠ 0)) || (mv && decide (f0 3 29 ≠ 0))
    || (!mv && decide (fld e.w1 34 14 ≠ 0 ∨ e.s ≠ 0)) || (mv && !e.ascale && decide (e.s ≠ 0))
    || (!usesA && decide (e.a ≠ 0 ∨ e.asel ≠ 0)) || (!usesB && decide (e.b ≠ 0 ∨ e.bsel ≠ 0))
  let fmts := if mv then
      (fmtOf (f0 54 4)).isNone || (fmtOf (f0 50 4)).isNone || (fmtOf (f0 46 4)).isNone || !pairOk e.afmt e.bfmt
        || (e.ascale && !scalable e.afmt) || (e.bscale && !scalable e.bfmt)
        || (e.t && decide (e.ofmt ≠ (if fmtIsInt e.afmt then .int32 else .fp32)))
        || decide (16384 < e.v * e.m)
    else cv && ((fmtOf (f0 54 4)).isNone || (fmtOf (f0 46 4)).isNone)
  let line := (usesA && !selOn e.asel && decide (lastLine < e.a)) || (usesB && !selOn e.bsel && decide (lastLine < e.b))
    || (!selOn e.dsel && decide (lastLine < e.d)) || decide (lastLine < e.s)
  kind.isNone || decide (fld e.w1 0 6 ≠ 0) || unused || fmts || line || (!selOn e.nsel && !nbuNOk e e.n)
    || (e.x && decide (fld (reg s rTckXchg) 0 6 = 0))

/-! ### Units and row operations (R301, R304, R306) -/

/-- The near-bank unit of logical vault `v`. -/
def Stack.nbu (s : Stack) (v : Nat) : Nbu := tget (fun _ => Nbu.reset) s.nbus v
def Stack.setNbu (s : Stack) (v : Nat) (n : Nbu) : Stack := { s with nbus := tset (fun _ => Nbu.reset) s.nbus v n }

/-- Whether an access is a row operation of a near-bank unit, and whether it is an RMW. -/
def isNbu (a : Access) : Bool := match a.origin with | .nbu _ _ => true | _ => false
def isRmw (k : AccessKind) : Bool := match k with | .rmwElem _ _ _ => true | .rmwAdds _ _ => true | _ => false

/-- Row operations of the unit of site `p` outstanding, RMWs among them. -/
def nbuOut (s : Stack) (p : Nat) : List Access :=
  let v := s.vault p
  (v.nbu ++ v.rmw.map (fun r => r.2.2) ++ v.flight).filter isNbu

/-- The stack with a row operation requested: `tag` is 0 for the parameter line, 1 + i for read i of the entry. -/
def nbuRequest (now : Nat) (s : Stack) (p v tag line : Nat) (k : AccessKind) (d : Line) : Stack :=
  let a : Access := { id := s.nextId, origin := .nbu v tag, kind := k, addr := v * 0x30000000 + line * 512, data := d,
                      mask := (if accessWritesKind k then fullMask else 0), arrived := now, granted := 0,
                      result := Line.zero, unchecked := false, syn := [], refused := none, done := false }
  let x := s.vault p
  { s.setVault p { x with nbu := x.nbu ++ [a] } with nextId := s.nextId + 1 }

/-! ### The entries of a tick (R310, R318, R320, R322) -/

/-- The unit of vault `v` begins entries: it reads the parameter line first (R310). -/
def nbuBegin (now : Nat) (s : Stack) (v : Nat) (r : NbuRun) : Stack :=
  let p := coreSite s v
  let s := s.setNbu v { s.nbu v with run := some r, ran := true }
  nbuRequest now s p v 0 (fld (reg s (rNbuCfg p)) 0 21) .read Line.zero

/-- The indices of a schedule's entries with a phase tag. -/
def nbuTagged (es : List NbuEntry) (tag : Nat) : List Nat := (List.range es.length).filter (fun i => match es[i]? with
  | some e => decide (e.tag = tag)
  | none => false)

/-- NBUs at the start of tick `t` (R302, R318): every unit whose host core participates runs the entries with its tag, after an NBU_RUN that it
still runs. -/
def nbuTickStart (now : Nat) (s : Stack) (t : Nat) : Stack :=
  (List.range 168).foldl (fun s v =>
    let n := s.nbu v
    let todo := nbuTagged n.sched (s.core v).phase.toNat
    let s := s.setNbu v { n with ran := false }
    if (s.core v).participating ∧ s.tick.licence % 2 = 1 ∧ todo ≠ [] then
      let r : NbuRun := { tick := t, member := fld (reg s rTckDomain) 16 14, seed := s.tick.seed, cmd := none, todo := todo,
                          params := none, job := none, stoch := 0, failed := false }
      if n.run.isSome then s.setNbu v { s.nbu v with next := some r } else nbuBegin now s v r
    else s) s

/-- Parameter `w` of a parameter line, with its poison. -/
def nbuParam (l : Line) (w : Nat) : Word × Bool := (line64 l).getD w (0, false)

/-- A line field with its selector applied, as an integer (R310). -/
def selLine (l : Line) (sel line : Nat) : Int :=
  if selOn sel then (line : Int) + (nbuParam l (sel - 64)).1.toInt else (line : Int)

/-- Whether a selected parameter of an entry is poisoned. -/
def selPoison (l : Line) (e : NbuEntry) : Bool :=
  [e.asel, e.bsel, e.dsel, e.nsel].any (fun x => selOn x && (nbuParam l (x - 64)).2)

/-- The first line of a range outside the vault, if it has one; of one that begins below line 0, which LINE cannot hold, 0 (DESIGN CHOICE, log
112). -/
def outLine (first : Int) (n : Nat) : Option Nat :=
  if n = 0 then none
  else if first < 0 then some 0
  else if (lastLine : Int) < first + (n : Int) - 1 then some (max first.toNat (lastLine + 1))
  else none

/-- The run of the unit of vault `v` with its next entry gone; the last one ends the run: an NBU_RUN answers, and the entries of a tick that
waited for it begin. -/
def nbuNext (now : Nat) (s : Stack) (v : Nat) (completed : Bool) : Stack :=
  let n := s.nbu v
  match n.run with
  | none => s
  | some r =>
    let p := coreSite s v
    let s := if completed then setReg s (rNbuCount p) (addSat (reg s (rNbuCount p)) 0 32 1) else s
    let rest := r.todo.drop 1
    let s := s.setNbu v { n with run := if rest = [] then none else some { r with todo := rest, job := none }, next := if rest = [] then none else n.next }
    if rest = [] then
      let s := match r.cmd.bind (startedCmd s) with
        | some c => answerCmd now s c (if r.failed then stAborted else stOk)
        | none => s
      match n.next with
      | some q => nbuBegin now s v q
      | none => s
    else s

/-- Whether an entry rounds stochastically, so that it counts in the ordinals of R104 and R317. -/
def nbuStochastic (e : NbuEntry) : Bool := e.rnd && decide (nbuKind e.op = some .matvec ∨ nbuKind e.op = some .cvt)

/-- NBU_ENTRY_START at site `p`: once every row operation is complete, and after go(t) for an exchange entry, the next
entry starts; a poisoned parameter or a range out of bounds stops it before any access (R318-R323). A stochastic entry takes its ordinal by its
place among the tick's entries, also where it is stopped here: R104 has every input of the rounding fixed by the program (DEDUCED, log 98). -/
def nbuEntryStart (now : Nat) (s : Stack) (p : Nat) : Stack :=
  if columnsHeld s then s
  else match siteCore s p with
  | none => s
  | some v =>
    let n := s.nbu v
    match n.run with
    | none => s
    | some r =>
      match r.params, r.job, r.todo with
      | some l, none, i :: _ =>
        match n.sched[i]? with
        | none => nbuNext now s v false
        | some e =>
          if nbuOut s p ≠ [] ∨ (e.x ∧ r.cmd.isNone ∧ !goReceived s r.tick) then s
          else
            let s := (s.setVault p { s.vault p with nbuEntry := i }).setNbu v { n with ran := true, run := some { r with stoch := if nbuStochastic e then r.stoch + 1 else r.stoch } }
            let n := s.nbu v
            if selPoison l e then
              nbuNext now (nbuFault s p v 4 fPoisonBite 0 (bv 64 biteAddress)) v false
            else
              let nn : Int := if selOn e.nsel then (nbuParam l (e.nsel - 64)).1.toInt else (e.n : Int)
              let xo : Nat := if e.x then (r.tick + 1) % 2 * 2 ^ fld (reg s rTckXchg) 0 6 / 512 else 0
              let a := selLine l e.asel e.a
              let b := selLine l e.bsel e.b + (xo : Int)
              let d := selLine l e.dsel e.d
              if nn < 1 ∨ !nbuNOk e nn.toNat then
                -- the manual names no line for an N out of range
                nbuNext now (nbuFault s p v 1 fNbuAddr (Config.unstated 20 now % 2 ^ 21) 0) v false
              else
                let (na, nb, nd, ns) := nbuSpans e nn.toNat
                match (outLine a na).orElse (fun _ => (outLine b nb).orElse (fun _ => (outLine d nd).orElse (fun _ => outLine (e.s : Int) ns))) with
                | some x => nbuNext now (nbuFault s p v 1 fNbuAddr x 0) v false
                | none =>
                  let j : NbuJob := { idx := i, e := e, n := nn.toNat, a := a.toNat, b := b.toNat, d := d.toNat, rd := 0, used := 0,
                                      ready := [], vec := [], acc := [], buf := [], pend := [], out := 0, elem := 0, ord := r.stoch }
                  s.setNbu v { n with run := n.run.map (fun q => { q with job := some j }) }
      | _, _, _ => s

/-! ### Reads of an entry, in order (R306, R312) -/

/-- Reads that an entry makes. -/
def nbuReads (j : NbuJob) : Nat :=
  match nbuKind j.e.op with
  | some .matvec => mvInLines j.e j.n + mvBScaleLines j.e j.n + mvAScaleLines j.e j.n + mvInitLines j.e + mvALines j.e j.n
  | some .elem => if nbuUsesB j.e.op then j.n else 0
  | some .scat => 2 * j.n
  | _ => j.n

/-- The line of read `i`: for MATVEC inputs and their scales, weight scales, initial values, weights; for SCATADD each
value line before its index line. -/
def nbuReadLine (j : NbuJob) (i : Nat) : Nat :=
  match nbuKind j.e.op with
  | some .matvec =>
    let nb := mvInLines j.e j.n + mvBScaleLines j.e j.n
    let ns := mvAScaleLines j.e j.n
    let ni := mvInitLines j.e
    if i < nb then j.b + i
    else if i < nb + ns then j.e.s + (i - nb)
    else if i < nb + ns + ni then j.d + (i - nb - ns)
    else j.a + (i - nb - ns - ni)
  | some .elem => j.b + i
  | some .scat => if i % 2 = 0 then j.a + i / 2 else j.b + i / 2
  | _ => j.a + i

/-! ### MATVEC (R313) -/

/-- Byte `i` of a run of lines with its poison. -/
def byteOf (ls : List Line) (i : Nat) : Nat × Bool :=
  let l := ls.getD (i / 512) Line.zero
  ((Line.byte l (i % 512)).toNat, l.marks.getLsbD (i % 512 / 32))

/-- Initial accumulators. -/
def mvInit (j : NbuJob) : List (BitVec 32 × Bool) :=
  let ls := j.vec.drop (mvInLines j.e j.n + mvBScaleLines j.e j.n + mvAScaleLines j.e j.n)
  (List.range (j.e.v * j.e.m)).map (fun i =>
    if j.e.t then (bv 32 (elOf .fp32 ls i), elBad .fp32 ls i) else (0#32, false))

/-- One step of the accumulator of vector `v`, column `n` at reduction index `k`, with weight code and poison `w`. -/
def mvStep (j : NbuJob) (v n k : Nat) (w : Nat × Bool) (acc : BitVec 32 × Bool) : BitVec 32 × Bool :=
  let e := j.e
  let vl := mvVecLines e j.n
  let inputs := (j.vec.drop (v * vl)).take vl
  let x := elOf e.bfmt inputs k
  let xb := elBad e.bfmt inputs k
  let sb := byteOf (j.vec.drop (mvInLines e j.n)) (v * ceilDiv j.n 32 + k / 32)
  let sa := byteOf (j.vec.drop (mvInLines e j.n + mvBScaleLines e j.n)) (k / 32 * e.m + n)
  let bad := acc.2 || w.2 || xb || (e.bscale && sb.2) || (e.ascale && sa.2)
  let v32 := if fmtIsInt e.afmt then
      acc.1 + BitVec.ofInt 32 (intVal (fmtWidth e.afmt) w.1 * intVal (fmtWidth e.bfmt) x)
    else f32Acc acc.1 (product e.bfmt e.afmt x w.1 (if e.bscale then e8m0 sb.1 else some 0) (if e.ascale then e8m0 sa.1 else some 0))
  (v32, bad)

/-- The accumulators after weight line `i`: its elements belong to one reduction index. -/
def mvLine (j : NbuJob) (i : Nat) (l : Line) : List (BitVec 32 × Bool) :=
  let e := j.e
  let per := fmtPerLine e.afmt
  let k := i / mvRow e
  let n0 := i % mvRow e * per
  let acc := if i = 0 then mvInit j else j.acc
  acc.mapIdx (fun ix a =>
    let v := ix / e.m
    let n := ix % e.m
    if n0 ≤ n ∧ n < n0 + per then
      mvStep j v n k (lineEl (fmtWidth e.afmt) l (n - n0), elPoison (fmtWidth e.afmt) l (n - n0)) a
    else a)

/-! ### Consuming a line -/

/-- The rounding context of an entry (R317). -/
def nbuSr (r : NbuRun) (v : Nat) (j : NbuJob) : SrCtx := ⟨j.e.rnd, r.seed, r.member, r.tick, v, j.ord⟩

/-- Elements in lines of a format, the last padded: the writes of lines from `d` on. -/
def outLines (f : Fmt) (d : Nat) : Nat → List (Nat × Bool) → List (Nat × AccessKind × Line)
  | 0, _ => []
  | n + 1, els => (d, .write, packLine f (els.take (fmtPerLine f))) :: outLines f (d + 1) n (els.drop (fmtPerLine f))

/-- The additions of one index line: a value whose index is out of range or poisoned is skipped. -/
def scatAdds (imm : Nat) (vals ixs : List (BitVec 32 × Bool)) : List (Nat × BitVec 32 × Bool) :=
  (List.zipWith (fun v ix => if ix.2 ∨ imm ≤ ix.1.toNat then none else some (ix.1.toNat, v.1, v.2)) vals ixs).filterMap id

/-- Consecutive additions to one line joined into one RMW. -/
def joinAdds (d : Nat) (t : Bool) : List (Nat × BitVec 32 × Bool) → List (Nat × AccessKind × Line)
  | [] => []
  | (e, v, p) :: r =>
    match joinAdds d t r with
    | (x, .rmwAdds t' adds, l) :: rest =>
      if x = d + e / 128 then (x, .rmwAdds t' ((e % 128, v, p) :: adds), l) :: rest
      else (d + e / 128, .rmwAdds t [(e % 128, v, p)], Line.zero) :: (x, .rmwAdds t' adds, l) :: rest
    | rest => (d + e / 128, .rmwAdds t [(e % 128, v, p)], Line.zero) :: rest

/-- The faults of one index line: NBU_INDEX for an index out of range, a bite for a poisoned one (R315, R322), with its element index as LINE: Table
10.10 gives it so for NBU_INDEX, and the model for the bite too (DESIGN CHOICE, log 112). -/
def scatFaults (p v imm i : Nat) (s : Stack) : List (BitVec 32 × Bool) → Stack
  | [] => s
  | ix :: r =>
    let s := if ix.2 then nbuFault s p v 4 fPoisonBite i (bv 64 biteAddress)
      else if imm ≤ ix.1.toNat then nbuFault s p v 2 fNbuIndex i 0 else s
    scatFaults p v imm (i + 1) s r

/-- The reduction of a near-bank unit's RSUM, RMIN, RMAX. -/
def nbuReduce (op : Nat) : VxK := match op with | 0x02 => .rsum | 0x03 => .rmin | _ => .rmax

/-- Read `j.used` of an entry consumed: the entry after it and the stack with the faults it raises. -/
def nbuConsume (s : Stack) (p v : Nat) (r : NbuRun) (j : NbuJob) (l : Line) : NbuJob × Stack :=
  let e := j.e
  let i := j.used
  let j' := { j with used := i + 1 }
  match nbuKind e.op with
  | some .matvec =>
    let pre := nbuReads j - mvALines e j.n
    if i < pre then ({ j' with vec := j.vec ++ [l] }, s)
    else
      let acc := mvLine j (i - pre) l
      if i + 1 = nbuReads j then
        let src : Fmt := if fmtIsInt e.afmt then .int32 else .fp32
        let els := cvtEls (nbuSr r v j) src e.ofmt e.sat 0 (acc.map (fun x => (x.1.toNat, x.2)))
        ({ j' with acc := acc, pend := outLines e.ofmt j.d (ceilDiv els.length (fmtPerLine e.ofmt)) els }, s)
      else ({ j' with acc := acc }, s)
  | some .reduce =>
    let k := nbuReduce e.op
    let acc := if i = 0 then List.replicate 128 (reduceId k e.t, false) else j.acc
    let acc := List.zipWith (fun x y => (reduceOp k e.t x.1 y.1, x.2 || y.2)) acc (line32 l)
    ({ j' with acc := acc, pend := if i + 1 = j.n then [(j.d, .write, pack32 acc)] else [] }, s)
  | some .elem => ({ j' with pend := j.pend ++ [(j.d + i, .rmwElem e.op e.t e.imm, l)], out := i + 1 }, s)
  | some .scat =>
    if i % 2 = 0 then ({ j' with vec := [l] }, s)
    else
      let vals := line32 (j.vec.getD 0 Line.zero)
      ({ j' with vec := [], pend := j.pend ++ joinAdds j.d e.t (scatAdds e.imm.toNat vals (line32 l)) },
       scatFaults p v e.imm.toNat (128 * (i / 2)) s (line32 l))
  | some .cvt =>
    let els := cvtEls (nbuSr r v j) e.afmt e.ofmt e.sat j.elem (lineEls e.afmt l)
    let buf := j.buf ++ els
    let per := fmtPerLine e.ofmt
    let n := if i + 1 = j.n then ceilDiv buf.length per else buf.length / per
    ({ j' with elem := j.elem + els.length, buf := buf.drop (n * per), out := j.out + n,
               pend := j.pend ++ outLines e.ofmt (j.d + j.out) n buf }, s)
  | none => (j', s)

/-- Delivered lines consumed in order while the next one is there. -/
def nbuDrain (p v : Nat) (r : NbuRun) : Nat → Stack → NbuJob → NbuJob × Stack
  | 0, s, j => (j, s)
  | n + 1, s, j =>
    match j.ready.find? (fun x => x.1 = j.used) with
    | none => (j, s)
    | some x =>
      let (j, s) := nbuConsume s p v r { j with ready := j.ready.filter (fun y => decide (y.1 ≠ x.1)) } x.2
      nbuDrain p v r n s j

/-! ### Requests (R306) -/

/-- Whether an entry has requested everything and consumed everything. -/
def nbuSpent (j : NbuJob) : Bool :=
  decide (j.rd = nbuReads j ∧ j.used = nbuReads j ∧ j.pend = []) && (decide (j.e.op ≠ 0x0D) || decide (j.out = j.n))

/-- Requests of an entry placed while fewer than 64 row operations, and 16 RMWs, are outstanding. -/
def nbuPlace (now p v : Nat) : Nat → Stack → NbuJob → Stack × NbuJob
  | 0, s, j => (s, j)
  | n + 1, s, j =>
    let out := nbuOut s p
    let rmws := (out.filter (fun a => isRmw a.kind)).length
    if 64 ≤ out.length then (s, j)
    else
      match j.pend with
      | (line, k, d) :: rest =>
        if isRmw k ∧ 16 ≤ rmws then
          if j.rd < nbuReads j then
            nbuPlace now p v n (nbuRequest now s p v (j.rd + 1) (nbuReadLine j j.rd) .read Line.zero) { j with rd := j.rd + 1 }
          else (s, j)
        else nbuPlace now p v n (nbuRequest now s p v 0 line k d) { j with pend := rest }
      | [] =>
        if j.e.op = 0x0D ∧ j.out < j.n then
          if 16 ≤ rmws then (s, j)
          else
            nbuPlace now p v n (nbuRequest now s p v 0 (j.d + j.out) (.rmwElem j.e.op j.e.t j.e.imm) Line.zero) { j with out := j.out + 1 }
        else if j.rd < nbuReads j then
          nbuPlace now p v n (nbuRequest now s p v (j.rd + 1) (nbuReadLine j j.rd) .read Line.zero) { j with rd := j.rd + 1 }
        else (s, j)

/-- An NBU operation's row: the started entry `x` of operation `op` at site `p` places its row operations. -/
def nbuRow (now : Nat) (s : Stack) (p op : Nat) (x : NbuEntry) : Stack :=
  if columnsHeld s then s
  else match siteCore s p with
  | none => s
  | some v =>
    match (s.nbu v).run with
    | none => s
    | some r =>
      match r.job with
      | none => s
      | some j =>
        if j.e = x ∧ x.op = op then
          let (s, j) := nbuPlace now p v 65 s j
          s.setNbu v { s.nbu v with run := some { r with job := some j } }
        else s

/-! ### Completion (R306, R319, R322) -/

/-- A row operation that the vault controller refused (R308). -/
def nbuRefused (a : Access) : Bool := decide (a.granted = 0)

/-- NBU_ROW_OP_COMPLETE at site `p`: the oldest granted row operation completes: its line is consumed in order, or its
write is done; an entry with nothing left ends. -/
def nbuComplete (now : Nat) (s : Stack) (p fails : Nat) (failing : BitVec 16) : Stack :=
  let x := s.vault p
  match x.flight.find? isNbu with
  | none => s
  | some a =>
    let s := s.setVault p { x with flight := x.flight.filter (fun y => decide (y.id ≠ a.id)) }
    let (s, a) := if nbuRefused a then (s, a) else columnTransfer now s p a fails failing
    let s := if nbuRefused a then s else setReg s (rNbuCount p) (addSat (reg s (rNbuCount p)) 32 32 1)
    match a.origin with
    | .nbu v tag =>
      match (s.nbu v).run with
      | none => s
      | some r =>
        match r.params, r.job with
        | none, none => s.setNbu v { s.nbu v with run := some { r with params := some a.result } }
        | _, some j =>
          let j := if tag = 0 then j else { j with ready := j.ready ++ [(tag - 1, a.result)] }
          let (j, s) := nbuDrain p v r 64 s j
          let run := match (s.nbu v).run with | some q => q | none => r
          let s := s.setNbu v { s.nbu v with run := some { run with job := some j } }
          if nbuSpent j ∧ nbuOut s p = [] then nbuNext now s v true else s
        | _, _ => s
    | _ => s

/-- Whether the unit of every vault has done its work of tick `t` (R319). -/
def nbuIdle (s : Stack) : Bool := s.nbus.all (fun e => (match e.2.run with | some r => r.cmd.isSome | none => true) && e.2.next.isNone)

/-- Whether an access is a row operation of a job's entries: an NBU_RUN goes on when a job ends. -/
def nbuOfJob (s : Stack) (a : Access) : Bool :=
  match a.origin with
  | .nbu v _ => (match (s.nbu v).run with | some r => r.cmd.isNone | none => true)
  | _ => false

/-- The row operations and entries of a job dropped in every unit: the end of a job under R70 or R302 (R324). -/
def nbuStop (s : Stack) : Stack :=
  let keep := fun (q : List Access) => q.filter (fun a => !nbuOfJob s a)
  { s with
    nbus := s.nbus.map (fun e => (e.1, { e.2 with run := e.2.run.filter (fun r => r.cmd.isSome), next := none }))
    vaults := s.vaults.map (fun e => (e.1, settleOwed
      { e.2 with nbu := keep e.2.nbu, rmw := e.2.rmw.filter (fun r => !nbuOfJob s r.2.2), flight := keep e.2.flight })) }

/-- NBU_STATUS (Table 10.8) of site `p`; the unit of a site that hosts no vault is IDLE. Table 10.8 does not say how long DONE and UNLICENSED last:
the model gives both only while a job runs, UNLICENSED where its licence set holds no near-bank units (DESIGN CHOICE, log 111). -/
def nbuStatus (s : Stack) (p : Nat) : Word :=
  match siteCore s p with
  | none => bv 64 ((s.vault p).nbuEntry * 2 ^ 16)
  | some v =>
    let n := s.nbu v
    let st := match n.run with
      | some r => (match r.params, r.job with
        | none, _ => 1
        | _, some _ => 3
        | _, none => (match r.todo with
          | i :: _ => (match n.sched[i]? with | some e => if e.x ∧ r.cmd.isNone ∧ !goReceived s r.tick then 2 else 3 | none => 3)
          | [] => 4))
      | none =>
        if jobRuns s ∧ s.tick.licence % 2 = 0 then 5 else if n.ran ∧ jobRuns s then 4 else 0
    bv 64 ((s.vault p).nbuEntry * 2 ^ 16 + (nbuOut s p).length * 2 ^ 8 + st)

end Sys2Proof.Machine
end

