-- ==== Sys2Proof/Machine/Power.lean ====
section
/-! DEFINITION. The cap controller (14_power_and_heat.md): what a tag costs, the prediction of a tick's power, the plan of
a tick, operating points and their changes, limits and floors. -/

namespace Sys2Proof.Machine
open Sys2Proof

/-! ### Operating points (Table 14.2) -/

/-- VDD_CMP in mV and ACLK in units of 0.625 MHz of a point: 2.50, 2.20, 1.875, 1.50, 1.25, 0.625 GHz. -/
def pointMv (p : Nat) : Nat := ([850, 800, 740, 680, 640, 600] : List Nat).getD p 600
def pointMhz (p : Nat) : Rat := ([2500, 2200, 1875, 1500, 1250, 625] : List Rat).getD p 625

/-- r(p): the energy per operation relative to P0 (Table 14.2). -/
def energyRatio (p : Nat) : Rat := ((pointMv p : Rat) / 850) * ((pointMv p : Rat) / 850)

/-- The tick length L in ACLK cycles (R47). -/
def tickLen (s : Stack) : Nat := 2 ^ fld (reg s rTckConfig) 0 5

/-- T(p), in microseconds. -/
def tickUs (s : Stack) (p : Nat) : Rat := (tickLen s : Rat) / pointMhz p

/-! ### Tags (R450, R453, R479, R480) -/

def tagSeen (s : Stack) (g : Nat) : Nat := fld (reg s (rPwrTag g)) 56 8
def tagRows (s : Stack) (g : Nat) : Nat := fld (reg s (rPwrTag g)) 24 22
def tagEnergy (s : Stack) (g : Nat) : Nat := fld (reg s (rPwrTag g)) 0 24
def oppPreferred (s : Stack) (g : Nat) : Nat := fld (reg s (rPwrOpp g)) 0 3
def oppFloor (s : Stack) (g : Nat) : Nat := fld (reg s (rPwrOpp g)) 8 3
def oppPriority (s : Stack) (g : Nat) : Nat := fld (reg s (rPwrOpp g)) 16 8

/-- The participating cores. -/
def partCores (s : Stack) : List Nat := (List.range 168).filter (fun c => (s.core c).participating)

/-- The tags in force on the participating cores, and those that the next tick will have. -/
def tagsNow (s : Stack) : List Nat := ((partCores s).map (fun c => (s.core c).phase.toNat)).eraseDups
def tagsNext (s : Stack) : List Nat := ((partCores s).map (fun c => (s.core c).nextPhase.toNat)).eraseDups

/-- A learned value after an observation `x` (R450). -/
def learnt (first : Bool) (old x : Nat) : Nat :=
  if first then x else ((old : Int) + (((x : Int) - (old : Int) + 8) / 16)).toNat

/-- A quotient in whole units where the manual states no rounding: the whole part, or one more where a fraction is left,
as a free value decides (log `log`). -/
def wholeUnits (log now : Nat) (x : Rat) : Nat :=
  let f := x.floor.toNat
  if (f : Rat) = x then f else f + Config.unstated log now % 2

/-- The activity count of a core: MAC steps, lane operations and line accesses under the stack's weights (R450). -/
def activityCount (s : Stack) (e : Nat × Nat × Nat × Nat) : Nat :=
  let w := Config.activityWeight (stackIndex s)
  w 0 * e.2.1 + w 1 * e.2.2.1 + w 2 * e.2.2.2

/-- The compute-die energy of a tick charged to each core that took part, in units of 0.1 µJ and normalised to P0: the die's energy in proportion to
the activity counts (R450). VDD_CMP is that of the point in force as the tick ends (log 11). -/
def chargedEnergy (s : Stack) (m : TickMeasure) : List (Nat × Rat) :=
  let of := m.activity.filter (fun e => (s.core e.1).participating)
  let total := of.foldl (fun n e => n + activityCount s e) 0
  if total = 0 then []
  else of.map (fun e => (e.1, (m.die : Rat) / 100 * (activityCount s e : Rat) / total / energyRatio s.power.point))

/-- The measurements of an ended tick for TAG_LEARN (R450): the compute-die energy charged to each core, normalised to P0
(units of 0.1 µJ), and the highest 1 µs draw in W. -/
def tagLearn (now : Nat) (s : Stack) (energy : List (Nat × Rat)) (peak : Nat) : Stack :=
  let eOf := fun (g : Nat) => (energy.filter (fun e => decide ((s.core e.1).phase.toNat = g))).foldl (fun n e => n + e.2) (0 : Rat)
  let rOf := fun (g : Nat) => ((partCores s).filter (fun c => decide ((s.core c).phase.toNat = g))).foldl
    (fun n c => n + (s.vault (coreSite s c)).tickRows) 0
  let tags := tagsNow s
  let most := tags.foldl (fun m g => max m (eOf g)) 0
  -- among tags of an equal largest share the manual names none
  let top := tags.filter (fun g => decide (eOf g = most))
  let charged := top[Config.unstated 11 now % top.length]?
  tags.foldl (fun s g =>
    let w := reg s (rPwrTag g)
    let first := decide (fld w 56 8 = 0)
    let e := min (2 ^ 24 - 1) (learnt first (fld w 0 24) (wholeUnits 21 now (eOf g)))
    let r := min (2 ^ 22 - 1) (learnt first (fld w 24 22) (wholeUnits 21 now ((rOf g : Rat) / 256)))
    let k := if charged = some g then min 1023 (learnt (!s.power.peakSeen.getLsbD g) (fld w 46 10) peak) else fld w 46 10
    let s := if charged = some g then
        { s with power := { s.power with peakSeen := s.power.peakSeen ||| (1#256 <<< g) } }
      else s
    setReg s (rPwrTag g) (setFld (setFld (setFld (setFld w 0 24 e) 24 22 r) 46 10 k) 56 8 (min 255 (fld w 56 8 + 1)))) s

/-! ### Limits (R446, R464, R465, R473) -/

/-- The lesser of an allowance and those that a forecast sets for tick `t`: kinds 0 COMPUTE, 1 DRAM, 2 STACK, 10 more before a phase
(PRECOOL). -/
def allowance (s : Stack) (kind t : Nat) (base : Rat) : Rat :=
  s.power.ahead.foldl (fun a e => if e.1 % 10 = kind ∧ e.2.1 ≤ t ∧ t ≤ e.2.2.1 then min a e.2.2.2 else a) base

/-- Λ: the least of cap, grant and base-die allowance. -/
def limitNow (s : Stack) (t : Nat) : Rat := min (s.power.cap : Rat) (min s.power.grant (allowance s 2 t s.power.allowStack))

/-! ### The prediction (R451) -/

/-- C, D for the tag set's energy `e` (0.1 µJ) and rows `n` at a point and a vault rate, in W. -/
def termC (s : Stack) (e p : Nat) : Rat := (e : Rat) / 10 * energyRatio p / tickUs s p
def termD (s : Stack) (n p rho : Nat) : Rat :=
  min (n : Rat) ((rho * 168 : Nat) * (tickUs s p * 2500) / 1024) * (8192 / 10000000) / tickUs s p

def sumEnergy (s : Stack) (g : List Nat) : Nat := g.foldl (fun n x => n + tagEnergy s x) 0
def sumRows (s : Stack) (g : List Nat) : Nat := g.foldl (fun n x => n + 256 * tagRows s x) 0

/-- pred(G, p, ρ). -/
def predict (s : Stack) (g : List Nat) (p rho : Nat) : Rat :=
  termC s (sumEnergy s g) p + termD s (sumRows s g) p rho + s.power.fixed

/-- Whether a plan fits (R451). -/
def fits (s : Stack) (g : List Nat) (t p rho : Nat) : Bool :=
  decide (predict s g p rho ≤ limitNow s t)
    && decide (termC s (sumEnergy s g) p ≤ min (allowance s 0 t s.power.allowCompute) s.power.allowGov)
    && decide (termD s (sumRows s g) p rho ≤ allowance s 1 t s.power.allowDram)

/-! ### The plan (R452, R466, R470) -/

/-- The first point from `p` on, and below `stop`, at which `ok` holds; else `stop`. -/
def lowerPoint (ok : Nat → Bool) (stop : Nat) : Nat → Nat → Nat
  | 0, p => p
  | n + 1, p => if p < stop ∧ !ok p then lowerPoint ok stop n (p + 1) else p

/-- The largest rate in `lo..hi` that fits, else `dflt`. -/
def largestRate (ok : Nat → Bool) (lo hi dflt : Nat) : Nat :=
  (((List.range (hi + 1 - lo)).map (fun i => hi - i)).find? ok).getD dflt

/-- The point and vault rate that R452 chooses for tag set `g` in tick `t`. Floors are ignored in a coolant stop. -/
def planTick (s : Stack) (g : List Nat) (t : Nat) : Nat × Nat :=
  let top := g.foldl (fun m x => max m (oppPriority s x)) 0
  let pref := (g.filter (fun x => decide (oppPriority s x = top))).foldl (fun m x => min m (oppPreferred s x)) 5
  let p := if g = [] then 0 else pref
  if g.any (fun x => decide (tagSeen s x = 0)) then (p, 1024)
  else
    let pf := if s.power.coolantStop then 5 else g.foldl (fun m x => max m (oppFloor s x)) 0
    let p := lowerPoint (fun p => fits s g t p 1024) pf 6 p
    let rho := largestRate (fun r => fits s g t p r) 256 1024 256
    let p := lowerPoint (fun p => fits s g t p rho) 5 6 p
    if fits s g t p rho then (p, rho)
    else (p, largestRate (fun r => fits s g t p r) 1 256 1)

/-- A change of point begun when none is in progress and the point chosen last differs (R449): downward ACLK stops. -/
def beginChange (s : Stack) : Stack :=
  let w := s.power
  match w.change with
  | some _ => s
  | none =>
    if w.target = w.point then s
    else { s with power := { w with change := some w.target, stopped := decide (w.point < w.target) } }

/-- The operating point chosen. A hard limit or a coolant stop holds the compute die at P5 (R466, R470). -/
def choosePoint (s : Stack) (p : Nat) : Stack :=
  let p := if s.power.hardCompute ≠ 0 ∨ s.power.hardBase ∨ s.power.coolantStop then 5 else p
  beginChange { s with power := { s.power with target := p } }

/-- The vault rate written to VLT_RATE of every vault controller (R247, R452); a hard limit of a DRAM layer or the base
die holds it at 1 (R466). -/
def setRates (s : Stack) (rho : Nat) : Stack :=
  let rho := if s.power.hardLayers ≠ 0 ∨ s.power.hardBase then 1 else rho
  (List.range 184).foldl (fun s p => setReg s (rVltRate p) (setFld (reg s (rVltRate p)) 0 11 rho)) s

/-- CAP_PLAN at the start of tick `t` (R446, R452): a waiting cap takes effect, point and rate are chosen. -/
def capPlan (s : Stack) (t : Nat) : Stack :=
  let s := { s with power := { s.power with cap := s.power.capNext.getD s.power.cap, capNext := none, capOver := false,
                                            grantWait := false, grantRaised := false } }
  let (p, rho) := planTick s (tagsNow s) t
  let s := setRates (choosePoint s p) rho
  { s with power := { s.power with predNow := predict s (tagsNow s) p rho } }

/-- The compute die at P0 and the vault rate at 1,024 while no job runs (R452); the forecast discarded (R471). -/
def powerJobEnd (s : Stack) : Stack :=
  let s := { s with power := { s.power with cap := s.power.capNext.getD s.power.cap, capNext := none, grantWait := false,
                                            forecast := [], ahead := [] } }
  setRates (choosePoint s 0) 1024

/-- Whether the grant lets a tick with the next tag set start (R457). -/
def grantLets (s : Stack) : Bool := decide (predict s (tagsNext s) 5 1 ≤ s.power.grant)

/-! ### Floors (R454) -/

/-- Stack slope σ in W per ms: a quarter of the module's as of the arbiter's last period, 500 in a coolant stop (R445, R446, R470). -/
def slope (s : Stack) : Rat := if s.power.coolantStop then 500 else s.power.sigma

/-- The most that the compute die may draw under R464 to R466: its allowances; held at P5 by a hard limit, no more than the tags in force are
predicted to draw there, once each has been seen (log 120). -/
def computeBound (s : Stack) : Rat :=
  let a := min (allowance s 0 (tickOf s) s.power.allowCompute) s.power.allowGov
  if (s.power.hardCompute ≠ 0 ∨ s.power.hardBase) ∧ (tagsNow s).all (fun g => decide (tagSeen s g ≠ 0)) then min a (termC s (sumEnergy s (tagsNow s)) 5) else a

/-- The most that the DRAM may draw: its allowance; held at ρ = 1 by a hard limit, no more than one row command in 1,024 cycles in each vault. -/
def dramBound (s : Stack) : Rat :=
  let a := allowance s 1 (tickOf s) s.power.allowDram
  if s.power.hardLayers ≠ 0 ∨ s.power.hardBase then min a ((168 * 2500 : Rat) / 1024 * (8192 / 10000000)) else a

/-- Φ at a cycle: the floor held before, fallen at σ, within the bounds of R454. -/
def floorNow (now : Nat) (s : Stack) : Rat :=
  let f := s.power.floor - slope s * ((now - s.power.floorAt : Nat) : Rat) / 2500000
  max 0 (min f (min (limitNow s (tickOf s)) (computeBound s + dramBound s + s.power.fixed)))

/-- The floor as it stands now noted: where a bound has fallen below it, it has the bound's value from now on (R454). -/
def cutFloor (now : Nat) (s : Stack) : Stack := { s with power := { s.power with floor := floorNow now s, floorAt := now } }

end Sys2Proof.Machine
end

