-- ==== Sys2Proof/Machine/Coll.lean ====
section
/-! DEFINITION. The tree of a tick domain (R51-R53) and the collective engine (R399-R402): entries, partials combined in
child order, results written and forwarded. -/

namespace Sys2Proof.Machine
open Sys2Proof

/-! ### The tree (R51-R53, R79) -/

def memberIx (s : Stack) : Nat := fld (reg s rTckDomain) 16 14
def memberCount (s : Stack) : Nat := s.tick.members.length
def domainId (s : Stack) : Nat := fld (reg s rTckDomain) 48 16
def memberNode (s : Stack) (i : Nat) : Nat := s.tick.members.getD i 0xFFFF

/-- The parent of a member; none for the leader. -/
def treeParent (s : Stack) : Option Nat := if memberIx s = 0 then none else some ((memberIx s - 1) / 8)

/-- The children of the member, ascending. -/
def treeKids (s : Stack) : List Nat :=
  ((List.range 8).map (fun k => 8 * memberIx s + 1 + k)).filter (fun k => decide (k < memberCount s))

/-- A 16-bit tick rebuilt as the full tick nearest to the member's own (R57). -/
def fullTick (s : Stack) (t16 : Nat) : Nat :=
  let t := tickOf s
  let d := (t16 + 65536 - t % 65536) % 65536
  if d < 32768 then t + d else t + d - 65536

/-! ### Entries (Table 12.11) -/

def collOp (e : List Word) : Nat := fld (e.getD 0 0) 60 4
def collInt (e : List Word) : Bool := decide (fld (e.getD 0 0) 56 4 = 0xA)
def collTag (e : List Word) : Nat := fld (e.getD 0 0) 48 8
def collCore (e : List Word) : Nat := fld (e.getD 0 0) 40 8
def collFlag (e : List Word) : Nat := fld (e.getD 0 0) 32 8
def collVault (e : List Word) : Nat := fld (e.getD 0 0) 24 8
def collN (e : List Word) : Nat := fld (e.getD 0 0) 0 6 + 1
def collSrc (e : List Word) : Nat := fld (e.getD 1 0) 32 32
def collDst (e : List Word) : Nat := fld (e.getD 1 0) 0 32

/-- Line `a` as a reader at the base end gets it, with the events of its decode (R267). -/
def readLineAt (s : Stack) (a : Nat) : Line × Stack :=
  match place a with
  | .vault v _ =>
    if holding s a = .coded then
      let (syn, s) := decodeRow s (coreSite s v) a
      (deliver .coded (rawLine s a) syn, s)
    else (deliver (holding s a) (rawLine s a) (lineSyn s a), s)
  | _ => (deliver .sram (rawLine s a) (lineSyn s a), s)

/-- A whole line stored. -/
def storeLineAt (s : Stack) (a : Nat) (l : Line) : Stack := writeLineSeen s a l fullMask (lineSyn s a)

/-- Two lines combined element by element (R400): 1 SUM, 2 MIN, 3 MAX; BCAST keeps the member's own. -/
def combineLines (e : List Word) (a b : Line) : Line :=
  let f := fun (k : VxK) => pack32 (List.zipWith (fun x y => (reduceOp k (collInt e) x.1 y.1, x.2 || y.2)) (line32 a) (line32 b))
  match collOp e with
  | 1 => f .rsum
  | 2 => f .rmin
  | 3 => f .rmax
  | _ => a

/-- A line with every word poisoned. -/
def allPoison (l : Line) : Line := { l with marks := 0xFFFF#16 }

/-! ### Runs (R400, R401) -/

def findRun (s : Stack) (k t : Nat) : Option CollRun := s.router.coll.find? (fun r => decide (r.entry = k ∧ r.tick = t))

/-- The stack with a run replaced, or added. -/
def putRun (s : Stack) (r : CollRun) : Stack :=
  let others := s.router.coll.filter (fun x => !decide (x.entry = r.entry ∧ x.tick = r.tick))
  { s with router := { s.router with coll := others ++ [r] } }

def dropRun (s : Stack) (k t : Nat) : Stack :=
  { s with router := { s.router with coll := s.router.coll.filter (fun x => !decide (x.entry = k ∧ x.tick = t)) } }

/-- A run that has nothing yet. -/
def newRun (k t : Nat) : CollRun := ⟨k, t, false, [], [], false, [], false, false⟩

/-- A line of entry `k` for tick `t` sent to member `i`. -/
def sendColl (now : Nat) (s : Stack) (up : Bool) (i k t ix : Nat) (l : Line) : Stack :=
  (txPacket now s { ty := if up then .collUp else .collDown, src := nodeId s, dst := memberNode s i, addr := ix, poison := l.marks,
                    domain := domainId s, tick := t % 65536, entry := k, data := lineBytes l }).2

/-- Result line `ix` at the member: forwarded to the children, written to DST unless the entry's words read poisoned;
once every line is written FLAG of CORE is set and the run ends (R400, R402). -/
def collResult (now : Nat) (s : Stack) (e : List Word) (r : CollRun) (ix : Nat) (l : Line) : Stack :=
  let out := if r.poisoned then allPoison l else l
  let s := (treeKids s).foldl (fun s c => sendColl now s false c r.entry r.tick ix out) s
  let s := if r.poisoned then s else storeLineAt s (vaultLine (collVault e) (collDst e + ix)) l
  let r := { r with written := r.written ++ [ix] }
  if collN e ≤ r.written.length then setLocalFlag now (dropRun s r.entry r.tick) (collCore e) (collFlag e) true
  else putRun s r

/-- The accumulated lines: the member's own, then each child's partial in ascending order of its index (R76, R400). -/
def collAcc (s : Stack) (e : List Word) (r : CollRun) : List Line :=
  (List.range (collN e)).map (fun ix =>
    let own := r.own.getD ix Line.zero
    let l := (treeKids s).foldl (fun a c => match r.got.find? (fun g => decide (g.1 = c ∧ g.2.1 = ix)) with
      | some g => combineLines e a g.2.2
      | none => a) own
    if r.poisoned then allPoison l else l)

/-- A run whose own lines and children's lines are all in goes up, or at the leader its result goes down. -/
def collAdvance (now : Nat) (s : Stack) (e : List Word) (k t : Nat) : Stack :=
  match findRun s k t with
  | none => s
  | some r =>
    let full := (treeKids s).all (fun c => (List.range (collN e)).all (fun ix => r.got.any (fun g => decide (g.1 = c ∧ g.2.1 = ix))))
    if !r.started || r.up || !full then s
    else
      let acc := collAcc s e r
      let s := putRun s { r with up := true }
      match treeParent s with
      | some i => acc.zipIdx.foldl (fun s l => sendColl now s true i k t l.2 l.1) s
      | none => acc.zipIdx.foldl (fun s l => match findRun s k t with
          | some r => collResult now s e r l.2 l.1
          | none => s) s

/-- The run of entry `k` for tick `t` starts: the engine reads its SRC lines (R400). `bad` says that an entry word read
poisoned: it bites at the address point and nothing is read (R402). -/
def collStart (now : Nat) (s : Stack) (k t : Nat) (bad : Bool) : Stack :=
  match s.tick.entries[k]? with
  | none => s
  | some e =>
    if (s.core (collCore e)).phase.toNat ≠ collTag e then s
    else
      let r := (findRun s k t).getD (newRun k t)
      let s := if bad then biteUnit s haCollective biteAddress else s
      let reads := !bad && (decide (collOp e ≠ 4) || decide (memberIx s = 0))
      let (ls, s) := if reads then
          (List.range (collN e)).foldl (fun (acc : List Line × Stack) ix =>
            let (l, s) := readLineAt acc.2 (vaultLine (collVault e) (collSrc e + ix))
            (acc.1 ++ [l], s)) ([], s)
        else
          -- what a member other than 0 sends up for BCAST, and what stands under a poisoned partial, is unstated
          ((List.range (collN e)).map (fun ix => (⟨bv 4096 (Config.unstated 22 (now + ix)), 0⟩ : Line)), s)
      collAdvance now (putRun s { r with started := true, own := ls, poisoned := bad }) e k t

/-- The entries of tick `t` start when the member sends done(t) (R400). -/
def collBegin (now : Nat) (s : Stack) (t : Nat) (bad : List Nat) : Stack :=
  (List.range s.tick.entries.length).foldl (fun s k => collStart now s k t (bad.contains k)) s

/-- Whether every run that done(t) waits for has ended: those of ticks before `t` (R401). -/
def collDone (s : Stack) (t : Nat) : Bool := s.router.coll.all (fun r => !r.started || decide (t ≤ r.tick))

/-- A run that still lacks its result when tick t + 1 closes raises COLL_STALL once (R402). -/
def collStall (s : Stack) (t : Nat) : Stack :=
  s.router.coll.foldl (fun s r =>
    if r.tick + 1 = t ∧ r.started ∧ !r.stalled then putRun (raise s { source := fCollStall, addr := haCollective }) { r with stalled := true } else s) s

/-! ### Packets of the tree (R400, R402) -/

/-- The line that a collective packet carries. -/
def packetLine (k : Packet) : Line := ⟨bv 4096 (bytesNat k.data), k.poison⟩

/-- A child's partial: combined when its entry and line exist here; COLL_MISMATCH otherwise (R402). After the end of the job it still completes a
run that has started, as one of its last tick (R400); any other is dropped. -/
def collUpArrive (now : Nat) (s : Stack) (k : Packet) : Stack :=
  let runs := decide (s.tick.phase ≠ .idle) || (findRun s k.entry (fullTick s k.tick)).any (fun r => r.started)
  if !s.tick.joined || decide (k.domain ≠ domainId s) || !runs then s
  else
    match (treeKids s).find? (fun c => decide (memberNode s c = k.src)) with
    | none => s
    | some c =>
      match s.tick.entries[k.entry]? with
      | none => raise s { source := fCollMismatch, addr := haCollective }
      | some e =>
        if collN e ≤ k.addr then raise s { source := fCollMismatch, addr := haCollective }
        else
          let t := fullTick s k.tick
          let r := (findRun s k.entry t).getD (newRun k.entry t)
          if r.got.any (fun g => decide (g.1 = c ∧ g.2.1 = k.addr)) then s
          else collAdvance now (putRun s { r with got := r.got ++ [(c, k.addr, packetLine k)] }) e k.entry t

/-- A result line from the parent. -/
def collDownArrive (now : Nat) (s : Stack) (k : Packet) : Stack :=
  if !s.tick.joined || decide (k.domain ≠ domainId s) then s
  else
    match treeParent s, s.tick.entries[k.entry]? with
    | some i, some e =>
      let t := fullTick s k.tick
      if memberNode s i ≠ k.src then s
      else
        match findRun s k.entry t with
        | some r => if r.written.contains k.addr ∨ collN e ≤ k.addr then s else collResult now s e r k.addr (packetLine k)
        | none => s
    | _, _ => s

end Sys2Proof.Machine
end

