-- ==== Sys2Proof/Machine/Repair.lean ====
section
/-! DEFINITION. Repair at a job boundary (R27-R29, R43, R45, R46, R527-R531): burning new failures, retiring rows, shifting
chains, migrating logical cores, the geometry registers. -/

namespace Sys2Proof.Machine
open Sys2Proof

/-! ### Geometry (R41, R45) -/

/-- Whether a column of row `r` runs on its TSV lanes as a fallback (Table 16.10, R257). -/
def rowDegraded (s : Stack) (r : Nat) : Bool := (List.range 23).any (fun q => decide ((s.vault (r * 23 + q)).path = 2))

/-- ID_GEOMETRY as the row maps and the columns give it; 0 where no row is usable (R488). -/
def geometryWord (s : Stack) : Word :=
  let bits := fun (f : Nat → Bool) => (List.range 8).foldl (fun n r => if f r then n + 2 ^ r else n) 0
  let map := fun r => reg s (rIdRowMap r)
  bv 64 (if (List.range 8).all (rowRetired s) then 0 else bits (fun r => rowDegraded s r) * 2 ^ 24
    + bits (fun r => !rowRetired s r && decide (fld (map r) 8 3 = 7)) * 2 ^ 16
    + bits (fun r => !rowRetired s r && decide (fld (map r) 0 5 = 0x1F)) * 2 ^ 8
    + bits (fun r => !rowRetired s r))

/-- ID_GEOMETRY loaded (R45). -/
def loadGeometry (s : Stack) : Stack := setReg s rIdGeometry (geometryWord s)

/-- Geometry class (R41). -/
def geometryClass (s : Stack) : Nat := fld (reg s rIdGeometry) 0 8

/-! ### Pending failures (R527, R534, R540) -/

/-- Positions of row `r` whose pending bits are set. -/
def pendingAt (s : Stack) (r : Nat) : List Nat := (List.range 23).filter (fun q => decide (fld (reg s (rFltRowPend r)) (pendBit q) 1 = 1))

/-- A degraded column counts as a failed site as FLT_REPAIR_CFG.DEGRADED_ACTION says (R534). -/
def degradedFails (s : Stack) : Stack :=
  let act := fld (reg s rFltRepairCfg) 0 2
  (List.range 184).foldl (fun s p =>
    if (s.vault p).path ≠ 2 then s
    else
      let map := reg s (rIdRowMap (p / 23))
      let hosts : Bool := match siteCore s p with
        | some c => if c < 0x80 then decide (fld map 0 5 = 0x1F) else if c < 0xA0 then decide (fld map 8 3 = 7) else false
        | none => false
      if (act = 1 ∧ hosts) ∨ act = 2 then (if s.burnt.contains p then s else siteFailed s p) else s) s

/-- The sites whose failure is pending, ascending. -/
def pendingSites (s : Stack) : List Nat := (List.range 8).flatMap (fun r => (pendingAt s r).map (fun q => r * 23 + q))

/-! ### Migration (R530) -/

/-- A word of a vault as it arrives at another site, its decode having seen `syn`: poisoned ones stay poisoned, the rest arrive clean. -/
def migrateWord (s : Stack) (g : Nat) (syn : BitVec 16) : Stack :=
  match holding s (g * 32) with
  | .coded => copyWord s g syn
  | .unchecked => if markOf s g = 0xFFFF#16 then s else { s with marks := tset (fun _ => 0) s.marks g 0 }
  | .sram => s

/-- A vault line read at site `p` and its words as they arrive at the other, with the read events of Table 9.3 (R526, R530). -/
def migrateVaultLine (s : Stack) (p a : Nat) : Stack :=
  let (syn, s) := if holding s a = .coded then decodeRow s p a else (lineSyn s a, s)
  (List.range 16).foldl (fun s w => migrateWord s (a / 32 + w) (syn.getD w 0)) s

/-- The lines of vault `v` that hold a marked word, ascending. -/
def markedLines (s : Stack) (v : Nat) : List Nat :=
  ((s.marks.map (fun e => e.1 * 32)).filter (fun a => match place a with | .vault w _ => decide (w = v) | _ => false)).map (fun a => a / 512) |>.eraseDups

/-- Core `c`'s contents copied from site `p` in one step, as in PROOFING, where no request competes: a line without a marked word reads and
arrives as it stands. -/
def migrateFrom (s : Stack) (c p : Nat) : Stack := (markedLines s c).foldl (fun s l => migrateVaultLine s p (l * 512)) s

/-- Lines that a migration of core `c` moves: of its vault, its slice, its scratch or data SRAM, its instruction memory, in this order. -/
def vaultLines : Nat := 1572864
def sliceLines : Nat := 16384
def migrateLines (c : Nat) : Nat := vaultLines + sliceLines + scratchLines (coreKind c) + imemLines (coreKind c)

/-- The address of line `k` of a migration, with the unit and the checker that read it at site `p`; none where it is a vault line. -/
def migrateAddr (c p k : Nat) : Nat × Option (Nat × Nat) :=
  let w := windowBase c
  let slice := k - vaultLines
  let scr := slice - sliceLines
  if k < vaultLines then (vaultLine c k, none)
  else if slice < sliceLines then (w + 0x800000 + slice * 512, some (haSlice p, 0))
  else if scr < scratchLines (coreKind c) then (w + scr * 512, some (haSite p, 0))
  else (w + 0x400000 + (scr - scratchLines (coreKind c)) * 512, some (haSite p, 1))

/-- The logical core that migrates now. -/
def migrating (s : Stack) : Option Nat := s.mend.moves.head?.map (fun e => e.1)

/-- Whether an Ivton request to core `c`'s vault, slice or window is in progress (R391, R531). -/
def requestAt (s : Stack) (c : Nat) : Bool :=
  s.router.rsps.any (fun r => match place r.pkt.addr with | .vault v _ => decide (v = c) | .window d _ => decide (d = c) | _ => false)

/-- The next row operation of the migration of core `c` to site `p`, at rank 5: operation 2k reads line k at the old site, operation 2k + 1 writes it
at the new one (R530). None where it cannot be granted yet. -/
def migrateStep (now : Nat) (s : Stack) (c p : Nat) : Option Stack :=
  let k := s.mend.line / 2
  let old := coreSite s c
  let (a, sram) := migrateAddr c old k
  let since := s.mend.lineAt.getD (now - 2)
  if s.mend.line % 2 = 1 then firmwareRow now s p a true since
  else
    (firmwareRow now s old a false since).map (fun s => match sram with
      | none => migrateVaultLine s old a
      | some (unit, checker) => injectSram s unit checker (a / 32))

/-! ### The boundary (R528, R529) -/

/-- The cores of a row that move when its map changes from `old` to `map`, each with its old and new site, from the easternmost westward. -/
def movesBetween (r : Nat) (old map : Word) : List (Nat × Nat × Nat) :=
  let pairs := (rowCores r).filterMap (fun c => if mapSite old c = mapSite map c then none else some (c, mapSite old c, mapSite map c))
  (List.range 23).flatMap (fun q => pairs.filter (fun e => decide (e.2.1 % 23 = 22 - q)))

/-- The cores of a row that move when its map becomes `map`, each with its new site. -/
def rowMoves (s : Stack) (r : Nat) (map : Word) : List (Nat × Nat) := (movesBetween r (reg s (rIdRowMap r)) map).map (fun e => (e.1, e.2.2))

/-- Every failure of row `r` that the core-repair fuses hold. -/
def burntFails (s : Stack) (r : Nat) : Word :=
  s.burnt.foldl (fun w p => if p / 23 = r then setFld w (pendBit (p % 23)) 1 1 else w) 0

/-- A boundary repair begun at cycle `now`: the sites whose failure is pending are taken, and those not burnt yet are to be burnt (R529 step 1). -/
def mendBegin (now : Nat) (s : Stack) : Stack :=
  let new := (pendingSites s).filter (fun p => !s.burnt.contains p)
  { s with mend := { s.mend with since := some now, taken := pendingSites s }, burns := s.burns ++ new.map Burn.site }

/-- Whether a partition neither runs a job nor holds an ADMITTED one, at a stack whose PROOFING is past (R528). -/
def mendFree (s : Stack) : Bool :=
  decide (s.pstate ≠ .running ∧ s.pstate ≠ .admitted ∧ s.tick.phase = .idle) &&
    decide (s.boot ≠ .off ∧ s.boot ≠ .rom ∧ s.boot ≠ .verify ∧ s.boot ≠ .proofing)

/-- The end of a boundary repair: maps, geometry and the pending bits of the failures that it has taken (R529 step 5). A site that has failed
meanwhile is repaired in its turn, at once where its partition is at rest (R528). -/
def mendEnd (now : Nat) (s : Stack) : Stack :=
  let s := s.mend.maps.foldl (fun s e => setReg s (rIdRowMap e.1) e.2) s
  let s := s.mend.taken.foldl (fun s p => setReg s (rFltRowPend (p / 23)) (setFld (reg s (rFltRowPend (p / 23))) (pendBit (p % 23)) 1 0)) s
  let s := loadGeometry { s with mend := Mend.reset }
  if mendFree s ∧ pendingSites s ≠ [] then mendBegin now s else s

/-- The rows taken in order once every new failure is burnt (R529 steps 2-4): each chain's map, burnt before it is applied (R43), ROW_RETIRED
for a row that retires, the migrations to make. A row retired already keeps its sites and takes the further failures (R34, R46). -/
def mendApply (now : Nat) (s : Stack) : Stack :=
  let at_ := fun (r : Nat) => s.mend.taken.filter (fun p => decide (p / 23 = r))
  let rows := (List.range 8).filter (fun r => at_ r ≠ [])
  let s := rows.foldl (fun s r =>
    let map := rowMapAfter (reg s (rIdRowMap r)) (burntFails s r)
    let s := { s with fuseMaps := tput s.fuseMaps r map, mend := { s.mend with maps := tput s.mend.maps r map } }
    if fld map 31 1 = 1 then
      if rowRetired s r then s
      else
        let qs := (at_ r).map (fun p => p % 23)
        raise s { source := fRowRetired, addr := haSite (r * 23 + if qs.contains 10 then 10 else qs.foldl max 0), detail1 := map }
    else { s with mend := { s.mend with moves := s.mend.moves ++ rowMoves s r map } }) s
  if s.mend.moves = [] then mendEnd now s else s

/-- A job boundary of the stack falls at cycle `now` (R529): new failures go to the core-repair fuses one by one; with
none pending there is nothing to do. -/
def jobBoundary (now : Nat) (s : Stack) : Stack :=
  if s.mend.since.isSome then s
  else
    let s := degradedFails s
    if pendingSites s = [] then s
    else
      let t := mendBegin now s
      if t.burns.length = s.burns.length then mendApply now t else t

/-- The site failures of a stack at rest are repaired at once (R528). -/
def mendIdle (now : Nat) (s : Stack) : Stack := if mendFree s then jobBoundary now s else s

/-- The parameter line and the entry count of a vault's schedule, with the near-bank unit of its new site (R301, R309). -/
def moveNbuCfg (s : Stack) (old new : Nat) : Stack :=
  if old = new then s else setReg (setReg s (rNbuCfg new) (reg s (rNbuCfg old))) (rNbuCfg old) 0

/-- Core `c`'s contents all at site `p`: its addresses switch to it in one step; after the last core the boundary repair ends (R530). -/
def migrateSwitch (now : Nat) (s : Stack) (c p : Nat) (rest : List (Nat × Nat)) : Stack :=
  let s := moveNbuCfg s (coreSite s c) p
  let s := { s with mend := { s.mend with moves := rest, moved := tput s.mend.moved c p, line := 0, lineAt := none } }
  if rest = [] then mendEnd now s else s

/-- MIGRATION_COMPLETE of core `c`, the one that migrates: its next row operation, once the Ivton requests to it that were in progress have
completed; after the last one its addresses switch (R530, R531). -/
def migrationComplete (now : Nat) (s : Stack) (c : Nat) : Stack :=
  match s.mend.moves with
  | [] => s
  | (d, p) :: rest =>
    if d ≠ c ∨ (s.mend.line = 0 ∧ requestAt s c) then s
    else
      match migrateStep now s c p with
      | none => { s with mend := { s.mend with lineAt := some (s.mend.lineAt.getD (now - 2)) } }
      | some s =>
        if s.mend.line + 1 < 2 * migrateLines c then { s with mend := { s.mend with line := s.mend.line + 1, lineAt := some now } }
        else migrateSwitch now s c p rest

/-- A failed site burnt (R43): the last one lets the repair go on. -/
def siteBurnt (now : Nat) (s : Stack) (p : Nat) : Stack :=
  let s := { s with burnt := if s.burnt.contains p then s.burnt else s.burnt ++ [p] }
  if s.mend.since.isSome && s.burns.all (fun b => match b with | .site _ => false | _ => true) && s.mend.moves.isEmpty then mendApply now s
  else s

end Sys2Proof.Machine
end

