-- ==== Sys2Proof/Machine/Tick.lean ====
section
/-! DEFINITION. Ticks (02_tick_and_determinism.md): tokens on the tree, starting, completing, overrunning and closing a
tick, the end of a job at a member and on its partition. -/

namespace Sys2Proof.Machine
open Sys2Proof

/-! ### Tokens (R53-R59, R381) -/

/-- Whether the member takes part in a job. -/
def jobOn (s : Stack) : Bool := decide (s.tick.phase ≠ .idle)

/-- The members at the other ends of the member's tree edges. -/
def treeEdges (s : Stack) : List Nat := (treeParent s).toList ++ treeKids s

/-- A token sent to member `i`; the flag says that a link could carry it (R381). -/
def sendToken (s : Stack) (ty : TokenTy) (i field : Nat) : Bool × Stack :=
  let node := memberNode s i
  let from_ := match ty with | .go => 0 | _ => memberIx s
  match egressLink s node with
  | some l => (true, putToken s l ty ⟨bv 14 from_, bv 16 (domainId s), bv 16 field, bv 16 node⟩)
  | none => (false, s)

/-- A token sent to each of several members; the flag says that every one could be sent. -/
def sendTokens (s : Stack) (ty : TokenTy) (dests : List Nat) (field : Nat) : Bool × Stack :=
  dests.foldl (fun (a : Bool × Stack) i => let (ok, s) := sendToken a.2 ty i field; (a.1 && ok, s)) (true, s)

/-! ### Exchange gates (R64, R70) -/

/-- Whether an exchange access of engine `e` of core `c` waits at the gate. -/
def gateWaits (s : Stack) (c : Nat) (e : Engine) : Bool :=
  match nextOp ((s.core c).queue e) with
  | some (x, op, before) => coreRuns s c && ldstX op && !goReceived s x.tick && mayOverlap op before && !passHolds s c before
  | none => false

/-- Whether an exchange access of the member waits at its gate: of a core, or an entry of a near-bank unit (R320). -/
def gateWaiting (s : Stack) : Bool :=
  (partCores s).any (fun c => gateWaits s c .ld || gateWaits s c .st)
    || s.nbus.any (fun e => match e.2.run with
      | some r => r.cmd.isNone && r.params.isSome && r.job.isNone && !goReceived s r.tick
          && (match r.todo with | i :: _ => (match e.2.sched[i]? with | some x => x.x | none => false) | [] => false)
      | none => false)

/-! ### The end of a job at a member (R70, R191-R193, R439) -/

/-- A core as the end of the job leaves it: HALTED, or FAULTED until its outstanding responses are in; every engine queue
and data queue empty, flags and memories as they are (R191, R193). -/
def endCore (k : Core) : Core :=
  if !k.participating then k
  else
    { k with
      run := if k.run = .faulted ∧ k.reqs ≠ [] then .faulted else .halted
      participating := false
      loops := [], seqCur := none, seqGate := none, seqStopped := false, seqStall := false, seqHold := false, halting := false
      mx := [], vx := [], sx := [], ld := [], st := [], nl := [], fx := []
      dqs := k.dqs.map (fun e => (e.1, { e.2 with head := 0, slots := [], popped := 0, part := [] }))
      tickEnd := false
      nlIn := [LinkIn.empty, LinkIn.empty, LinkIn.empty, LinkIn.empty] }

/-- The columns of compatible mode switched back to their coils (R256). -/
def coilsBack (l : Tbl VaultCtl) : Tbl VaultCtl := l.map (fun e => (e.1, if e.2.path = 1 then { e.2 with path := 0 } else e.2))

/-- The member ends its job; `aborted` says that it ends under R70, so that collective entries are dropped too. Columns in
compatible mode go back to their coils (R256). -/
def endMember (now : Nat) (s : Stack) : Stack :=
  let s := kvJobEnd now (nbuStop s)
  let s := { s with
    cores := s.cores.map (fun e => (e.1, endCore e.2))
    rows := s.rows.map (fun e => (e.1, { e.2 with kvq := [], kvTaken := none, kvReplies := [] }))
    vaults := coilsBack s.vaults
    router := if s.tick.aborted then { s.router with coll := [] } else s.router
    tick := { s.tick with phase := .idle, ending := false, overrun := false } }
  cutFloor now (powerJobEnd s)

/-- The member is to end its job under R70: ABORT goes to every tree edge but `skip`; it ends at once before tick 0, at
the barrier and while an exchange access waits at its gate, otherwise at the next tick boundary. In tick hold it forwards an ABORT that it
received, from `skip`, and sends one of its own when the hold ends (R71), where none that it received since has told every edge. -/
def abortJob (now : Nat) (s : Stack) (skip : Option Nat) (source : Nat) : Stack :=
  if !jobOn s || s.tick.aborted then s
  else
    let s := { s with tick := { s.tick with ending := true, aborted := true, endSource := source } }
    let s := if s.tick.hold ∧ skip = none then { s with tick := { s.tick with abortOwed := true } }
      else (sendTokens s .abort ((treeEdges s).filter (fun i => decide (some i ≠ skip))) 0).2
    if s.tick.phase = .starting ∨ s.tick.phase = .barrier ∨ gateWaiting s then endMember now s else s

/-- A tree edge toward node `d` is lost (R70, R381, R404). -/
def edgeLost (now : Nat) (s : Stack) (d : Nat) : Stack :=
  if jobOn s ∧ (treeEdges s).any (fun i => decide (memberNode s i = d)) then abortJob now s none 0 else s

/-! ### Starting a tick (R59, R60, R188, R202, R318, R450, R452) -/

/-- Tick `t` starts at the member. -/
def beginTick (now : Nat) (s : Stack) (t : Nat) : Stack :=
  let s := wakeSimmer now s
  let s := { s with
    tick := { s.tick with phase := .run, overrun := false, closed := false }
    cores := s.cores.map (fun e => (e.1, if e.2.participating then
      { e.2 with phase := e.2.nextPhase, tickEnd := false, seqHold := false, stoch := 0 } else e.2))
    vaults := s.vaults.map (fun e => (e.1, { e.2 with tickRows := 0 })) }
  nbuTickStart now (cutFloor now (capPlan (setReg s rTckNumber (bv 64 t)) t)) t

/-- go(t) at the member: forwarded to the children, remembered for the gates; go(0) starts tick 0, and go past the last
tick ends the job of a member at the boundary (R55, R59, R64, R439). -/
def actGo (now : Nat) (s : Stack) (t : Nat) : Stack :=
  if t < s.tick.goRecv then s
  else
    let s := { s with tick := { s.tick with goRecv := t + 1 } }
    let (ok, s) := sendTokens s .go (treeKids s) (t % 65536)
    if !ok then abortJob now s none 0
    else if s.tick.phase = .starting ∧ t = 0 ∧ !s.tick.hold then beginTick now s 0
    else if s.tick.phase = .barrier ∧ tickOf s = s.tick.lastTick ∧ s.tick.lastTick < t then endMember now s
    else s

/-- The configuration that a START token carries: LOG2_LEN, CREDIT, STRIDE_LOG2 (Table 2.1). -/
def startField (s : Stack) : BitVec 16 :=
  bv 16 (fld (reg s rTckConfig) 0 5 * 256 + fld (reg s rTckConfig) 8 2 * 64 + fld (reg s rTckXchg) 0 6)

/-- START goes up, or the leader decides, once JOB_START and every child's START are in (R59). -/
def tryStart (now : Nat) (s : Stack) : Stack :=
  if !s.tick.ownStart || s.tick.startSent || s.tick.hold || decide (s.tick.phase ≠ .starting)
      || !(treeKids s).all (fun k => s.tick.starts.any (fun e => decide (e.1 = k))) then s
  else
    let own := startField s
    let bad := s.tick.starts.any (fun e => decide (e.2 ≠ own))
    let s := { s with tick := { s.tick with startSent := true } }
    match treeParent s with
    | some i =>
      let (ok, s) := sendToken s .start i (own.toNat + if bad then 32768 else 0)
      if ok then s else abortJob now s none 0
    | none => if bad then abortJob now s none 0 else actGo now s 0

/-- done(t) forwarded to the parent, or go(t + 1) sent by the leader, for each tick whose done tokens are all in
(R54). A leader in tick hold sends none (R71). -/
def sendUp (now : Nat) : Nat → Stack → Stack
  | 0, s => s
  | n + 1, s =>
    let u := s.tick.upSent
    if !jobOn s || decide (s.tick.doneSent ≤ u)
        || !(treeKids s).all (fun k => decide (u < tget (fun _ => 0) s.tick.doneRecv k)) then s
    else
      match treeParent s with
      | some i =>
        let (ok, s) := sendToken { s with tick := { s.tick with upSent := u + 1 } } .done i (u % 65536)
        if ok then sendUp now n s else abortJob now s none 0
      | none => if s.tick.hold then s else sendUp now n (actGo now { s with tick := { s.tick with upSent := u + 1 } } (u + 1))

/-- The end of tick hold (R71): tokens that it kept back are sent, tick 0 starts where go(0) is in. -/
def endHold (now : Nat) (s : Stack) : Stack :=
  let owed := s.tick.abortOwed
  let s := { s with tick := { s.tick with hold := false, abortOwed := false } }
  if owed then (sendTokens s .abort (treeEdges s) 0).2
  else
    let s := if s.tick.phase = .starting ∧ 0 < s.tick.goRecv then beginTick now s 0 else s
    sendUp now 4 (tryStart now s)

/-! ### Completing a tick (R49, R50, R189, R319, R345, R401) -/

/-- Whether the member's work for tick `t` is complete. -/
def workDone (s : Stack) (t : Nat) : Bool :=
  (partCores s).all (fun c => (s.core c).tickEnd || decide ((s.core c).run ≠ .running))
    && s.cores.all (fun e => e.2.reqs.all (fun r => !r.write))
    && nbuIdle s && collDone s t && decide (t < s.kv.phaseTick)

/-- TICK_DONE_SEND: the work done, done(t) is sent; an overrun of `late` cycles ends; the entries of the tick start
(R50, R67, R400), and coil tests that are due (R533). -/
def tickDoneSend (now : Nat) (s : Stack) (late : Nat) (bad : List Nat) : Stack :=
  let t := tickOf s
  if s.tick.phase ≠ .run ∨ s.tick.hold ∨ s.tick.doneSent ≠ t ∨ !workDone s t then s
  else
    let s := if s.tick.overrun then
        let w := reg s rTckOverrun
        setReg s rTckOverrun (setFld w 32 32 (max (fld w 32 32) (min 0xFFFFFFFF late)))
      else s
    let s := { s with tick := { s.tick with doneSent := t + 1, overrun := false } }
    beginTest (sendUp now 4 (collBegin now s t bad))

/-- TICK_OVERRUN at E(t) (R67); while an exchange access waits at its gate E(t) recedes (R48). -/
def tickOverrun (s : Stack) : Stack :=
  let t := tickOf s
  if s.tick.phase ≠ .run ∨ s.tick.hold ∨ s.tick.doneSent ≠ t ∨ s.tick.overrun ∨ gateWaiting s ∨ workDone s t then s
  else
    let s := { s with tick := { s.tick with overrun := true } }
    raise (setReg s rTckOverrun (addSat (reg s rTckOverrun) 0 32 1)) { source := fTickOverrun, addr := haController }

/-- Whether the next tick may start: the go that the credit asks for, and the grant (R60, R457). -/
def goLets (s : Stack) (t : Nat) : Bool :=
  let c := fld (reg s rTckConfig) 8 2
  decide (t < c) || decide (t - c < s.tick.goRecv)

/-- The measurements of the tick that ends. -/
def learnTick (now : Nat) (s : Stack) (m : TickMeasure) : Stack :=
  cutFloor now (tagLearn now { s with power := { s.power with fixed := (m.fixed : Rat) / 1000 } } (chargedEnergy s m) m.peak)

/-- TICK_START: the tick boundary at E(t). The tick that ends is learned; the job ends where it is to end; otherwise the
next tick starts, or the member waits at the barrier (R60, R62, R70, R439, R457). A member that is to end its job and whose exchange
access waits at the gate ends at once (R70). Where the boundary at which a job is to end under R70 is also its normal end, with go past LAST_TICK
received, the end is the normal one: R439 says so of a JOB_ABORT, and the model takes it so for a fault and for a lost edge too (DESIGN CHOICE,
log 106). -/
def tickStart (now : Nat) (s : Stack) (m : TickMeasure) : Stack :=
  let t := tickOf s
  if s.tick.hold ∨ (s.tick.phase ≠ .run ∧ s.tick.phase ≠ .barrier) then s
  else if s.tick.aborted ∧ gateWaiting s then endMember now s
  else if s.tick.doneSent ≠ t + 1 then s
  else
    let s := if s.tick.phase = .run then learnTick now s m else s
    let s := { s with tick := { s.tick with phase := .barrier } }
    if t = s.tick.lastTick ∧ t + 1 < s.tick.goRecv then endMember now { s with tick := { s.tick with aborted := false } }
    else if s.tick.ending then endMember now s
    else if t = s.tick.lastTick ∨ !goLets s (t + 1) then s
    else if grantLets s then beginTick now s (t + 1)
    else { s with power := { s.power with grantWait := true } }

/-! ### Pending waits and the close (R69, R83, R190, R402) -/

/-- Waits of an engine with an instruction queue: (queue position, kind, object). An LD or ST operation waits for each answer that its
requests still await, whatever it could do next. -/
def engineWaits (now : Nat) (s : Stack) (c : Nat) (e : Engine) : List (Nat × Nat × Nat) :=
  let q := (s.core c).queue e
  let act := fun (op : CoreOp) (x : QEntry) => match engineAct now s c op x with
    | .wait k ob => if k = 1 ∨ k = 2 ∨ k = 3 then [(k, ob)] else []
    | _ => []
  let started := q.flatMap (fun x =>
    let ws := match x.op with
      | some (.pass _) => (match x.pass with | some p => if x.done then [] else passWaits s c x p | none => [])
      | some op =>
        if x.started && !x.done then
          let w := act op x
          if w.all (fun k => decide (k.1 ≠ 3)) && (s.core c).reqs.any (fun r => decide (r.e = e ∧ r.uid = x.uid ∧ r.answer = ReqAnswer.waiting)) then
            w ++ [(3, 0)] else w
        else []
      | none => []
    ws.map (fun w => (qposOf q x.uid, w)))
  let waiting := match nextOp q with
    | some (x, op, before) =>
      if mayOverlap op before && !passHolds s c before && !(ldstX op && !goReceived s x.tick) then
        (match op with | .pass _ => [] | op => (act op x).map (fun w => (qposOf q x.uid, w))) else []
    | none => []
  started ++ waiting

/-- Flag waits of the FX engine, and the sequencer's wait for an empty queue. -/
def fxWaits (s : Stack) (c : Nat) : List (Nat × Nat × Nat) :=
  (s.core c).fx.zipIdx.filterMap (fun e => match e.1.op with
    | .wait f _ _ => some (e.2, 0, f.val)
    | .waitc f _ => some (e.2, 0, f.val)
    | _ => none)
def seqWaits (s : Stack) (c : Nat) : List (Nat × Nat × Nat) :=
  match (s.core c).seqCur with
  | some (.seq (.brc e _ _)) => (match seqValue s c e with | .wait k q => [(0, k, q)] | .go _ _ => [])
  | some (.seq (.loop e _ _)) => (match seqValue s c e with | .wait k q => [(0, k, q)] | .go _ _ => [])
  | _ => []

/-- The pending waits of a core in the order of R69: (engine code, queue position, kind, object). -/
def coreWaits (now : Nat) (s : Stack) (c : Nat) : List (Nat × Nat × Nat × Nat) :=
  (queueEngines.flatMap (fun e => (engineWaits now s c e).map (fun w => (engineCode e, w))))
    ++ (fxWaits s c).map (fun w => (6, w)) ++ (seqWaits s c).map (fun w => (7, w))

/-- A pending wait in the layout of TCK_STALL_LOGn (Table 2.11). -/
def stallWord (t c : Nat) (w : Nat × Nat × Nat × Nat) : Word :=
  bv 64 (2 ^ 63 + t % 65536 * 2 ^ 32 + c * 2 ^ 24 + w.1 * 2 ^ 20 + w.2.1 % 32 * 2 ^ 15 + w.2.2.1 * 2 ^ 12 + w.2.2.2)

/-- A running core made FAULTED: its sequencer stalls no more, and CORE_FAULT is filled while VALID is 0, with the tick in which the core entered
FAULTED (R191, R192, R203, R204). A core that
is HALTED or FAULTED already stays as it is (Table 6.8). -/
def faultCore (s : Stack) (c : Nat) (report : Word) (sev : Nat) : Stack :=
  if (s.core c).run = .running then
    let s := s.onCore c (fun k => { k with run := .faulted, seqStall := false })
    if fld (reg s (rCoreFault c)) 63 1 = 1 then s
    else setReg s (rCoreFault c) (setFld (setFld report 8 3 sev) 32 16 (tickOf s))
  else s

/-- TICK_CLOSE (R68), which comes after E(t), in an overrun with nothing waiting at a gate (R48): waits are logged and raise SYNC_STALL, a running core with neither TICK_END nor a wait raises
TICK_RUNAWAY; each such core becomes FAULTED. Collective entries of the tick before raise COLL_STALL. A core that is FAULTED already raises and
logs nothing for the waits that stay pending in it: R69 speaks of participating cores, and Table 6.8 has no such move (DESIGN CHOICE, log 105). -/
def tickClose (now : Nat) (s : Stack) : Stack :=
  let t := tickOf s
  if s.tick.phase ≠ .run ∨ s.tick.hold ∨ s.tick.doneSent ≠ t ∨ s.tick.closed ∨ !s.tick.overrun ∨ gateWaiting s then s
  else
    let sev := fld (reg s rTckConfig) 16 3
    let cores := (partCores s).filter (fun c => decide ((s.core c).run = .running))
    let pend := cores.map (fun c => (c, coreWaits now s c))
    let words := pend.flatMap (fun e => e.2.map (fun w => stallWord t e.1 w))
    let s := { s with tick := { s.tick with closed := true } }
    let log := fun (s : Stack) (n : Nat) => match words[n]? with
      | some w => if fld (reg s (rTckStallLog n)) 63 1 = 1 then s else setReg s (rTckStallLog n) w
      | none => s
    let s := log (log s 0) 1
    let d1 := reg s (rTckStallLog 1)
    let s := pend.foldl (fun s e =>
      match e.2 with
      | [] =>
        if (s.core e.1).tickEnd then s
        else
          let w := setFld (coreReport s fTickRunaway .seq 0) 8 3 sev
          faultCore (raise s { source := fTickRunaway, addr := haSite (coreSite s e.1), core := some e.1, detail0 := w }) e.1 w sev
      | w :: ws =>
        let r : Raise := { source := fSyncStall, addr := haSite (coreSite s e.1), core := some e.1,
                           detail0 := stallWord t e.1 w, detail1 := d1 }
        let s := (w :: ws).foldl (fun s _ => raise s r) s
        let rep := bv 64 (2 ^ 63 + t % 65536 * 2 ^ 32 + fSyncStall * 2 ^ 20 + w.1 * 2 ^ 16 + w.2.1 % 32 * 2 ^ 11)
        faultCore s e.1 rep sev) s
    collStall s t

/-! ### Tokens received (R54, R55, R59, R70, R381) -/

/-- A token for another node is forwarded, or discarded and counted (R381). -/
def forwardToken (s : Stack) (ty : TokenTy) (k : Token) : Stack :=
  match egressLink s k.dest.toNat with
  | some l => putToken s l ty k
  | none => setReg s rIvtHopsCnt (addSat (reg s rIvtHopsCnt) 0 32 1)

/-- Cycles within which the second copy of a token comes: one control slot in 48 slots, 36.3 cycles on a port (R6, R375). -/
def copyCycles : Nat := 37

/-- A token received: acted on, unless it is the second copy of one that was (R375). A copy has the first one's TYPE, TICK and MEMBER, and its DOMAIN
and DEST: go tokens for several children of one member differ in DEST alone (DEDUCED, log 99). -/
def tokenOnce (now : Nat) (s : Stack) (ty : TokenTy) (k : Token) (f : Stack → Token → Stack) : Stack :=
  let open_ := s.router.tokens.filter (fun e => decide (now ≤ e.2.2 + copyCycles))
  let same := fun (e : TokenTy × Token × Nat) => decide (e.1 = ty ∧ e.2.1 = k)
  if open_.any same then { s with router := { s.router with tokens := open_.eraseP same } }
  else f { s with router := { s.router with tokens := open_ ++ [(ty, k, now)] } } k

/-- Whether a token is for this member's domain. -/
def tokenMine (s : Stack) (k : Token) : Bool := s.tick.joined && decide (k.domain.toNat = domainId s)

/-- A START token at the member. One that comes before the stack has joined the token's domain, or before a job is admitted, is dropped: the
manual names no place that keeps it (DESIGN CHOICE, log 87). -/
def startToken (now : Nat) (s : Stack) (k : Token) : Stack :=
  if k.dest.toNat ≠ nodeId s then forwardToken s .start k
  else
  let s := wakeSimmer now s
  if tokenMine s k ∧ (treeKids s).contains k.member.toNat ∧ (s.pstate = .admitted ∨ s.tick.phase = .starting) then
    tryStart now { s with tick := { s.tick with
      starts := s.tick.starts.filter (fun e => decide (e.1 ≠ k.member.toNat)) ++ [(k.member.toNat, k.tick)] } }
  else s

/-- A DONE token at the member. -/
def doneToken (now : Nat) (s : Stack) (k : Token) : Stack :=
  if k.dest.toNat ≠ nodeId s then forwardToken s .done k
  else
  let s := wakeSimmer now s
  if tokenMine s k ∧ (treeKids s).contains k.member.toNat ∧ jobOn s then
    let n := max (tget (fun _ => 0) s.tick.doneRecv k.member.toNat) (fullTick s k.tick.toNat + 1)
    sendUp now 4 { s with tick := { s.tick with doneRecv := tset (fun _ => 0) s.tick.doneRecv k.member.toNat n } }
  else s

/-- A GO token at the member. -/
def goToken (now : Nat) (s : Stack) (k : Token) : Stack :=
  if k.dest.toNat ≠ nodeId s then forwardToken s .go k
  else
  let s := wakeSimmer now s
  if tokenMine s k ∧ (treeParent s).isSome ∧ jobOn s then actGo now s (fullTick s k.tick.toNat)
  else s

/-- An ABORT token at the member: forwarded on every other tree edge; a member whose JOB_START has not come ends the job
when it does (R70). In tick hold the forwarded ABORT stands for the member's own where one is owed: every edge has then one (R71; DEDUCED,
log 107). -/
def abortToken (now : Nat) (s : Stack) (k : Token) : Stack :=
  if k.dest.toNat ≠ nodeId s then forwardToken s .abort k
  else if !tokenMine s k then s
  else
  let s := wakeSimmer now s
  if s.tick.hold ∧ s.tick.abortOwed then
    (sendTokens { s with tick := { s.tick with abortOwed := false } } .abort
      ((treeEdges s).filter (fun i => decide (i ≠ k.member.toNat))) 0).2
  else if jobOn s then abortJob now s (some k.member.toNat) 0
  else if s.pstate = .admitted ∧ !s.tick.aborted then
    (sendTokens { s with tick := { s.tick with ending := true, aborted := true } } .abort
      ((treeEdges s).filter (fun i => decide (i ≠ k.member.toNat))) 0).2
  else s

/-! ### The job on its partition (R434, R437, R439, R440, R529) -/

/-- The stacks of partition `p`, ascending. -/
def partStacks (s : State) (p : Nat) : List StackIx :=
  ([0, 1, 2, 3] : List StackIx).filter (fun i => decide ((s.stack i).part = p) && decide ((s.stack i).boot ≠ .off))

/-- The module with every stack of a list changed. -/
def State.onStacks (s : State) (l : List StackIx) (f : Stack → Stack) : State := l.foldl (fun s i => s.onStack i f) s

def allStacks : List StackIx := [0, 1, 2, 3]

/-- The stacks of partition `p` of the map, those in COLD or without power among them. -/
def partAll (s : State) (p : Nat) : List StackIx := allStacks.filter (fun i => decide ((s.stack i).part = p))

/-- ACT_TICK of a command on partition `p`: the tick of its job (Table 13.1). -/
def partTick (s : State) (p : Nat) : Word :=
  match (partAll s p).find? (fun i => jobRuns (s.stack i)) with
  | some i => actTick (s.stack i)
  | none => BitVec.allOnes 64

/-- The commands that some port has started and that satisfy `q`, with the port's stack. -/
def startedWhere (s : State) (q : Cmd → Bool) : List (StackIx × Cmd) :=
  allStacks.flatMap (fun i => ((s.stack i).port.started.filter q).map (fun c => (i, c)))

/-- The commands of a list answered alike, with a tick of their own. -/
def answerAll (s : State) (cs : List (StackIx × Cmd)) (tick : Word) (status : Nat) (results : List Word) : State :=
  cs.foldl (fun s e => s.onStack e.1 (fun x => replyAt s.now tick x e.2 status results [] false)) s

/-- Whether a command on a partition has an opcode. -/
def isPartCmd (op p : Nat) (c : Cmd) : Bool := decide (c.op = op ∧ c.part = p)

/-- Requester transactions outstanding: IVT_INFLIGHT.REQ (R408). -/
def reqsOpen (s : Stack) : Nat := s.router.tags.countP (fun e => match e.2.state with | .timedOut _ => false | _ => true)

/-- A stack at which nothing of a job or of a requester goes on any more. -/
def drained (s : Stack) : Bool := !jobOn s && decide (reqsOpen s = 0)

/-- Whether an address lies in instruction memory. -/
def inImem (a : Nat) : Bool :=
  match place a with
  | .window c o => (match windowPart (coreKind c) o with | .imem _ => true | _ => false)
  | _ => false

/-- Steps 3 and 4 of an immediate disable (R441): zeros in every vault, slice, the pantry, scratch and data SRAM; no valid bit, NBU
schedule, pool configuration or domain is left. -/
def clearPartition (s : Stack) : Stack :=
  let s := { s with
    mem := s.mem.filter (fun e => inImem e.1)
    marks := s.marks.filter (fun e => inImem (e.1 * 32))
    parity := s.parity.filter (fun e => inImem (e.1 * 8))
    cores := s.cores.map (fun e => (e.1, { e.2 with valid := 0 }))
    nbus := s.nbus.map (fun e => (e.1, { e.2 with sched := [] }))
    kv := Kv.reset
    tick := Tick.reset }
  let s := (List.range 184).foldl (fun s p => setReg s (rNbuCfg p) 0) s
  let s := setReg (setReg (setReg s rKvePool 0) rKveSeqtab 0) rTckDomain 0
  (List.range 9).foldl (fun s i => setReg s (rKveClass i) 0) s

/-- An immediate disable goes on once every stack of the partition has drained: it is DISABLED, and every PARTITION_DISABLE that waits is
answered (R441, R443). -/
def finishDisable (s : State) (p : Nat) : State :=
  let sts := partStacks s p
  if sts = [] ∨ sts.any (fun i => !((s.stack i).immediate && decide ((s.stack i).pstate = .disabling) && drained (s.stack i))) then s
  else
    let s := s.onStacks sts (fun x => { clearPartition x with pstate := .disabled, immediate := false })
    answerAll s (startedWhere s (fun c => isPartCmd 0x0206 p c && c.begun)) (BitVec.allOnes 64) stOk [0]

/-- The stacks that a QUIESCE names. -/
def quiesceTargets (s : State) (st : StackIx) (c : Cmd) : List StackIx :=
  (if c.tkind = 3 then allStacks else [st]).filter (fun i => decide ((s.stack i).boot ≠ .off))

/-- A QUIESCE is answered once every stack that it names has drained (R505 step 4); a module-wide one that no command asked for moves on
alike (R506). -/
def finishQuiesce (s : State) : State :=
  let s := allStacks.foldl (fun s i => s.onStack i (fun x => match x.quiesce with
    | some q => if q.stage = 0 ∧ drained x then { x with quiesce := some { q with stage := 1 } } else x
    | none => x)) s
  (startedWhere s (fun c => decide (c.op = 0x0004) && c.begun)).foldl (fun s e =>
    if (quiesceTargets s e.1 e.2).all (fun i => match (s.stack i).quiesce with | some q => decide (1 ≤ q.stage) | none => true) then
      s.onStack e.1 (fun x => answerCmd s.now x e.2 stOk)
    else s) s

/-- The end of a job at every member of the partition: it is IDLE, or DISABLED where a graceful disable waits; the boundary is repaired,
JOB_START and JOB_ABORT are answered (R434, R439, R440, R529). -/
def endJob (s : State) (p : Nat) : State :=
  let sts := partStacks s p
  if sts.any (fun i => jobOn (s.stack i)) ∨ !(sts.any (fun i => decide ((s.stack i).pstate = .running ∨ (s.stack i).pstate = .disabling))) then s
  else
    let first := (sts.find? (fun i => (s.stack i).tick.aborted)).orElse (fun _ => sts.head?)
    let aborted := sts.any (fun i => (s.stack i).tick.aborted)
    let last := match first with | some i => reg (s.stack i) rTckNumber | none => 0
    let source := (sts.findSome? (fun i => if (s.stack i).tick.endSource = 0 then none else some (s.stack i).tick.endSource)).getD 0
    let s := s.onStacks sts (fun x => jobBoundary s.now (kvCancel s.now { x with pstate := if x.pstate = .running then .idle else x.pstate }))
    let s := answerAll s (startedWhere s (fun c => isPartCmd 0x0203 p c && c.begun)) 0 (if aborted then stAborted else stOk)
      [last, bv 64 (if aborted then source else 0)]
    let s := answerAll s (startedWhere s (fun c => isPartCmd 0x0204 p c && c.begun)) last stOk []
    if sts.any (fun i => decide ((s.stack i).pstate = .disabling) && !(s.stack i).immediate) then
      let s := s.onStacks sts (fun x => { x with pstate := .disabled })
      answerAll s (startedWhere s (fun c => isPartCmd 0x0206 p c && c.begun)) (BitVec.allOnes 64) stOk [0]
    else s

/-- What waits for the end of a job of partition `p`, or for its stacks' transactions, goes on where it may. -/
def settleJob (s : State) (p : Nat) : State := finishQuiesce (finishDisable (endJob s p) p)

/-- A stack changed, and the job of its partition settled where that ends it. -/
def onMember (s : State) (i : StackIx) (f : Stack → Stack) : State :=
  let s := s.onStack i f
  settleJob s (s.stack i).part

/-- An ADMITTED job of a stack withdrawn, with any domain joined for it: a job boundary, and the columns are on their coils again (R256, R439,
R529). -/
def withdrawJob (now : Nat) (s : Stack) : Stack :=
  let tk := { s.tick with joined := false, members := [], entries := [], starts := [], ending := false, aborted := false }
  let s := setReg { s with pstate := .idle, tick := tk, vaults := coilsBack s.vaults } rTckDomain 0
  jobBoundary now s

end Sys2Proof.Machine
end

