-- ==== Sys2Proof/Machine/Fault.lean ====
section
/-! DEFINITION. The fault collectors (16_fault_collection_and_repair.md): programmed severities, records, coalescing and
escalation, what a severity does, the pairs, FAULT_L, the fault registers, injection. -/

namespace Sys2Proof.Machine
open Sys2Proof

/-! ### Severities (R515, R516) -/

/-- The field of FLT_SEVn that names a source's severity. -/
def sevField (s : Stack) (n : Nat) : Nat := fld (reg s (rFltSev (n / 16))) (4 * (n % 16)) 3

/-- The programmed severity of a raise (Table 16.2). -/
def programmedSev (s : Stack) (r : Raise) : Nat :=
  if r.source = fTickOverrun then fld (reg s rTckConfig) 12 3
  else if r.source = fSyncStall ∨ r.source = fTickRunaway ∨ r.source = fCollStall then fld (reg s rTckConfig) 16 3
  else if r.source = fCellFault then (match r.core with | some c => fld (reg s (rCrustCfg c)) 0 3 | none => sevJob)
  else if r.source = fPoisonBite then fld (reg s rFltPoisonSev) (3 * r.detail1.toNat) 3
  else if r.source = fKvOverrun then fld (reg s rKveCfg) 0 3
  else if r.source = fSensorFail then fld (reg s rThmCfg) 0 3
  else sevField s r.source

/-! ### Records and pairs (R517-R525) -/

def maxRecords : Nat := 1024
def maxKept : Nat := 256

/-- The sources that the module controller raises (R525). -/
def moduleSource (n : Nat) : Bool := decide (fCoolantLow ≤ n ∧ n ≤ fCoolantStop)

/-- The FAULT_L threshold. -/
def threshold (s : Stack) : Nat := fld (reg s rFltCfg) 0 3

/-- Uncleared records at or above the threshold. -/
def recordsAbove (s : Stack) : Nat := (s.faults.records.filter (fun r => decide (threshold s ≤ r.sev))).length

/-- OVERFLOW_HIGH counted as a record of severity `n` or higher. -/
def overflowAt (s : Stack) (n : Nat) : Bool := match s.faults.high with | some h => decide (n ≤ h) | none => false

/-- Whether the stack holds an uncleared record of severity `n` or higher, OVERFLOW_HIGH counted. -/
def holdsSev (s : Stack) (n : Nat) : Bool := s.faults.records.any (fun r => decide (n ≤ r.sev)) || overflowAt s n

/-- The wire key of the stack collector's own link to the module controller. -/
def stackWire : Nat := 0x20000

/-- Whether the stack's pair `n` reads asserted at the module controller: of the records held, of a pair that reads equal on any
link toward the module, and, while the stack is off, of the copies kept (R517, R525). -/
def pairAsserted (s : Stack) (copies : List Record) (n : Nat) : Bool :=
  if s.boot = .off then copies.any (fun r => decide (n ≤ r.sev))
  else holdsSev s n || s.faults.wires.any (fun w => decide (n ≤ w.pair))

/-- FAULT_L as the pairs drive it (R524). -/
def faultLevel (s : State) : Bool :=
  allStacks.any (fun i => pairAsserted (s.stack i) (s.mc.copies.get i) (threshold (s.stack i)))

/-- FAULT_L_UPDATE. -/
def updateFaultL (s : State) : State := { s with mc := { s.mc with faultL := s.mc.supply && faultLevel s } }

/-- A message to the fleet manager, sent to the event receiver; where the bus owner has named none it goes nowhere (R580; DEDUCED, log 122). -/
def sendEvent (s : State) (e : Event) : State :=
  match s.mc.receiver with
  | none => s
  | some r => { s with mc := { s.mc with events := ⟨r, Config.serial, e⟩ :: s.mc.events } }

/-- The latest uncleared record of a class (R520). -/
def latestOf (s : Stack) (source addr : Nat) : Option Record :=
  (s.faults.records.filter (fun r => decide (r.source = source ∧ r.addr = addr))).getLast?

/-- Whether a raise coalesces into a record (R520): the same tick of the same job, or no job at either and within 1 ms. -/
def coalesces (now : Nat) (r : Raise) (x : Record) : Bool :=
  match r.job, x.job with
  | some a, some b => decide (a = b ∧ r.tick = x.tick)
  | none, none => decide (now ≤ x.cycle + 2500000)
  | _, _ => false

/-- Whether a source's report has the layout of CORE_FAULT (Table 6.11): at a core's site, the faults of its engines that no crust or multicast
register logs, and a core's poison bite. -/
def reportsCore (r : Raise) : Bool :=
  r.core.isSome && decide (0xA000 ≤ r.addr) && (decide (r.source = fPoisonBite ∨ r.source = fTickRunaway) ||
    (decide (fSeqLoop ≤ r.source ∧ r.source ≤ fLinkFault) && decide (r.source ≠ fMcPartial)))

/-- DETAIL0 of a record (Table 16.3): the unit's report, with the severity raised where it has CORE_FAULT's layout (Table 6.11). -/
def recordDetail (r : Raise) (sev : Nat) : Word :=
  if reportsCore r ∧ fld r.detail0 63 1 = 1 then setFld r.detail0 8 3 sev else r.detail0

/-- The record that a raise opens (Table 16.3, R521). -/
def newRecord (now on : Nat) (s : Stack) (r : Raise) (prog : Nat) (latest : Option Record) : Record :=
  let esc := match latest with | some _ => decide (sevJob ≤ prog) | none => false
  let sev := match latest with | some x => if esc then min sevModule (max prog (x.sev + 1)) else prog | none => prog
  { seq := s.faults.next, source := r.source, addr := r.addr, prog := prog, sev := sev, escalated := esc, injected := r.injected,
    fromModule := moduleSource r.source, part := if moduleSource r.source then 0xFF else s.part, count := 1, tick := r.tick,
    ns := (now - on) * 2 / 5, core := r.core.getD 0xFF, vault := r.vault.getD 0xFF, detail0 := recordDetail r sev, detail1 := r.detail1,
    job := r.job, cycle := now }

/-- The collector with a record, or without it where 1,024 are held (R522); the flag says that it is held. -/
def holdRecord (c : Collector) (x : Record) : Bool × Collector :=
  if c.records.length < maxRecords then (true, { c with records := c.records ++ [x], next := c.next + 1 })
  else if x.sev < sevJob then (false, { c with dropped := min 0xFFFF (c.dropped + 1) })
  else
    match c.records.find? (fun y => decide (y.sev < sevJob)) with
    | some y => (true, { c with records := c.records.filter (fun z => decide (z.seq ≠ y.seq)) ++ [x], next := c.next + 1 })
    | none => (false, { c with high := some (max x.sev (c.high.getD 0)) })

/-- The report of a core for CORE_FAULT: the unit's own where it has that layout, else one from the source (R204). -/
def faultReport (s : Stack) (r : Raise) : Word :=
  if reportsCore r ∧ fld r.detail0 63 1 = 1 then r.detail0
  else coreReport s r.source (if r.source = fMcPartial then .st else .mx) r.qpos

/-- What a severity does (Table 16.1, R513): a core to which the fault is attributed becomes FAULTED, the job of the stack's partition
ends, and at MODULE that of every partition; the fleet manager is told. -/
def actSeverity (s : State) (i : StackIx) (r : Raise) (x : Record) : State :=
  if x.sev < sevJob then s
  else
    let s := if jobRuns (s.stack i) then
        onMember s i (fun st =>
          let st := match r.core with
            | some c => if r.attributed && (st.core c).participating then faultCore st c (faultReport st r) x.sev else st
            | none => st
          abortJob s.now st none r.source)
      else s
    if x.sev < sevModule then s
    else
      let s := allStacks.foldl (fun s j => if jobRuns (s.stack j) then onMember s j (fun st => abortJob s.now st none r.source) else s) s
      sendEvent s (.moduleFault i.val x.seq x.source)

/-- A copy of a record of JOB or higher kept by the module controller, up to 256 per stack (R525). -/
def keepCopy (s : State) (i : StackIx) (x : Record) : State :=
  let l := s.mc.copies.get i
  if sevJob ≤ x.sev ∧ l.length < maxKept then { s with mc := { s.mc with copies := s.mc.copies.set i (l ++ [x]) } } else s

/-- The copy of a record counted up with it. -/
def countCopy (s : State) (i : StackIx) (x : Record) : State :=
  { s with mc := { s.mc with copies := s.mc.copies.set i ((s.mc.copies.get i).map (fun y => if y.seq = x.seq then x else y)) } }

/-- The pair of an ERROR_WIRE tied to the record that its raise opened or counted in. -/
def tieWire (s : Stack) (r : Raise) (seq : Nat) : Stack :=
  match r.wire with
  | none => s
  | some (key, pair) =>
    { s with faults := { s.faults with
        wires := s.faults.wires.map (fun w => if w.key = key ∧ w.pair = pair then { w with seq := some seq } else w) } }

/-- Whether a pair is no longer treated as asserted (R517): its record has been cleared and it reads complementary again. One that an
injection made read equal does, the others as the wire is at that cycle, a free value (log 114). -/
def wireOver (now : Nat) (c : Collector) (w : Wire) : Bool :=
  match w.seq with
  | none => false
  | some n => !c.records.any (fun r => decide (r.seq = n)) &&
      (w.injected || decide (Config.unstated 114 (now * 2 ^ 24 + w.key * 8 + w.pair) % 2 = 0))

/-- The pairs of a collector as it reads them at a cycle. -/
def settleWires (now : Nat) (c : Collector) : Collector := { c with wires := c.wires.filter (fun w => !wireOver now c w) }

/-- A raise reaches the stack collector: it coalesces, or opens a record and has the effect of its severity (R518-R522). -/
def arrive (s : State) (i : StackIx) (r : Raise) : State :=
  let st := s.stack i
  let prog := programmedSev st r
  let latest := latestOf st r.source r.addr
  match latest.filter (coalesces s.now r) with
  | some x =>
    let y := { x with count := min (2 ^ 64 - 1) (x.count + 1), injected := x.injected || r.injected }
    let s := s.setStack i (tieWire { st with faults := { st.faults with records := st.faults.records.map (fun z => if z.seq = x.seq then y else z) } } r x.seq)
    countCopy s i y
  | none =>
    let x := newRecord s.now s.mc.onAt st r prog latest
    let (held, c) := holdRecord st.faults x
    let s := s.setStack i (tieWire { st with faults := c } r (if held then x.seq else 0))
    let s := if held then keepCopy s i x else s
    updateFaultL (actSeverity s i r x)

/-- FAULT_RECORD_ARRIVE: the oldest raise on the record bus. A site that has failed while its partition is at rest is repaired at once (R528). -/
def faultArrive (s : State) (i : StackIx) : State :=
  let st := s.stack i
  match st.bus with
  | [] => s
  | r :: rest =>
    let s := arrive (s.setStack i { st with bus := rest }) i r
    if r.source = fSiteFailed then s.onStack i (mendIdle s.now) else s

/-- A source of the module controller recorded in every powered stack (R525), in the present tick of that stack's job (R519, R520). -/
def raiseModule (s : State) (source : Nat) : State :=
  allStacks.foldl (fun s i => if (s.stack i).boot = .off then s else arrive s i (stampRaise (s.stack i) { source := source, addr := haCollector })) s

/-! ### Admission (R514) -/

/-- Whether R514 blocks admission on the partition of stack `i`. A record of a stack that is off stands in its copy (R525). -/
def admitBlock (s : State) (i : StackIx) : Bool :=
  (partStacks s (s.stack i).part).any (fun j => holdsSev (s.stack j) sevStack) || allStacks.any (fun j => holdsSev (s.stack j) sevModule
    || (decide ((s.stack j).boot = .off) && (s.mc.copies.get j).any (fun r => decide (sevModule ≤ r.sev))))

/-! ### Clearing (R523) -/

/-- Records cleared: those that satisfy `p`, with their copies, and the pairs of ERROR_WIRE records that read complementary again (R517);
OVERFLOW_HIGH too where all are. -/
def clearRecords (s : State) (i : StackIx) (all : Bool) (p : Record → Bool) : State :=
  let st := s.stack i
  let c := { st.faults with records := st.faults.records.filter (fun r => !p r), high := if all then none else st.faults.high }
  let s := s.setStack i { st with faults := settleWires s.now c }
  let copies := (s.mc.copies.get i).filter (fun r => !(p r))
  updateFaultL { s with mc := { s.mc with copies := s.mc.copies.set i copies } }

/-! ### The clock -/

/-- A reply of Cipauc over MCTP in the layout of R579. -/
def mctpReply (bytes : List Byte) : List Byte := [0x7F, 0x00, 0x00, 0xE4, 0xA9, 0x02, 0x00, 0x00] ++ bytes

/-- A reply to a command of the module controller that a stack has given. -/
def replyOf (x : Sent) : Option (List Byte) := match x with | .reply bs => some bs | _ => none

/-- The module controller returns the replies of the stacks on the sideband (R425), of each stack in their order. -/
def relayReplies (s : State) : State :=
  let rs := allStacks.flatMap (fun i => ((s.stack i).sent.filterMap replyOf).reverse)
  if rs = [] then s
  else
    let s := { s with mc := { s.mc with out := (rs.map mctpReply).reverse ++ s.mc.out } }
    s.onStacks allStacks (fun x => { x with sent := x.sent.filter (fun e => (replyOf e).isNone) })

/-- One CCLK cycle of a stack: the symbols that wait go out in control slots (R375), the pairs of the collector links are read (R517). -/
def stackCycle (now : Nat) (x : Stack) : Stack :=
  let x := sendControls now x
  { x with faults := settleWires now x.faults }

/-- One CCLK cycle passes; replies over MCTP are relayed, FAULT_L follows the pairs of a wire that reads complementary again. -/
def cycle (s : State) : State :=
  let s := relayReplies (s.atCycle (s.now + 1))
  let t := { s with quad := ⟨stackCycle s.now s.quad.q0, stackCycle s.now s.quad.q1, stackCycle s.now s.quad.q2, stackCycle s.now s.quad.q3⟩ }
  if allStacks.all (fun i => decide ((t.stack i).faults.wires = (s.stack i).faults.wires)) then t else updateFaultL t

/-! ### Records as bytes (Table 16.3) -/

/-- The 64 bytes of a record. -/
def recordBytes (r : Record) : List Byte :=
  let one := fun (b : Bool) (v : Nat) => if b then v else 0
  natBytes 8 r.seq ++ natBytes 2 r.source ++ natBytes 2 r.addr
    ++ [bv 8 r.prog, bv 8 r.sev, bv 8 (one r.escalated 1 + one r.injected 2 + one r.fromModule 4), bv 8 r.part]
    ++ natBytes 8 r.count ++ natBytes 8 r.tick.toNat ++ natBytes 8 r.ns ++ [bv 8 r.core, bv 8 r.vault] ++ natBytes 6 0
    ++ natBytes 8 r.detail0.toNat ++ natBytes 8 r.detail1.toNat

/-! ### Registers (R536, R539, R516) -/

/-- FLT_STATUS (Table 16.6); `block` is ADMIT_BLOCK. -/
def fltStatus (s : Stack) (block : Bool) : Word :=
  let c := s.faults
  let highest := c.records.foldl (fun m r => max m r.sev) (c.high.getD 0)
  let above := recordsAbove s
  let one := fun (b : Bool) (v : Nat) => if b then v else 0
  bv 64 (c.dropped * 2 ^ 48 + c.records.length * 2 ^ 26 + above * 2 ^ 15 + one c.high.isSome (2 ^ 11) + highest * 2 ^ 8
    + one block 2 + one (decide (0 < above) || overflowAt s (threshold s)) 1)

/-- FLT_BLOCKn (Table 16.9): blocks of region `n` with an uncleared record, or whose unit's or own pair reads equal. -/
def fltBlock (s : Stack) (n : Nat) : Word :=
  let has := fun (b : Nat) => s.faults.records.any (fun r => decide (r.addr / 4096 = n ∧ r.addr / 256 % 16 = b))
    || s.faults.wires.any (fun w => decide (w.key < 0x20000 ∧ w.key % 0x10000 / 4096 = n ∧ w.key / 256 % 16 = b))
  bv 64 ((List.range 16).foldl (fun m b => if has b then m + 2 ^ b else m) 0)

/-- FLT_SEVn as it reads (R516): a source whose severity lies elsewhere reads that register's value, POISON_BITE its ADDRESS field; CELL_FAULT,
whose register each core has, reads that of core 0x00. -/
def fltSev (s : Stack) (n : Nat) : Word :=
  (List.range 16).foldl (fun w j =>
    let src := 16 * n + j
    if sourceElsewhere src then setFld w (4 * j) 3 (programmedSev s { source := src, addr := 0, core := some 0 }) else w) (reg s (rFltSev n))

/-- The DEGRADED bits of FLT_ROW_PENDn are those of the columns on TSV lanes as a fallback (Table 16.10). -/
def fltRowPend (s : Stack) (n : Nat) : Word :=
  (List.range 23).foldl (fun w q => setFld w (23 + q) 1 (if (s.vault (n * 23 + q)).path = 2 then 1 else 0)) (reg s (rFltRowPend n))

/-! ### Injection (R526) -/

/-- Whether the unit at hierarchy address `u` exists, and the checkers of Table 16.4 that it has of its own. -/
def unitCheckers (u : Nat) : Option (List Nat) :=
  let region := u / 4096
  let block := u / 256 % 16
  let unit := u % 256
  if region = 0xA ∧ block < 8 then
    if unit < 23 then
      some (if unit = 10 ∨ unit < 2 ∨ 20 ≤ unit then [0, 1] else [0, 1, 2, 3, 4, 5])
    else if 0x20 ≤ unit ∧ unit < 0x26 then some [0]
    else if 0x40 ≤ unit ∧ unit < 0x56 then some [0]
    else if 0x60 ≤ unit ∧ unit < 0x77 ∧ block < 7 then some [0]
    else none
  else if region = 9 ∧ block < 8 then
    if unit < 23 then some [0, 1]
    else if unit = 0x17 ∨ unit = 0x19 then some [0]
    else if unit = 0x18 ∨ unit = 0x1A then some []
    else if unit = 0x20 ∨ unit = 0x21 then some [0]
    else none
  else if 1 ≤ region ∧ region ≤ 8 ∧ block = 0 then
    if unit < 184 then some [0, 1, 2] else if 0xC0 ≤ unit ∧ unit < 0xC8 then some [0] else none
  else if region = 0 then
    if block < 8 then
      if unit < 23 then some []
      else if 0x20 ≤ unit ∧ unit < 0x37 then some []
      else if 0x40 ≤ unit ∧ unit < 0x57 then some [0, 1, 2]
      else none
    else if block = 8 then (if unit < 8 then some [0] else if unit = 8 then some [] else none)
    else if block = 9 then (if unit < 7 then some [] else none)
    else if block = 10 then (if unit < 0x14 then some [] else if 0x20 ≤ unit ∧ unit < 0x38 then some [0] else none)
    else none
  else none

/-- Whether a unit has a checker: its own of Table 16.4, and 8-12 for the pairs of its link. -/
def hasChecker (u k : Nat) : Bool :=
  match unitCheckers u with
  | some ks => ks.contains k || decide (8 ≤ k ∧ k ≤ 12)
  | none => false

/-! ### A pair that reads equal (R517) -/

/-- The key under which a wire is remembered, the address that its record names, its DETAIL0: how the sender's region and block lie
in DETAIL0 is not stated (log 23). -/
def wireKey (w : WireSender) : Nat × Nat × Word :=
  match w with
  | .unit a => (a.toNat, a.toNat, 0)
  | .block r b => let k := r.toNat * 16 + b.toNat; (0x10000 + k * 256, haCollector, bv 64 (Config.unstated 23 k))
  | .region r => (0x30000 + r.toNat, haCollector, bv 64 (Config.unstated 23 (256 + r.toNat)))
  | .stack => (stackWire, haCollector, 0)

/-- Whether the sender of a wire exists (Tables 1.8 and 1.9): a reserved code is never reported (R38). -/
def senderExists (w : WireSender) : Bool :=
  match w with
  | .unit a => (unitCheckers a.toNat).isSome
  | .block r b =>
    let r := r.toNat
    let b := b.toNat
    if r = 0 then decide (b ≤ 10) else if 1 ≤ r ∧ r ≤ 8 then decide (b = 0) else decide (r = 9 ∨ r = 10) && decide (b < 8)
  | .region r => decide (r.toNat ≤ 10)
  | .stack => true

/-- ERROR_WIRE: the receiver treats the pair as asserted and raises the fault; injected checks of the pair are used up (R526). -/
def errorWire (s : Stack) (w : ErrorWire) : Stack :=
  let (key, addr, d0) := wireKey w.sender
  if !senderExists w.sender || s.faults.wires.any (fun x => decide (x.key = key ∧ x.pair = w.pair.val)) then s
  else
    let unit := if key < 0x10000 then key else haCollector
    let (a, s) := takeInject s unit (8 + w.pair.val)
    let (_, s) := takeInject s unit (8 + w.pair.val)
    raise { s with faults := { s.faults with wires := s.faults.wires ++ [⟨key, w.pair.val, none, a⟩] } }
      { source := fErrorWire, addr := addr, detail0 := d0, injected := a, wire := some (key, w.pair.val) }

/-! ### Coil tests (R36, R533, R534) -/

/-- A failing coil of the column at site `p`: a spare is switched in, or with none left the column goes to its TSV lanes. How DETAIL1 holds the
assignment is not stated (log 25). -/
def coilFails (p : Nat) (s : Stack) (coil : Fin 4192) : Stack :=
  let v := s.vault p
  if v.path = 2 then s
  else if v.coilSpares.length < 64 then
    raise (s.setVault p { v with coilSpares := v.coilSpares ++ [coil.val] })
      { source := fCoilSpare, addr := haColumn p, vault := siteCore s p, detail1 := bv 64 (Config.unstated 25 (v.coilSpares.length * 65536 + coil.val)) }
  else
    let s := raise (s.setVault p { v with path := 2 }) { source := fColDegraded, addr := haColumn p, vault := siteCore s p }
    loadGeometry s

/-- Tick hold for coil tests ends with the last of them (R533). -/
def endTest (now : Nat) (s : Stack) : Stack :=
  if s.tick.testHold ∧ !testsDue s then endHold now { s with tick := { s.tick with testHold := false } } else s

/-- COIL_TEST. -/
def coilTest (now : Nat) (s : Stack) (p : Nat) (x : CoilTest) : Stack :=
  let v := s.vault p
  if !testing s p || s.resetting.any (fun r => decide (r.domain = 2)) then s
  else endTest now (x.failing.foldl (coilFails p) (s.setVault p { v with testDue := false, replays := [] }))

/-! ### Geometry reported to the module controller (R497) -/

/-- The kept record with the geometry class of stack `i` replaced. -/
def setClass (l : List Byte) (i g : Nat) : List Byte := l.set (24 + i) (bv 8 g)

/-- Every stack whose geometry class differs from that of the module before: the kept record takes the new class, the
fleet manager is told. Stacks that are off, or have not loaded the class yet, report nothing. -/
def reportGeometry (old s : State) : State :=
  allStacks.foldl (fun s i =>
    let a := geometryClass (old.stack i)
    let b := geometryClass (s.stack i)
    if a = b ∨ a = 0 ∨ (s.stack i).boot = .off then s
    else sendEvent { s with mc := { s.mc with expected := s.mc.expected.map (fun l => setClass l i.val b) } } (.geometryChange i.val a b)) s

end Sys2Proof.Machine
end

