-- ==== Sys2Proof/Machine/Trust.lean ====
section
/-! DEFINITION. Images and licences (17): the fields and checks of a firmware image and of a licence. -/

namespace Sys2Proof.Machine
open Sys2Proof

/-! ### Images (R546, R547) -/

/-- The field of `n` bytes at byte `o`, little-endian. -/
def leAt (bs : List Byte) (o n : Nat) : Nat := bytesNat ((bs.drop o).take n)

/-- Whether `n` bytes from byte `o` are 0. -/
def zeroAt (bs : List Byte) (o n : Nat) : Bool := ((bs.drop o).take n).all (fun b => decide (b = 0))

def imageLen (bs : List Byte) : Nat := leAt bs 8 4
def imageBody (bs : List Byte) : Nat := leAt bs 12 4
def imageSvn (bs : List Byte) : Nat := leAt bs 16 1
def imageRevoke (bs : List Byte) : Nat := leAt bs 17 1
def imageBuild (bs : List Byte) : Nat := leAt bs 24 8
def imageRoot (bs : List Byte) : List Byte := (bs.drop 64).take 60

/-- The image hash (R547). -/
def imageHash (bs : List Byte) : List Byte := sha256 (bs.take (imageLen bs))

/-- The checks of Table 17.5 in order, under the fuses: the status of the first that fails, else OK. -/
def imageStatus (svn revoke : Nat) (bs : List Byte) : Nat :=
  let n := imageBody bs
  let sig := (bs.drop n).take 3604
  if leAt bs 0 4 ≠ 0x5746425A ∨ leAt bs 4 2 ≠ 1 ∨ !zeroAt bs 6 2 ∨ !zeroAt bs 18 6 ∨ !zeroAt bs 124 132 ∨ n % 16 ≠ 0 ∨ n < 256
      ∨ imageLen bs ≠ n + 3604 ∨ 0x1000000 < imageLen bs ∨ bs.length ≠ imageLen bs then stInvalidParam
  else if sha256 (imageRoot bs) ≠ hashBytes Config.rootHash then stAuthFailed
  else if sha256 ((bs.take n).drop 256) ≠ (bs.drop 32).take 32 then stAuthFailed
  else if !vendorVerify (imageRoot bs) (bs.take n) sig then stAuthFailed
  else if hssLeaf sig < revoke * 32768 then stAuthFailed
  else if imageSvn bs < svn then stAuthFailed
  else stOk

/-- Whether a stack accepts an image. -/
def imageOk (x : Stack) (bs : List Byte) : Bool := decide (imageStatus x.trust.svn x.trust.revoke bs = stOk)

/-! ### Licences (R555-R557) -/

def licenceSeq (bs : List Byte) : Nat := leAt bs 48 8
def licenceFeatures (bs : List Byte) : Nat := leAt bs 56 1
def licenceFloor (bs : List Byte) : Nat := leAt bs 57 1

/-- The checks of R556 at a stack, in order; `seq` is the SEQ that the licence's must exceed. -/
def licenceStatus (x : Stack) (seq : Option Nat) (bs : List Byte) : Nat :=
  let sig := bs.drop 128
  if bs.length ≠ 3732 ∨ leAt bs 0 2 ≠ 1 ∨ !zeroAt bs 2 2 ∨ leAt bs 4 4 ≠ 3732 ∨ !zeroAt bs 58 70 ∨ 31 < licenceFeatures bs then stInvalidParam
  else if leAt bs 8 8 ≠ Config.serial.toNat ∨ (bs.drop 16).take 32 ≠ moduleIdHash then stAuthFailed
  else if !vendorVerify (imageRoot x.trust.run) (bs.take 128) sig ∨ hssLeaf sig < x.trust.revoke * 32768 then stAuthFailed
  else if seq.any (fun n => decide (licenceSeq bs ≤ n)) ∨ licenceFloor bs < x.trust.lfuse then stAuthFailed
  else stOk

/-- SEC_LICENCE of a stack that holds a licence, or none (Table 17.12). -/
def licenceWord (l : Option (List Byte)) : Word :=
  match l with
  | some bs => bv 64 (licenceSeq bs % 2 ^ 32 * 2 ^ 32 + 128 + licenceFeatures bs % 32)
  | none => 0

/-- Whether the licence store holds, in its copy with the greater SEQ, a licence of this module that opens ports 8-15: what the ROM goes by in
VERIFY, before an image has been accepted whose root key could check a signature (R5, R548; DESIGN CHOICE, log 115). -/
def storedPorts (m : ModCtl) : Bool :=
  let ok := (m.licences.1.toList ++ m.licences.2.toList).filter (fun bs => decide (bs.length = 3732 ∧ leAt bs 0 2 = 1 ∧ leAt bs 8 8 = Config.serial.toNat))
  match ok with
  | [] => false
  | a :: l => decide (licenceFeatures (l.foldl (fun x y => if licenceSeq x < licenceSeq y then y else x) a) / 4 % 2 = 1)

/-- A licence loaded. -/
def loadLicence (x : Stack) (l : Option (List Byte)) : Stack :=
  setReg { x with trust := { x.trust with licence := l } } rSecLicence (licenceWord l)

end Sys2Proof.Machine
end

