-- ==== Sys2Proof/Machine/Flash.lean ====
section
/-! DEFINITION. Module flash (15, 17): its map, the training records and the leaf records as bytes, their checks and their writing. -/

namespace Sys2Proof.Machine
open Sys2Proof

/-! ### The map (Table 17.3) -/

/-- An area of module flash: the image, copy `k` of the training record and of the leaf record of a stack, copy `k` of the licence store, the
certificate of a stack. -/
inductive FlashArea
  | image
  | training (i : StackIx) (k : Bool)
  | leaf (i : StackIx) (k : Bool)
  | licence (k : Bool)
  | cert (i : StackIx)

/-- The area that holds flash byte `a`, with the byte's offset in it; none in a reserved area. -/
def flashArea (a : Nat) : Option (FlashArea × Nat) :=
  let copy := fun (n : Nat) => decide (n % 2 = 1)
  if a < 0x1000000 then some (.image, a)
  else if 0x3800000 ≤ a ∧ a < 0x3900000 then
    let o := a - 0x3800000
    some (.training (Fin.ofNat 4 (o / 0x40000)) (copy (o / 0x20000)), o % 0x20000)
  else if 0x3900000 ≤ a ∧ a < 0x3908000 then
    let o := a - 0x3900000
    some (.leaf (Fin.ofNat 4 (o / 0x2000)) (copy (o / 0x1000)), o % 0x1000)
  else if 0x3A00000 ≤ a ∧ a < 0x3A20000 then
    let o := a - 0x3A00000
    some (.licence (copy (o / 0x10000)), o % 0x10000)
  else if 0x3A20000 ≤ a ∧ a < 0x3A24000 then
    let o := a - 0x3A20000
    some (.cert (Fin.ofNat 4 (o / 0x1000)), o % 0x1000)
  else none

/-- One of two copies, and the pair with one replaced. -/
def copyOf {α : Type} (e : α × α) (k : Bool) : α := if k then e.2 else e.1
def putCopy {α : Type} (e : α × α) (k : Bool) (x : α) : α × α := if k then (e.1, x) else (x, e.2)

/-- What an area holds: the empty list where nothing has been written. -/
def areaBytes (m : ModCtl) (r : FlashArea) : List Byte :=
  match r with
  | .image => m.flash
  | .training i k => (copyOf (m.training.get i) k).getD []
  | .leaf i k => (copyOf (m.leaves.get i) k).getD []
  | .licence k => (copyOf m.licences k).getD []
  | .cert i => m.certs.get i

/-- An area written. -/
def putArea (m : ModCtl) (r : FlashArea) (bs : List Byte) : ModCtl :=
  match r with
  | .image => { m with flash := bs }
  | .training i k => { m with training := m.training.set i (putCopy (m.training.get i) k (some bs)) }
  | .leaf i k => { m with leaves := m.leaves.set i (putCopy (m.leaves.get i) k (some bs)) }
  | .licence k => { m with licences := putCopy m.licences k (some bs) }
  | .cert i => { m with certs := m.certs.set i bs }

/-- Flash byte `a`: none where nothing has been written. -/
def flashByte (m : ModCtl) (a : Nat) : Option Byte :=
  match flashArea a with
  | some (r, o) => (areaBytes m r)[o]?
  | none => none

/-- A bit of flash flipped: nothing changes where nothing has been written. -/
def flipFlash (m : ModCtl) (e : Nat × Fin 8) : ModCtl :=
  match flashArea e.1 with
  | none => m
  | some (r, o) =>
    match (areaBytes m r)[o]? with
    | none => m
    | some b => putArea m r ((areaBytes m r).set o (b ^^^ (1#8 <<< e.2.val)))

/-- The image that module flash delivers: none to accept while a write is in progress, or where one was cut short (R549). -/
def flashImage (m : ModCtl) : List Byte := if m.flashQueue ≠ [] ∨ m.flashOpen then [] else m.flash

/-! ### The training record (R489-R491) -/

/-- LENGTH of a training record. -/
def trainLength : Nat := 80960

/-- A byte of a training result whose value the manual does not state: a receiver trim, a deskew code, a lane's settings, a DRAM timing trim (free,
log 10). -/
def trimByte (x : Stack) (gen o : Nat) : Byte := bv 8 (Config.unstated 10 ((gen * 4 + stackIndex x) * 131072 + o))
def trimBytes (x : Stack) (gen o n : Nat) : List Byte := (List.range n).map (fun i => trimByte x gen (o + i))

/-- The entry of the column of site `p`: its spares' assignments, its receiver trims, whether it is on its TSV lanes. -/
def columnEntry (x : Stack) (gen p : Nat) : List Byte :=
  let v := x.vault p
  (List.range 64).flatMap (fun k => natBytes 2 (v.coilSpares.getD k 0xFFFF)) ++ trimBytes x gen (64 + 256 * p + 128) 72
    ++ [if v.path = 2 then 1 else 0] ++ List.replicate 55 0

/-- The entry of the `n`-th bridge: its deskew codes, and the group that its spare, the last of the 132, replaces (log 10). -/
def bridgeEntry (x : Stack) (gen n : Nat) : List Byte :=
  let spare := match (bridgeLinks x)[n]? with | some l => (tfind x.router.aligns l).bind (fun a => a.spare) | none => none
  trimBytes x gen (47168 + 4608 * n) 4224 ++ List.replicate 131 0xFF
    ++ [match spare with | some g => bv 8 g.val | none => 0xFF#8] ++ List.replicate 252 0

/-- The training record of a stack with a GEN (Table 15.4). -/
def trainRecord (x : Stack) (gen : Nat) : List Byte :=
  let head := natBytes 2 1 ++ [bv 8 (stackIndex x), 0#8] ++ natBytes 4 gen ++ natBytes 8 Config.serial.toNat ++ natBytes 4 trainLength ++ List.replicate 8 0
  let body := List.replicate 32 0 ++ (List.range 184).flatMap (columnEntry x gen) ++ (List.range 2).flatMap (bridgeEntry x gen)
    ++ trimBytes x gen 56384 1024 ++ trimBytes x gen 57408 23552
  head ++ natBytes 4 (crc32c (head ++ body)).toNat ++ body

def trainGen (bs : List Byte) : Nat := leAt bs 4 4

/-- Whether a copy of the training record is valid for a stack (R491). -/
def trainValid (x : Stack) (bs : List Byte) : Bool :=
  decide (bs.length = trainLength ∧ leAt bs 16 4 = trainLength ∧ leAt bs 0 2 = 1 ∧ leAt bs 2 1 = stackIndex x ∧ leAt bs 8 8 = Config.serial.toNat)
    && decide (leAt bs 28 4 = (crc32c (bs.take 28 ++ bs.drop 32)).toNat)

/-- The copy of the training record that a stack uses, of those that `reads` lets read back: the valid one, of two valid ones that with the
greater GEN. -/
def trainUsed (m : ModCtl) (x : Stack) (reads : Bool × Bool) : Option Bool :=
  let e := m.training.get (Fin.ofNat 4 (stackIndex x))
  let ok := fun (k : Bool) => copyOf reads k && (copyOf e k).any (trainValid x)
  let gen := fun (k : Bool) => trainGen ((copyOf e k).getD [])
  if ok false && ok true then some (decide (gen false < gen true))
  else if ok false then some false
  else if ok true then some true
  else none

/-- What a record holds for the column of site `p`: the coils that its spares replace, and whether it is on its TSV lanes. -/
def recordSpares (bs : List Byte) (p : Nat) : List Nat :=
  ((List.range 64).map (fun k => leAt bs (64 + 256 * p + 2 * k) 2)).filter (fun c => decide (c < 4192))
def recordLanes (bs : List Byte) (p : Nat) : Bool := decide (leAt bs (64 + 256 * p + 200) 1 = 1)

/-- Stack firmware writes a new training record into the copy that it did not use last, with GEN one greater than that of the one
which it supersedes (R489, R491; log 26): into the first with GEN 1 where it has used none. -/
def writeTraining (s : State) (i : StackIx) : State :=
  let x := s.stack i
  let k := x.bring.copy = some 0
  let gen := match x.bring.copy with | some c => trainGen (areaBytes s.mc (.training i (decide (c = 1)))) + 1 | none => 1
  { s.setStack i { x with bring := { x.bring with copy := some (if k then 1 else 0) } } with
    mc := putArea s.mc (.training i (decide k)) (trainRecord x gen) }

/-- `n` records written one after another. -/
def writeTrainings (i : StackIx) : Nat → State → State
  | 0, s => s
  | n + 1, s => writeTrainings i n (writeTraining s i)

/-! ### The leaf record (R552, R553) -/

/-- The leaf record of stack `i`. -/
def leafRecord (i gen e : Nat) : List Byte :=
  let head := natBytes 2 1 ++ [bv 8 i, 0#8] ++ natBytes 4 gen ++ natBytes 8 Config.serial.toNat ++ natBytes 8 e
  let tail := List.replicate 36 0
  head ++ natBytes 4 (crc32c (head ++ tail)).toNat ++ tail

def leafGen (bs : List Byte) : Nat := leAt bs 4 4
def leafLimit (bs : List Byte) : Nat := leAt bs 16 8

/-- Whether a leaf record of stack `i` is valid (R553). -/
def leafValid (i : Nat) (bs : List Byte) : Bool :=
  decide (bs.length = 64 ∧ leAt bs 0 2 = 1 ∧ leAt bs 2 1 = i ∧ leAt bs 8 8 = Config.serial.toNat)
    && decide (leAt bs 24 4 = (crc32c (bs.take 24 ++ bs.drop 28)).toNat)

/-- The GEN of a copy; 0 for one that holds no valid record. -/
def leafAge (i : Nat) (o : Option (List Byte)) : Nat := match o with | some bs => if leafValid i bs then leafGen bs else 0 | none => 0

/-- END of the valid leaf record of stack `i` with the greater GEN. -/
def recordEnd (s : State) (i : StackIx) : Option Nat :=
  let e := s.mc.leaves.get i
  let ok := fun (o : Option (List Byte)) => o.any (leafValid i.val)
  let later := decide (leafAge i.val e.1 < leafAge i.val e.2)
  let o := if later then e.2 else e.1
  if ok o then o.map leafLimit else none

/-- The leaf records after a write: into the copy used less recently, with GEN one greater than the other copy's. -/
def writeLeaf (i : Nat) (l : Option (List Byte) × Option (List Byte)) (e : Nat) : Option (List Byte) × Option (List Byte) :=
  let a := leafAge i l.1
  let b := leafAge i l.2
  if b < a then (l.1, some (leafRecord i (a + 1) e)) else (some (leafRecord i (b + 1) e), l.2)

end Sys2Proof.Machine
end

