-- ==== Sys2Proof/Machine/Heat.lean ====
section
/-! DEFINITION. Power and heat in time (14_power_and_heat.md): the cap controller's checks, floors and filler, the arbiter,
idle states, twin sensors, allowances and governor, forecasts, coolant. -/

namespace Sys2Proof.Machine
open Sys2Proof

/-- mW as W. -/
def watts (mw : Nat) : Rat := (mw : Rat) / 1000

/-! ### The cap controller (R447, R449) -/

/-- CAP_CHECK: an average more than 5 % above Λ lowers the compute die by a point. -/
def capCheck (s : Stack) (draw : Nat) : Stack :=
  let lim := limitNow s (tickOf s)
  if watts draw ≤ lim * 105 / 100 then s
  else
    let s := choosePoint s (min 5 (s.power.target + 1))
    if s.power.capOver then s
    else raise { s with power := { s.power with capOver := true } } { source := fCapOver, addr := haController }

/-- ACLK_RESTART: ACLK runs at the new point's frequency. -/
def aclkRestart (s : Stack) : Stack :=
  match s.power.change with
  | some p => { s with power := { s.power with point := p, stopped := false } }
  | none => s

/-- OPP_CHANGE_COMPLETE: the change is over once ACLK runs at its frequency; the next one begins. -/
def oppComplete (s : Stack) : Stack :=
  match s.power.change with
  | some p => if s.power.point = p ∧ !s.power.stopped then beginChange { s with power := { s.power with change := none } } else s
  | none => s

/-! ### Floors and filler (R454, R455) -/

/-- MERINGUE_ADJUST: the floor follows the 1 µs average draw; filler runs while the draw lies below the floor. -/
def meringueAdjust (now : Nat) (s : Stack) (draw : Nat) : Stack :=
  let f := floorNow now s
  let d := watts draw
  let s := { s with power := { s.power with floor := max f d, floorAt := now } }
  { s with power := { s.power with floor := floorNow now s, meringue := s.computeOn && decide (s.power.idle = 0) && decide (d < f) } }

/-! ### The arbiter (R445, R446, R456, R457) -/

/-- The module limit that B, the input voltage in mV and the coolant derates give. -/
def moduleLimit (c : ModCtl) (vin : Nat) : Rat :=
  min (c.budget : Rat) ((vin : Rat) / 1000 * 50) * (c.cool.lowFactor * c.cool.warmFactor)

/-- The request Q of a stack: while a job runs the larger pred of the plans for its current and its next tick, otherwise its
1 ms average draw. -/
def requestOf (s : Stack) : Rat :=
  if jobRuns s then
    let t := tickOf s + 1
    let (p, rho) := planTick s (tagsNext s) t
    max s.power.predNow (predict s (tagsNext s) p rho)
  else s.power.draw

/-- The grants of a period in stack order: `g`, `reclaim` as they stand, requests, caps and floors. -/
def arbitrate (pool sigma : Rat) (fell : Bool) (q cap floor : Quad Rat) :
    List StackIx → Quad Rat × Quad Bool → Quad Rat × Quad Bool
  | [], gr => gr
  | s :: rest, (g, rec_) =>
    let sum := cap.q0 + cap.q1 + cap.q2 + cap.q3
    let share := fun (o : StackIx) => pool * cap.get o / sum
    let want := min (q.get s) (min (cap.get s) (g.get s + sigma / 100))
    let want := if rec_.get s then min want (share s) else want
    let room := pool - ((g.q0 + g.q1 + g.q2 + g.q3) - g.get s)
    let rec_ := if room < want ∧ room < share s then
        allStacks.foldl (fun r o => if o ≠ s ∧ share o < g.get o then r.set o true else r) rec_
      else rec_
    let v := max (if fell then 0 else floor.get s) (min want room)
    let rec_ := if v ≤ share s then rec_.set s false else rec_
    arbitrate pool sigma fell q cap floor rest (g.set s v, rec_)

/-- A quad from a function of the stack. -/
def quadOf {α : Type} (f : StackIx → α) : Quad α := ⟨f 0, f 1, f 2, f 3⟩

/-- ARBITER_PERIOD: the 1 ms average draws are noted, the module limit follows B, V_in and the derates, and rises at S after a derate has
lifted; the grants of the period. -/
def arbiterPeriod (s : State) (vin : Nat) (draws : Quad Nat) : State :=
  let c := s.mc
  let target := moduleLimit c vin
  let slow := c.rising && decide (c.limit < target)
  let limit := if slow then min target (c.limit + (c.slope : Rat) / 100) else target
  let pool := max 0 (limit - 120)
  let sigma : Rat := if c.cool.stop.isSome then 500 else (c.slope : Rat) / 4
  let s := allStacks.foldl (fun s i => s.onStack i (fun x =>
    let x := cutFloor s.now x
    { x with power := { x.power with draw := watts (draws.get i), sigma := sigma } })) s
  let live := fun (i : StackIx) => decide ((s.stack i).boot ≠ .off)
  let q := quadOf (fun i => if live i then requestOf (s.stack i) else 0)
  let floor := quadOf (fun i => if live i then floorNow s.now (s.stack i) else 0)
  let (g, r) := arbitrate pool sigma (decide (pool < c.pool)) q (quadOf (fun i => (c.caps.get i : Rat))) floor allStacks
    (c.grants, c.reclaim)
  { s with mc := { c with limit := limit, rising := slow, pool := pool, grants := g, reclaim := r } }

/-- GRANT_WAIT: a tick start has waited 1 ms for its grant. -/
def grantWait (s : Stack) : Stack :=
  if s.power.grantWait && !s.power.grantRaised then
    raise { s with power := { s.power with grantRaised := true } } { source := fGrantWait, addr := haController }
  else s

/-! ### Idle states (R458-R461) -/

/-- Cells outside the core windows' scratch, data SRAM and instruction memory, which lose their contents (R279). -/
def keepsCell (a : Nat) : Bool :=
  match place a with
  | .window c o => (match windowPart (coreKind c) o with | .slice _ => true | _ => false)
  | _ => true

/-- The compute die without power: scratch, data SRAM, instruction memory with its valid bits, data queues and local flags lost, every core
HALTED (R194, R279, R458). Memory that has lost its contents reads as memory that nothing has written (log 2). -/
def loseCompute (s : Stack) : Stack :=
  { s with
    mem := s.mem.filter (fun e => keepsCell e.1)
    marks := s.marks.filter (fun e => keepsCell (e.1 * 32))
    parity := s.parity.filter (fun e => keepsCell (e.1 * 8))
    cores := s.cores.map (fun e => (e.1, { Core.reset with gen := e.2.gen, image := e.2.image })) }

/-- Every layer of every vault in or out of layer-local self-refresh; leaving it restarts the refresh timer (R248). -/
def selfRefreshAll (now : Nat) (s : Stack) (on : Bool) : Stack :=
  (List.range 184).foldl (fun s p =>
    let v := s.vault p
    s.setVault p (if on then { v with selfRefresh := 0xFF#8 }
      else if v.selfRefresh = 0 then v else { v with selfRefresh := 0, refreshFrom := now, refreshes := [] })) s

/-- Whether the stack has no work (R459). A KV command that waits for its AT_TICK is not in progress: its phase is a known event (R460). -/
def noWork (s : Stack) : Bool :=
  s.port.held.isEmpty && s.port.started.all (fun c => decide (c.op = 0x0203)) && s.resetting.isNone
    && (!jobOn s || decide (s.tick.phase = .barrier ∨ s.tick.phase = .starting) || decide (s.tick.doneSent = tickOf s + 1))

/-- Whether the start of the member's next tick waits only on E(t) (R460). -/
def waitsForEnd (s : Stack) : Bool :=
  decide (s.tick.phase = .run) && decide (s.tick.doneSent = tickOf s + 1) && !s.tick.hold && !s.tick.ending
    && decide (tickOf s ≠ s.tick.lastTick) && goLets s (tickOf s + 1) && grantLets s

/-- t_next in ns (R460), none where no event is known: the start of the next tick, the start of a forecast phase, the phase of a KV command that waits,
at the current point. `left` is the time to E(t) of the current tick: where ACLK stands in the tick is no state of the model (log 56). -/
def nextEvent (s : Stack) (left : Option Nat) : Option Nat :=
  let t := tickOf s
  let rest := left.getD 0
  let at_ := fun (n : Nat) => rest + (((n - (t + 1) : Nat) : Rat) * tickUs s s.power.point * 1000).floor.toNat
  let es := if !jobOn s then []
    else (if waitsForEnd s then left.toList else [])
      ++ ((s.power.forecast.filter (fun e => decide (t < e.first))).map (fun e => at_ e.first))
      ++ ((s.kv.waiting.filter (fun c => decide (t < (c.arg 7).toNat))).map (fun c => at_ (c.arg 7).toNat))
  match es with
  | [] => none
  | x :: r => some (r.foldl min x)

/-- IDLE_CHOOSE (R459): the state chosen for the time `next` in ns to the next known event, none where none is known. -/
def idleState (now : Nat) (s : Stack) (next : Option Nat) : Nat :=
  let w := reg s rPwrIdle
  let tol := fld w 0 32
  let limit : Int := (match next with | some n => (min tol n : Nat) | none => tol) - (fld w 48 16 * 1000 : Nat)
  if decide (s.pstate = .idle ∨ s.pstate = .disabled) && decide (1500000 ≤ limit) && decide (floorNow now s ≤ s.power.pBanked) then 2
  else if decide (2000 ≤ limit) && decide (floorNow now s ≤ s.power.pSimmer) then 1
  else 0

/-- The stack enters an idle state, or begins to leave one; `left` is the time to E(t) in ns. An Ivton request in service keeps the stack ACTIVE, as
one that comes ends SIMMER (R461; DEDUCED, log 56). The draw of a SIMMER that BANKED follows is remembered. -/
def idleChoose (now : Nat) (s : Stack) (left : Option Nat) : Stack :=
  if (s.boot ≠ .ready ∧ s.boot ≠ .held) ∨ s.power.exitEnd.isSome then s
  else
    let n := if noWork s ∧ s.router.rsps.all (fun r => r.performed) then idleState now s (nextEvent s left) else 0
    let s := if s.power.idle = 1 ∧ n = 2 then { s with power := { s.power with pSimmer := s.power.draw } } else s
    let enter := fun (s : Stack) => { s with power := { s.power with idle := n, meringue := false } }
    if n = s.power.idle then s
    else if s.power.idle = 2 ∨ n = 0 then wake now s
    else if n = 2 then selfRefreshAll now (enter { loseCompute s with computeOn := false }) true
    else enter s

/-- IDLE_EXIT_COMPLETE: the stack is ACTIVE; the draw of the state it leaves is remembered; requests that waited start; commands that came during an exit from BANKED count
as accepted now (R459, R461). -/
def idleExit (now : Nat) (s : Stack) : Stack :=
  match s.power.exitEnd with
  | none => s
  | some _ =>
    let w := s.power
    let d := w.draw
    if w.idle = 2 then
      let s := { s with
        computeOn := true
        power := { w with idle := 0, exitEnd := none, pBanked := d }
        port := { s.port with held := s.port.held.map (fun c => { c with at_ := now }) } }
      startRsps (selfRefreshAll now s false)
    else startRsps { s with power := { w with idle := 0, exitEnd := none, pSimmer := d } }

/-! ### Hotspots and sensors (R463, R466, R468, R484) -/

/-- A 12-bit code as a temperature in 0.125 °C. -/
def codeTemp (c : BitVec 12) : Int := c.toInt

/-- A code, with those outside the valid range read as out of range. -/
def validCode (c : BitVec 12) : BitVec 12 := if codeTemp c < -320 ∨ 1200 < codeTemp c then 0x800#12 else c

/-- The die of a hotspot: 0 compute, 1 cache, 2 base, 8 + l DRAM layer l; and its hierarchy address (R38). -/
def hotDie (n : Nat) : Nat := if n < 48 then 0 else if n < 64 then 1 else if n < 128 then 8 + (n - 64) / 8 else 2
def haHotspot (n : Nat) : Nat :=
  if n < 48 then 0xA000 + n / 6 * 0x100 + 0x20 + n % 6
  else if n < 64 then 0x9000 + (n - 48) / 2 * 0x100 + 0x20 + (n - 48) % 2
  else if n < 128 then 0x1000 + (n - 64) / 8 * 0x1000 + 0xC0 + (n - 64) % 8
  else 0x0A20 + (n - 128)

/-- Targets and hard limits in 0.125 °C (Table 14.4). -/
def targetTemp (die : Nat) : Int := if 8 ≤ die then 680 else 760
def hardTemp (die : Nat) : Int := if 8 ≤ die then 760 else 840

/-- The row of the table of R468 for two valid codes, as THM_HOTn.STATE, and the control reading. -/
def sensorRow (n : Nat) (a b : BitVec 12) (forced : Bool) : Nat × Int :=
  let oa := decide (a = 0x800#12)
  let ob := decide (b = 0x800#12)
  let d := (codeTemp a - codeTemp b).natAbs
  if forced || (oa && ob) then (2, hardTemp (hotDie n))
  else if ob then (3, codeTemp a)
  else if oa then (4, codeTemp b)
  else if d ≤ 24 then (0, max (codeTemp a) (codeTemp b))
  else if d ≤ 96 then (1, max (codeTemp a) (codeTemp b))
  else (2, hardTemp (hotDie n))

/-- The fault of a row: none, SENSOR_SPLIT, SENSOR_FAIL, SENSOR_OPEN. -/
def sensorFault (st : Nat) : Nat := if st = 1 then fSensorSplit else if st = 2 then fSensorFail else if st = 3 ∨ st = 4 then fSensorOpen else 0

/-- One hotspot sampled: its register, and the fault on entry into a row. -/
def sampleHot (s : Stack) (x : SensorSample) : Stack :=
  let n := x.n.val
  let a := validCode x.a
  let b := validCode x.b
  let (inj, s) := takeInject s (haHotspot n) 0
  let (st, ctl) := sensorRow n a b inj
  let old := fld (reg s (rThmHot n)) 0 3
  let w := bv 64 ((BitVec.ofInt 12 ctl).toNat * 2 ^ 36 + b.toNat * 2 ^ 24 + a.toNat * 2 ^ 12 + st)
  let s := setReg s (rThmHot n) w
  if sensorFault st ≠ 0 ∧ sensorFault st ≠ sensorFault old then raise s { source := sensorFault st, addr := haHotspot n, injected := inj } else s

/-- The control reading of hotspot `n`, and of a die. -/
def hotReading (s : Stack) (n : Nat) : Int := codeTemp (bv 12 (fld (reg s (rThmHot n)) 36 12))
def dieHotspots (die : Nat) : List Nat := (List.range 152).filter (fun n => decide (hotDie n = die))
def dieReading (s : Stack) (die : Nat) : Int :=
  match (dieHotspots die).map (hotReading s) with
  | [] => 0
  | t :: ts => ts.foldl max t

/-- Whether a hard-limit action holds for a die: it begins at the hard limit, with THM_HARD, and ends at the target (R466). -/
def hardNow (held : Bool) (s : Stack) (die : Nat) : Bool :=
  decide (hardTemp die ≤ dieReading s die) || (held && decide (targetTemp die < dieReading s die))

def setBit (w : Nat) (x : BitVec w) (i : Nat) (b : Bool) : BitVec w := if b then x ||| (1#w <<< i) else x &&& ~~~(1#w <<< i)

/-- THM_HARD and its actions, after the readings have changed (R466). -/
def hardLimits (s : Stack) : Stack :=
  let old := s.power
  let logic := setBit 2 (setBit 2 old.hardCompute 0 (hardNow (old.hardCompute.getLsbD 0) s 0)) 1 (hardNow (old.hardCompute.getLsbD 1) s 1)
  let layers := (List.range 8).foldl (fun x l => setBit 8 x l (hardNow (old.hardLayers.getLsbD l) s (8 + l))) old.hardLayers
  let base := hardNow old.hardBase s 2
  let new := (List.range 2).any (fun i => logic.getLsbD i && !old.hardCompute.getLsbD i)
    || (List.range 8).any (fun i => layers.getLsbD i && !old.hardLayers.getLsbD i) || (base && !old.hardBase)
  let changed := decide (logic ≠ old.hardCompute ∨ layers ≠ old.hardLayers ∨ base ≠ old.hardBase)
  let s := { s with power := { old with hardCompute := logic, hardLayers := layers, hardBase := base,
                                        allowCompute := if logic = 0 then old.allowCompute else 0 } }
  let s := if new then raise s { source := fThmHard, addr := haController } else s
  if changed then
    let rho := if layers ≠ 0 ∨ base then 1 else if jobRuns s then fld (reg s (rVltRate 0)) 0 11 else 1024
    setRates (choosePoint s (if jobRuns s then s.power.target else 0)) rho
  else s

/-- The layers on the doubled refresh rate: above 85 °C until 82 °C or below (R248). -/
def hotLayers (s : Stack) : Stack :=
  let bits := fun (old : BitVec 8) => (List.range 8).foldl (fun x l =>
    let t := dieReading s (8 + l)
    if 680 < t then setBit 8 x l true else if t ≤ 656 then setBit 8 x l false else x) old
  (List.range 184).foldl (fun s p => let v := s.vault p; s.setVault p { v with hot := bits v.hot }) s

/-- SENSOR_SAMPLE at a stack. -/
def sensorSample (s : Stack) (xs : List SensorSample) : Stack := hotLayers (hardLimits (xs.foldl sampleHot s))

/-- The large thermal cycles that a compute hotspot's reading completes (R590, log 27): a swing of 20 K or more from its extreme and
back by as much. -/
def swingStep (r : Int) (w : Int × Int × Bool) : Bool × (Int × Int × Bool) :=
  let (lo, hi, up) := w
  let lo' := min lo r
  let hi' := max hi r
  if up then (if 160 ≤ hi' - r then (true, (r, r, false)) else (false, (lo, hi', true)))
  else (false, if 160 ≤ r - lo' then (lo', r, true) else (lo', lo', false))

/-- The samples of compute hotspots counted into the large thermal cycles; SENSOR_FAIL told to the fleet manager (R474, R590). -/
def sampleEvents (old : Stack) (i : StackIx) (s : State) (x : SensorSample) : State :=
  let n := x.n.val
  let st := s.stack i
  let now := fld (reg st (rThmHot n)) 0 3
  let s := if now = 2 ∧ fld (reg old (rThmHot n)) 0 3 ≠ 2 then sendEvent s (.sensorFail i.val n x.a x.b) else s
  if n < 48 then
    let key := i.val * 64 + n
    let r := hotReading st n
    let (done, w) := swingStep r ((tfind s.mc.swings key).getD (r, r, false))
    { s with mc := { s.mc with swings := tput s.mc.swings key w, thermalCycles := s.mc.thermalCycles + if done then 1 else 0 } }
  else s

/-! ### Allowances (R464, R465) -/

/-- An allowance after an update for a margin `e` in °C. -/
def allowStep (cap a lo e : Rat) : Rat :=
  if e < 0 then max lo (a - 2 * cap / 100 * min (-e) 5) else if e < 2 then a else min cap (a + cap / 100)

/-- A reading's margin below a die's target, in °C. -/
def margin (s : Stack) (die : Nat) : Rat := ((targetTemp die - dieReading s die : Int) : Rat) / 8

/-- The three allowances of R464; COMPUTE stays 0 while a hard-limit action holds the compute die (R466). -/
def allowances (s : Stack) : Stack :=
  let w := s.power
  let cap : Rat := w.cap
  let dram := (List.range 8).foldl (fun m l => min m (margin s (8 + l))) (margin s 8)
  { s with power := { w with allowCompute := if w.hardCompute = 0 then allowStep cap w.allowCompute 0 (margin s 0) else 0
                             allowDram := allowStep cap w.allowDram 0 dram
                             allowStack := allowStep cap w.allowStack 150 (margin s 2) } }

/-- GOVERNOR_UPDATE. -/
def governor (s : Stack) : Stack :=
  let w := s.power
  let cap : Rat := w.cap
  let m : Rat := min (((680 - dieReading s 15 : Int) : Rat) / 8) (((760 - dieReading s 1 : Int) : Rat) / 8)
  let a := if m < 3 then max 0 (w.allowGov - 3 * cap / 100 * min (3 - m) 5) else if m < 5 then w.allowGov else min cap (w.allowGov + cap / 100)
  { s with power := { w with allowGov := a } }

/-! ### The thermal model and forecasts (R471-R473) -/

/-- τ in ms and the initial R of a die. -/
def dieTau (die : Nat) : Rat := if die = 0 then 20 else if die = 1 then 40 else if die = 2 then 120 else 80
def dieR0 (die : Nat) : Rat := if die = 0 then 8 / 100 else if die = 1 then 12 / 100 else if die = 2 then 25 / 100 else 35 / 100

/-- The code of a die. -/
def dieCode (d : Die) : Nat :=
  match d with | .compute => 0 | .cache => 1 | .base => 2 | .layer l => 8 + l.val

def allDies : List Nat := [0, 1, 2, 8, 9, 10, 11, 12, 13, 14, 15]

/-- T_in as THM_COOLANT gives it, in °C. -/
def inletTemp (s : Stack) : Rat := ((codeTemp (bv 12 (fld (reg s rThmCoolant) 24 12)) : Int) : Rat) / 8

/-- The modelled temperature and resistance of a die; one that was never modelled begins at its control reading. -/
def modelTemp (s : Stack) (die : Nat) : Rat := (tfind s.power.temps die).getD (((dieReading s die : Int) : Rat) / 8)
def modelR (s : Stack) (die : Nat) : Rat := (tfind s.power.resist die).getD (dieR0 die)

/-- An interval that holds e^(-x), and bounds how the controller may round it: for x above 100 from 0 to 2^-100, else relative width below 2^-40
(log 11). -/
def decayIv (x : Rat) : Iv :=
  if x ≤ 0 then ⟨1, 1⟩
  else if 100 < x then ⟨0, mkRat 1 (2 ^ 100)⟩
  else
    let e := ivExp 64 ⟨x, x⟩
    ⟨1 / e.hi, 1 / e.lo⟩

/-- e^(-x) as the controller has it: its own rounding, within the interval. -/
def decay (x : Rat) : Rat := max (decayIv x).lo (min (decayIv x).hi (Config.decay x))

/-- T(t + Δ) for Δ in ms under power P (R472). -/
def modelStep (s : Stack) (die : Nat) (t p ms : Rat) : Rat :=
  let f := decay (ms / dieTau die)
  let tin := inletTemp s
  tin + (t - tin) * f + modelR s die * p * (1 - f)

/-- The power of a die last measured, in W. -/
def diePowerOf (s : Stack) (die : Nat) : Rat := (tfind s.power.diePower die).getD 0

/-- The power of a die in a measurement, in W: each DRAM layer one eighth. -/
def measuredPower (x : DiePower) (d : Nat) : Rat :=
  if d = 0 then watts x.compute else if d = 1 then watts x.cache else if d = 2 then watts x.base else watts x.dram / 8

/-- The cycles for which die powers are remembered: 5τ of the base die, and 10 ms more. -/
def powerSpan : Nat := 610 * 2500000

/-- The die powers of a measurement: those in force, and noted. -/
def noteDiePower (now : Nat) (s : Stack) (x : DiePower) : Stack :=
  { s with power := { s.power with
    diePower := allDies.foldl (fun t d => tput t d (measuredPower x d)) []
    powerLog := (now, x) :: s.power.powerLog.filter (fun e => decide (now ≤ e.1 + powerSpan)) } }

/-- Every die's model advanced by 100 µs. -/
def advanceModel (s : Stack) : Stack :=
  let t := allDies.foldl (fun t d => tput t d (modelStep s d (modelTemp s d) (diePowerOf s d) (1 / 10))) []
  { s with power := { s.power with temps := t } }

/-- A forecast phase as an allowance sees it (R473): kind of allowance (0 COMPUTE, 1 DRAM, 2 STACK), first and last tick, what the
allowance is from there; with whether it lies below the die's draw at P5. -/
structure Ahead where
  kind : Nat
  die : Nat
  entry : Forecast
  a : Rat
  low : Bool
  deriving DecidableEq, Repr

/-- The dies that have an allowance, each with its kind. -/
def allowDies : List (Nat × Nat) := [(0, 0), (2, 2), (8, 1), (9, 1), (10, 1), (11, 1), (12, 1), (13, 1), (14, 1), (15, 1)]

/-- The power of a die in a forecast phase at a point: the compute term, one eighth of the DRAM term, or for the base die its
measured power; and the bound on that term that a die limit `a` means for the allowance. -/
def phasePower (s : Stack) (die tag p rho : Nat) : Rat :=
  if die = 0 then termC s (tagEnergy s tag) p else if 8 ≤ die then termD s (256 * tagRows s tag) p rho / 8 else diePowerOf s die

/-- What R473 finds for one forecast entry and one die: the allowance from the entry's first tick, where the die would pass
its target. -/
def forecastAllow (s : Stack) (e : Forecast) (die kind : Nat) : Option Ahead :=
  let t := tickOf s
  let us := tickUs s s.power.point
  let h := ((e.first - t : Nat) : Rat) * us / 1000
  let d := (e.ticks : Rat) * us / 1000
  if decide (e.first ≤ t) || decide ((fld (reg s rThmCfg) 48 16 : Rat) < h) then none
  else
    let (p, rho) := planTick s [e.tag] e.first
    let pf := phasePower s die e.tag p rho
    let t0 := modelStep s die (modelTemp s die) (diePowerOf s die) h
    let f := decay (d / dieTau die)
    let tin := inletTemp s
    let goal : Rat := ((targetTemp die : Int) : Rat) / 8
    if tin + (t0 - tin) * f + modelR s die * pf * (1 - f) ≤ goal then none
    else
      let a := (goal - tin - (t0 - tin) * f) / (modelR s die * (1 - f))
      some ⟨kind, die, e, if 8 ≤ die then a * 8 else a, decide (a < phasePower s die e.tag 5 rho)⟩

/-- The allowances that the forecast sets now, with those lowered by PRECOOL during the last τ before a phase of higher PRIORITY (R473, R481). -/
def forecastUpdate (s : Stack) : List Ahead × Stack :=
  let found := s.power.forecast.flatMap (fun e => allowDies.filterMap (fun d => forecastAllow s e d.1 d.2))
  let t := tickOf s
  let now := (tagsNow s).foldl (fun m g => max m (oppPriority s g)) 0
  let pre : Rat := (min 50 (fld (reg s rThmCfg) 40 8) : Nat)
  let cut := fun (x : Ahead) =>
    let h := ((x.entry.first - t : Nat) : Rat) * tickUs s s.power.point / 1000
    if now < oppPriority s x.entry.tag ∧ h ≤ dieTau x.die then
      let base := if x.kind = 0 then s.power.allowCompute else if x.kind = 1 then s.power.allowDram else s.power.allowStack
      [(x.kind + 10, t, x.entry.first - 1, base * (100 - pre) / 100)]
    else []
  let ahead := found.flatMap (fun x => (x.kind, x.entry.first, x.entry.first + x.entry.ticks - 1, x.a) :: cut x)
  let kept := s.power.ahead.filter (fun e => decide (e.1 < 10 ∧ e.2.1 ≤ t ∧ t ≤ e.2.2.1))
  (found, { s with power := { s.power with ahead := kept ++ ahead } })

/-- THERMAL_UPDATE at a stack: the allowances, the thermal model, the forecast; with the phases whose allowance lies below the die's draw at P5.
The floor keeps within its bounds; a change of THM_ALLOW.STACK, a limit, ends SIMMER (R461). -/
def thermalUpdate (now : Nat) (s : Stack) (x : DiePower) : List Ahead × Stack :=
  let (found, y) := forecastUpdate (advanceModel (noteDiePower now (allowances s) x))
  (found, cutFloor now (if y.power.allowStack = s.power.allowStack then y else wakeSimmer now y))

/-- Whether a die's 1 ms average power has varied by less than 5 % over the last 5τ: of what has been measured in that time and before it, the least
is more than 95 % of the greatest (log 11). -/
def steadyPower (now : Nat) (s : Stack) (die : Nat) (power : Nat) : Bool :=
  let from_ : Rat := (now : Rat) - 5 * dieTau die * 2500000
  let l := s.power.powerLog.filter (fun e => decide (from_ ≤ (e.1 : Rat)))
  let ps := l.map (fun e => measuredPower e.2 die)
  let lo := ps.foldl min (watts power)
  let hi := ps.foldl max (watts power)
  s.power.powerLog.any (fun e => decide ((e.1 : Rat) ≤ from_)) && decide (hi * 95 / 100 < lo)

/-- THERMAL_MODEL_UPDATE: after steady power R moves by a 64th of its error, for the die's control reading and its measured power in mW (R472). -/
def modelUpdate (now : Nat) (s : Stack) (die : Nat) (power : Nat) : Stack :=
  if power = 0 ∨ !steadyPower now s die power then s
  else
    let r := (((dieReading s die : Int) : Rat) / 8 - inletTemp s) / watts power
    let old := modelR s die
    { s with power := { s.power with resist := tput s.power.resist die (old + (r - old) / 64) } }

end Sys2Proof.Machine
end

