-- ==== Sys2Proof/Machine/Coolant.lean ====
section
/-! DEFINITION. The coolant as the module controller watches it (R469, R470, R474, R581), the coolant stop, and the removal of power
(R467, R573). -/

namespace Sys2Proof.Machine
open Sys2Proof

/-! ### Averages (R469, R581) -/

/-- Samples in a second. -/
def perSecond : Nat := 10000

/-- The mean of a list of numbers. -/
def meanOf (l : List Rat) : Rat := l.foldl (fun a x => a + x) 0 / (max 1 l.length : Nat)

/-- The averages of the last second, once a second has been sampled: flow in L/min, inlet and outlet in °C. -/
def averages (c : CoolCtl) : Option (Rat × Rat × Rat) :=
  if c.samples.length < perSecond then none
  else some (meanOf (c.samples.map (fun x => (x.flow : Rat) / 1000)), meanOf (c.samples.map (fun x => (x.inlet : Rat) / 8)),
    meanOf (c.samples.map (fun x => (x.outlet : Rat) / 8)))

/-- A sample taken. -/
def takeSample (c : CoolCtl) (x : CoolSample) : CoolCtl :=
  let c := { c with samples := (x :: c.samples).take perSecond, taken := c.taken + 1 }
  match averages c with
  | some (q, _, _) => if c.taken % perSecond = 0 then { c with seconds := (q :: c.seconds).take 60 } else c
  | none => c

/-- The least-squares line through the last 60 one-second averages: its value now and its slope per second; none before there are 60. -/
def trend (c : CoolCtl) : Option (Rat × Rat) :=
  if c.seconds.length < 60 then none
  else
    let ys := c.seconds.reverse
    let n : Rat := 60
    let xm : Rat := 59 / 2
    let ym := meanOf ys
    let sxy := (ys.zipIdx.map (fun e => ((e.2 : Rat) - xm) * (e.1 - ym))).foldl (fun a x => a + x) 0
    let sxx := (ys.zipIdx.map (fun e => ((e.2 : Rat) - xm) * ((e.2 : Rat) - xm))).foldl (fun a x => a + x) 0
    let b := sxy / sxx
    some (ym + b * (n - 1 - xm), b)

/-- The Decline test: the line reaches 3.4 L/min within 600 s; with slope per minute and the seconds to the crossing. -/
def declines (c : CoolCtl) : Option (Rat × Rat) :=
  match trend c with
  | none => none
  | some (v, b) => if v ≤ 34 / 10 then some (b * 60, 0) else if b < 0 ∧ v + b * 600 ≤ 34 / 10 then some (b * 60, (34 / 10 - v) / b) else none

/-- Whether the newest sample shows a stop. -/
def stopSeen (c : CoolCtl) : Bool :=
  match c.samples with
  | x :: rest =>
    decide (400 < x.inlet)
      || (match rest with | y :: _ => decide (x.flow < 800 ∧ y.flow < 800) | [] => false)
      || (match c.samples[500]? with | some y => decide (x.flow + 1600 ≤ y.flow) | none => false)
  | [] => false

/-! ### Messages (R474) -/

def sayDecline (s : State) : State :=
  match averages s.mc.cool, declines s.mc.cool with
  | some (q, _, _), some (b, at_) =>
    let s := sendEvent s (.coolantForecast q b at_)
    { s with mc := { s.mc with cool := { s.mc.cool with saidDecline := s.now } } }
  | _, _ => s

def sayLow (s : State) : State :=
  match averages s.mc.cool with
  | some (q, _, _) =>
    let s := sendEvent s (.coolantLow q s.mc.cool.lowFactor)
    { s with mc := { s.mc with cool := { s.mc.cool with saidLow := s.now } } }
  | none => s

def sayWarm (s : State) : State :=
  match averages s.mc.cool with
  | some (_, t, _) =>
    let s := sendEvent s (.coolantWarm t s.mc.cool.warmFactor)
    { s with mc := { s.mc with cool := { s.mc.cool with saidWarm := s.now } } }
  | none => s

/-! ### THM_COOLANT (R482) -/

/-- A number in whole units where the manual states no rounding (log 21). -/
def wholeInt (now : Nat) (x : Rat) : Int :=
  if (x.floor : Rat) = x then x.floor else x.floor + (Config.unstated 21 now % 2 : Nat)

/-- The most severe condition: 0 normal, 1 decline, 2 low flow, 3 warm inlet, 4 stop. -/
def coolState (c : CoolCtl) : Nat :=
  if c.stop.isSome then 4 else if c.warm then 3 else if c.low then 2 else if c.decline then 1 else 0

/-- THM_COOLANT of every powered stack, loaded every 100 ms. -/
def loadCoolant (s : State) : State :=
  match averages s.mc.cool with
  | none => s
  | some (q, tin, tout) =>
    let c := s.mc.cool
    let code := fun (t : Rat) => (BitVec.ofInt 12 (wholeInt s.now (t * 8))).toNat
    let w := bv 64 (min 65535 (wholeUnits 21 s.now (q * 1000)) * 2 ^ 48 + code tout * 2 ^ 36 + code tin * 2 ^ 24
      + wholeUnits 21 s.now (c.lowFactor * c.warmFactor * 128) * 2 ^ 16 + coolState c)
    allStacks.foldl (fun s i => s.onStack i (fun x => if x.boot = .off then x else setReg x rThmCoolant w)) s

/-! ### Conditions (R469) -/

/-- Low flow and warm inlet as the averages show them: on entry the derate holds; its factor follows the average while it holds. -/
def coolConditions (s : State) (q tin : Rat) : State :=
  let low := decide (q < 34 / 10)
  let warm := decide (40 < tin)
  let c := s.mc.cool
  let newLow := low && !c.low
  let newWarm := warm && !c.warm
  let onLow := c.low || low
  let onWarm := c.warm || warm
  let c := { c with
    low := onLow
    lowFactor := if onLow then min 1 (q / 4) else 1
    lowClear := if onLow && decide (36 / 10 ≤ q) then c.lowClear.orElse (fun _ => some s.now) else none
    warm := onWarm
    warmFactor := if onWarm then min 1 (max (2 / 10) (1 - 4 / 100 * (tin - 40))) else 1
    warmClear := if onWarm && decide (tin ≤ 39) then c.warmClear.orElse (fun _ => some s.now) else none
    flowBack := if decide (36 / 10 ≤ q) then c.flowBack.orElse (fun _ => some s.now) else none }
  let s := { s with mc := { s.mc with cool := c } }
  let s := if newLow then sayLow (raiseModule s fCoolantLow) else s
  let s := if newWarm then sayWarm (raiseModule s fCoolantWarm) else s
  let d := (declines c).isSome
  let newD := d && !c.decline
  let s := { s with mc := { s.mc with cool := { s.mc.cool with decline := d } } }
  if newD then sayDecline s else s

/-! ### The stop (R470) -/

/-- COOLANT_STOP: every stack to P5, its job to end under R70, the fault recorded, the fleet manager told. -/
def coolantStop (s : State) : State :=
  let flows := ((s.mc.cool.samples.drop 1).take 40).map (fun x => x.flow)
  let s := { s with mc := { s.mc with cool := { s.mc.cool with stop := some s.now, ended := false } } }
  let s := sendEvent s (.coolantStop flows)
  let s := allStacks.foldl (fun s i => s.onStack i (fun x =>
    if x.boot = .off then x else choosePoint { cutFloor s.now x with power := { (cutFloor s.now x).power with coolantStop := true } } 5)) s
  let s := raiseModule s fCoolantStop
  allStacks.foldl (fun s i => if (s.stack i).boot = .off then s else onMember s i (fun x => abortJob s.now x none fCoolantStop)) s

/-- COOLANT_SAMPLE. Until the coolant is qualified nothing else acts on it (R581). -/
def coolantSample (s : State) (x : Coolant) : State :=
  if !s.mc.supply then s
  else
    let c := takeSample s.mc.cool ⟨x.flow, x.inlet, x.outlet⟩
    let s := { s with mc := { s.mc with cool := c } }
    match averages c with
    | none => s
    | some (q, tin, _) =>
      let ok := decide (36 / 10 ≤ q ∧ tin ≤ 40)
      let qual := ok || (s.mc.vin && c.qualified)
      let s := { s with mc := { s.mc with cool := { c with qualified := qual } } }
      if !qual then s
      else
        let s := coolConditions s q tin
        let s := if s.mc.cool.stop.isNone && stopSeen s.mc.cool then coolantStop s else s
        if c.taken % 1000 = 0 then loadCoolant s else s

/-- The commands accepted and not begun that the hold does not allow answered BUSY (R470). -/
def holdCommands (now : Nat) (s : Stack) : Stack :=
  let out := fun (c : Cmd) => !c.begun && busyFor s c.op
  let cs := (s.port.started ++ s.port.held).filter out
  let s := { s with port := { s.port with started := s.port.started.filter (fun c => !out c), held := s.port.held.filter (fun c => !out c) } }
  cs.foldl (fun s c => answerCmd now s c stBusy) s

/-- COOLANT_STOP_DEADLINE: members that still run end their job at once, with ABORT sent; the layers are in layer-local self-refresh and the clocks
gated; commands that have not begun are answered BUSY. -/
def stopDeadline (s : State) : State :=
  if s.mc.cool.stop.isNone ∨ s.mc.cool.ended then s
  else
    let s := { s with mc := { s.mc with cool := { s.mc.cool with ended := true } } }
    allStacks.foldl (fun s i =>
      if (s.stack i).boot = .off then s
      else onMember s i (fun x =>
        let x := abortJob s.now x none fCoolantStop
        let x := if jobOn x then endMember s.now x else x
        holdCommands s.now (selfRefreshAll s.now { x with power := { x.power with coolantHold := true } } true))) s

/-- Whether FAULT_ACK has cleared COOLANT_STOP in every stack and among the copies. -/
def stopCleared (s : State) : Bool :=
  allStacks.all (fun i => ((s.stack i).faults.records ++ s.mc.copies.get i).all (fun r => decide (r.source ≠ fCoolantStop)))

/-- COOLANT_HOLD_END. -/
def holdEnd (s : State) : State :=
  let c := s.mc.cool
  if c.stop.isNone ∨ !c.ended ∨ c.flowBack.isNone ∨ !stopCleared s then s
  else
    let s := { s with mc := { s.mc with cool := { c with stop := none, ended := false } } }
    allStacks.foldl (fun s i => s.onStack i (fun x =>
      if x.boot = .off then x
      else
        let x := cutFloor s.now x
        let x := selfRefreshAll s.now { x with power := { x.power with coolantStop := false, coolantHold := false } } false
        if jobRuns x then x else setRates (choosePoint x 0) 1024)) s

/-- COOLANT_DERATE_LIFT of low flow (0) or warm inlet (1): the module limit then rises at slope S. -/
def derateLift (s : State) (m : Nat) : State :=
  let c := s.mc.cool
  if m = 0 then
    if c.low && c.lowClear.isSome then
      { s with mc := { s.mc with rising := true, cool := { c with low := false, lowFactor := 1, lowClear := none } } }
    else s
  else if c.warm && c.warmClear.isSome then
    { s with mc := { s.mc with rising := true, cool := { c with warm := false, warmFactor := 1, warmClear := none } } }
  else s

/-- COOLANT_MESSAGE_REPEAT of the forecast (0), low flow (1), warm inlet (2), while the condition holds. -/
def repeatMessage (s : State) (m : Nat) : State :=
  let c := s.mc.cool
  if m = 0 then (if c.decline then sayDecline s else s)
  else if m = 1 then (if c.low then sayLow s else s)
  else if c.warm then sayWarm s else s

end Sys2Proof.Machine
end

