-- ==== Sys2Proof/Machine/View.lean ====
section
/-! DEFINITION. The control window (R11-R17, R591): what a register reads as, and what a write of a register does under the access
codes of its fields. -/

namespace Sys2Proof.Machine
open Sys2Proof

/-! ### Reading -/

def one (b : Bool) (v : Nat) : Nat := if b then v else 0

/-- The code of a bring-up state (Table 15.1). -/
def bootCode (b : Boot) : Nat :=
  match b with
  | .off => 0 | .rom => 0 | .verify => 1 | .proofing => 2 | .discover => 3 | .admitting => 4 | .ready => 5 | .held => 6 | .quiesced => 7

/-- CORE_STATE (Table 6.10). -/
def coreState (k : Core) : Word :=
  let st := match k.run with | .halted => 0 | .running => 1 | .faulted => 2
  bv 64 (k.pc % 2 ^ 18 * 2 ^ 32 + k.phase.toNat * 2 ^ 16 + one k.seqStall 512 + one k.seqHold 256 + one k.participating 4 + st)

/-- CORE_IMEM (Table 6.12). -/
def coreImem (s : Stack) (c : Nat) : Word :=
  let k := s.core c
  bv 64 (k.gen.toNat * 2 ^ 48 + (List.range 512).countP (fun i => k.valid.getLsbD i) * 2 ^ 32 + imemLines (coreKind c))

/-- The local flags of core `c` (R206). -/
def coreFlags (s : Stack) (c : Nat) : Word := (s.core c).flags

/-- CORE_DQ_STATn (Table 6.15). -/
def dqStat (k : Core) (n : Nat) : Word :=
  let q := tget (fun _ => DQ.empty) k.dqs n
  bv 64 (q.high * 2 ^ 16 + q.slots.length)

/-- TCK_STATUS (Table 2.9). Where several of its states hold, HOLD reads before CLOSED, OVERRUN, BARRIER and GATE in this order; CLOSED also
reads where the tick closed and no SYNC_STALL was raised (DESIGN CHOICE, log 88). -/
def tckStatus (s : Stack) : Word :=
  let k := s.tick
  let st := if k.phase = .idle then 0 else if k.hold then 5 else if k.closed then 6 else if k.overrun then 4
    else if k.phase ≠ .run then 2 else if gateWaiting s then 3 else 1
  bv 64 (one (decide (k.phase ≠ .idle)) (min 2 (tickOf s - (k.goRecv - 1))) * 64 + st)

/-- IVT_INFLIGHT (Table 12.16); multicast copies are no responder transactions of R391's limit. -/
def ivtInflight (s : Stack) : Word :=
  bv 64 (reqsOpen s * 2 ^ 48 + s.router.rsps.countP (fun r => !r.multicast) * 2 ^ 32 + (sources s).length)

/-- VLT_STATUS (Table 8.6); until PROOFING has loaded the row maps no site hosts a vault. -/
def vltStatus (s : Stack) (p : Nat) : Word :=
  let v := s.vault p
  let host := if s.boot = .off ∨ s.boot = .rom ∨ s.boot = .verify ∨ s.boot = .proofing then 0
    else match siteCore s p with | some c => 256 + c | none => 0
  bv 64 (v.selfRefresh.toNat * 2 ^ 32 + v.hot.toNat * 2 ^ 24 + v.path * 2 ^ 16 + host)

/-- A power in whole watts of ten bits (log 21). -/
def watt10 (now : Nat) (x : Rat) : Nat := min 1023 (wholeUnits 21 now (max 0 x))

/-- PWR_STATUS (Table 14.9). -/
def pwrStatus (now : Nat) (s : Stack) : Word :=
  let w := s.power
  bv 64 (watt10 now w.grant * 2 ^ 54 + watt10 now (floorNow now s) * 2 ^ 44 + watt10 now w.draw * 2 ^ 34
    + watt10 now (limitNow s (tickOf s)) * 2 ^ 24 + w.idle * 256 + one w.meringue 32 + one w.grantWait 16 + w.point)

/-- THM_ALLOW (Table 14.15). -/
def thmAllow (now : Nat) (s : Stack) : Word :=
  let t := tickOf s
  let w := s.power
  bv 64 (watt10 now (allowance s 2 t w.allowStack) * 2 ^ 54 + watt10 now w.allowGov * 2 ^ 44
    + watt10 now (allowance s 0 t w.allowCompute) * 2 ^ 34 + watt10 now (allowance s 1 t w.allowDram) * 2 ^ 24)

/-- SEC_FW with STAGE as the image store has it (Table 17.10), and SEC_LEAF with RESERVING (Table 17.11). -/
def secFw (s : Stack) : Word :=
  let t := s.trust
  setFld (reg s rSecFw) 56 2 (if t.verified then 2 else if t.stage = [] then 0 else 1)
def secLeaf (s : Stack) : Word := setFld (reg s rSecLeaf) 62 1 (one s.trust.reserving.isSome 1)

/-- SEC_FW.FLASH: whether module flash holds the image that a stack runs (R549, R560); a part of an image that a write cut short has left there
fails its checks. -/
def flashState (s : State) (x : Stack) : Nat :=
  if x.trust.run = [] then 0
  else if s.mc.flashQueue ≠ [] then 1
  else if !s.mc.flashOpen ∧ s.mc.flash = x.trust.run then 0
  else if !s.mc.flashOpen && imageOk x s.mc.flash then 2
  else 3

/-- What the register at an offset of the control window of stack `i` reads as; an offset without a register reads 0 (log 7). -/
def readReg (s : State) (i : StackIx) (off : Nat) : Word :=
  let x := s.stack i
  if off = rTckStatus then tckStatus x
  else if 0x400000 ≤ off ∧ off < 0x4A8000 then
    let c := (off - 0x400000) / 0x1000
    let o := off % 0x1000
    if o = 0 then coreState (x.core c)
    else if o = 0x10 then coreImem x c
    else if o = 0x18 then coreFlags x c
    else if 0x180 ≤ o ∧ o < 0x200 then dqStat (x.core c) ((o - 0x180) / 8)
    else reg x off
  else if 0x100000 ≤ off ∧ off < 0x1B8000 ∧ off % 0x1000 = 0 then vltStatus x ((off - 0x100000) / 0x1000)
  else if 0x200000 ≤ off ∧ off < 0x2B8000 ∧ off % 0x1000 = 8 then nbuStatus x ((off - 0x200000) / 0x1000)
  else if off = rPwrStatus then pwrStatus s.now x
  else if off = rThmAllow then thmAllow s.now x
  else if off = rFltStatus then fltStatus x (admitBlock s i)
  else if 0x40040 ≤ off ∧ off < 0x400C0 then fltBlock x ((off - 0x40040) / 8)
  else if 0x400C0 ≤ off ∧ off < 0x40100 then fltRowPend x ((off - 0x400C0) / 8)
  else if 0x40100 ≤ off ∧ off < 0x40180 then fltSev x ((off - 0x40100) / 8)
  else if off = rIvtInflight then ivtInflight x
  else if off = rKveStatus then kveStatus x
  else if 0x300180 ≤ off ∧ off < 0x3001C8 then kveFree x ((off - 0x300180) / 8)
  else if off = rSecFw then setFld (secFw x) 58 2 (flashState s x)
  else if off = rSecLeaf then secLeaf x
  else if off = rBruState then setFld (reg x off) 0 3 (bootCode x.boot)
  else reg x off

/-! ### Writing (R12, R14, R15, R591) -/

/-- A field that a write changes: RW, with the values that it takes; or W1C. -/
inductive Access12
  | rw (lo w least most : Nat)
  | w1c (lo w : Nat)
  deriving DecidableEq, Repr

/-- A severity field. -/
def sevRw (lo : Nat) : Access12 := .rw lo 3 0 4

/-- The fields of a register that are not RO (the register tables of every chapter). -/
def regFields (off : Nat) : List Access12 :=
  let o := off % 0x1000
  if off % 8 ≠ 0 then []
  else if off = rTckStallLog 0 ∨ off = rTckStallLog 1 then [.w1c 63 1]
  else if 0x400000 ≤ off ∧ off < 0x4A8000 then
    if o = 8 then [.w1c 63 1]
    else if o = 0x200 ∧ off < 0x480000 then [.rw 8 8 1 255, sevRw 0]
    else if o = 0x210 ∧ off < 0x480000 then [.w1c 63 1]
    else []
  else if off = rFltPoisonSev then (List.range 6).map (fun i => sevRw (3 * i))
  else if 0x100000 ≤ off ∧ off < 0x1B8000 then (if o = 0x30 then [.w1c 63 1] else [])
  else if 0x200000 ≤ off ∧ off < 0x2B8000 then (if o = 0x18 then [.w1c 63 1] else [])
  else if off = rKveCfg then [sevRw 0]
  else if off = rKveLog then [.w1c 63 1]
  else if off = rIvtCredit then [.rw 48 16 1 0xFFFF, .rw 32 16 1 0xFFFF, .rw 0 15 1 16384]
  else if off = rIvtCfg then [.rw 48 16 1 0xFFFF, .rw 0 32 1 0xFFFFFFFF]
  else if off = rIvtMcLog then [.w1c 63 1]
  else if 0x90000 ≤ off ∧ off < 0xA0000 then
    if off % 16 = 0 then [.rw 0 64 0 (2 ^ 64 - 1)]
    else [.rw 24 40 0 (2 ^ 40 - 1), .rw 15 9 0 256, .rw 0 7 0 127]
  else if 0xA0000 ≤ off ∧ off < 0xA2000 then [.w1c 0 64]
  else if 0xC0000 ≤ off ∧ off < 0xC8000 then [.rw 0 64 0 (2 ^ 64 - 1)]
  else if off = rPwrIdle then [.rw 48 16 0 0xFFFF]
  else if off = rThmCfg then [.rw 48 16 0 0xFFFF, .rw 40 8 0 255, sevRw 0]
  else if off = rFltCfg then [sevRw 0]
  else if off = rFltRepairCfg then [.rw 16 16 0 0xFFFF, .rw 8 8 0 255, .rw 0 2 0 2]
  else if 0x40100 ≤ off ∧ off < 0x40180 then
    let n := (off - 0x40100) / 8
    (List.range 16).filterMap (fun j =>
      if sourceListed (16 * n + j) && !sourceElsewhere (16 * n + j) then some (sevRw (4 * j)) else none)
  else []

/-- One field of a word under a write of `v`; a W1C bit that the hardware has set since the cycle found the word as `d` stays 1 (R15). -/
def writeField (d v w : Word) (f : Access12) : Word :=
  match f with
  | .rw lo n least most => let x := fld v lo n; if least ≤ x ∧ x ≤ most then setFld w lo n x else w
  | .w1c lo n => w &&& ~~~(v &&& d &&& (bv 64 ((2 ^ n - 1) * 2 ^ lo)))

/-- The register at an offset written, in a cycle that found it as `d`: every other field stays. -/
def writeReg (s : Stack) (off : Nat) (d v : Word) : Stack := setReg s off ((regFields off).foldl (writeField d v) (reg s off))

/-- What a register held when the cycle began, for a write to it, without the bits of IVT_LOST that the hardware has set again in this
cycle: a write that overlaps such a set does not clear them (R15). The other W1C bits are the VALID of a log, which the hardware sets only
where it reads 0. -/
def writeDawn (s : State) (i : StackIx) (off : Nat) : Word :=
  (s.stack i).router.lostNow.foldl (fun w e =>
    if e.1 = s.now ∧ rIvtLost (e.2 / 64) = off then w &&& ~~~(1#64 <<< (e.2 % 64)) else w) (tget resetValue (s.dawn.get i) off)

/-- A register write at a stack that is powered; a change of FLT_CFG.THRESHOLD acts on FAULT_L (R524). -/
def registerWrite (s : State) (i : StackIx) (off : Nat) (v : Word) : State :=
  if (s.stack i).boot = .off then s
  else
    let s := s.onStack i (fun x => writeReg x off (writeDawn s i off) v)
    if off = rFltCfg then updateFaultL s else s

end Sys2Proof.Machine
end

