-- ==== Sys2Proof/Machine/Fabric.lean ====
section
/-! DEFINITION. The router at work (12_ivton_fabric.md): slots, acknowledgements and credits of a link, link loss and node loss, packets
accepted, answered and forwarded. -/

namespace Sys2Proof.Machine
open Sys2Proof

/-! ### Links (R373-R376, R380, Table 12.4) -/

/-- The slots of a link's receive buffers by class. -/
def bufferSlots (l : Nat) : List Nat := if l < 4 then [1024, 1024, 256, 512] else [256, 256, 64, 128]

/-- The alignment of a link that training found. -/
def alignOf (s : Stack) (l : Nat) : LinkAlign := (tfind s.router.aligns l).getD ⟨0, [], none⟩

/-- The stack whose packets that wait on other links no longer stand in the receive buffers of link `l`: it is lost, or trains again. -/
def forgetFrom (s : Stack) (l : Nat) : Stack :=
  { s with router := { s.router with links := s.router.links.map (fun e =>
      (e.1, { e.2 with waiting := e.2.waiting.map (fun w => if w.from_ = l then { w with from_ := 8 } else w) })) } }

/-- A link as training leaves it (R373, R374, R378, R380, R382, R412). -/
def trainLink (now : Nat) (s : Stack) (l : Nat) (x : LinkTrain) : Stack :=
  let st := if !x.up then 3 else if l < 4 ∧ !portsLicensed s then 4 else 2
  let w := reg s (rIvtLink l)
  let w := if l < 4 ∧ x.up then setFld (setFld (setFld w 16 8 x.lanes.toNat) 6 1 (one x.precode 1)) 4 2 x.reach.toNat
    else setFld (setFld (setFld w 16 8 0) 6 1 0) 4 2 0
  let s := setReg s (rIvtLink l) (setFld w 0 3 st)
  let s := { s with router := { s.router with aligns := tput s.router.aligns l x.align } }
  (forgetFrom s l).setLink l { Link.reset with credits := if st = 2 then bufferSlots l else [0, 0, 0, 0], lastAck := now }

/-- Whether a link's control slots run: UP or CONTROL_ONLY. -/
def linkRuns (s : Stack) (l : Nat) : Bool := decide (linkState s l = 2 ∨ linkState s l = 4)

/-! ### Packets that no link can carry (R369) -/

/-- A packet for another node that stands at a router which cannot send it on. -/
def undeliverable (now : Nat) (s : Stack) (link : Nat) (e : Egress) (k : Packet) : Stack :=
  if pktIsRequest k.ty then
    if k.src = nodeId s then s else (txPacket now s (errPacket s k stNodeLost 0)).2
  else
    let s := discardPacket s e
    if k.ty = .cmd ∧ k.addr = 0 then
      let c := cmdOfBytes k.src link k.tag now k.data
      (txPacket now s { ty := .cmdRpl, tag := k.tag, src := nodeId s, dst := k.src,
                        data := replyBytes now (BitVec.allOnes 64) c stNodeLost [] [] false }).2
    else s

/-- A packet for another node: HOPS lowered, sent on, or discarded, or answered (R365, R368-R370). It stands in the receive buffer of link `l` until
it leaves (R374). -/
def forwardPacket (now : Nat) (s : Stack) (l : Nat) (k : Packet) : Stack :=
  if nodeId s = 0xFFFF then freeSlots s l k
  else if k.hops = 0 then
    raise (setReg (freeSlots s l k) rIvtHopsCnt (addSat (reg s rIvtHopsCnt) 0 32 1)) { source := fIvtHops, addr := haRouter }
  else
    let k := { k with hops := k.hops - 1 }
    match egressOf s k.dst with
    | .link m => if linkUp s m then sendWaiting now s m ⟨k, l, none⟩ else undeliverable now (freeSlots s l k) l (.link m) k
    | e => undeliverable now (freeSlots s l k) l e k

/-! ### Node and link loss (R383, R403, R404) -/

/-- The responses to node `d` that wait on a link discarded: their transactions are over (R391, R404). -/
def dropResponses (d : Nat) (s : Stack) (l : Nat) : Stack :=
  let x := s.link l
  let out := fun (w : Waiting) => w.rsp.isSome && decide (w.pkt.dst = d)
  (x.waiting.filter out).foldl leave (s.setLink l { x with waiting := x.waiting.filter (fun w => !out w) })

/-- Node `d` is lost (R404): the requests from it in progress here are still performed, in their order, and their responses discarded, those too that
wait for credit. -/
def nodeDown (now : Nat) (s : Stack) (d : Nat) : Stack :=
  if !nodeUsable d ∨ d = nodeId s then s
  else
    let s := failTxns s stNodeLost (fun t => decide (t.pkt.dst = d))
    let s := setReg s (rIvtLost (d / 64)) (reg s (rIvtLost (d / 64)) ||| (1#64 <<< (d % 64)))
    let s := { s with router := { s.router with
      lostNow := (now, d) :: s.router.lostNow.filter (fun e => decide (e.1 = now))
      rsps := s.router.rsps.map (fun r => if r.pkt.src = d ∧ !r.performed then { r with discard := true } else r) } }
    let s := (List.range 8).foldl (dropResponses d) s
    let s := (List.range 8).foldl (fun s l =>
      if partnerOf s l ≠ some d then s
      else
        let x := s.link l
        dropBranch now (s.setLink l { x with branch := [] }) l false x.branch) s
    edgeLost now s d

/-- A link declared lost. -/
def linkLost (now : Nat) (s : Stack) (l : Nat) : Stack :=
  if !linkRuns s l then s
  else
    let s := sendLinkDown now s l
    let s := setReg s (rIvtLink l) (setFld (reg s (rIvtLink l)) 0 3 3)
    let s := setReg s (rIvtLinkCnt l) (addSat (reg s (rIvtLinkCnt l)) 0 16 1)
    let s := raise s { source := fIvtLinkDown, addr := haLink l }
    let s := failTxns s stNodeLost (fun t => decide (t.link = l))
    let x := s.link l
    let s := (forgetFrom s l).setLink l Link.reset
    let s := x.waiting.foldl (fun s w => undeliverable now (leave s w) 8 (.link l) w.pkt) s
    let s := dropBranch now s l true x.branch
    match partnerOf s l with
    | none => s
    | some d =>
      let s := nodeDown now s d
      if l < 4 then s
      else (bridgeLinks s).foldl (fun s m =>
        if m = l then s
        else match partnerOf s m with
          | some o => (txPacket now s { ty := .nodeDown, src := nodeId s, dst := o, data := natBytes 2 d }).2
          | none => s) s

/-! ### Slots (R376-R379, R382) -/

/-- A codeword that a port receives, decoded: its message bits, whether they are right, symbols corrected; an uncorrectable one gives the bits as
they came. -/
def portWord (a : LinkAlign) (lanes : List (List (BitVec 10))) (i : Nat) : Nat × Bool × Nat :=
  match gatherLanes (a.start + 68 * i) a.skew lanes with
  | none => (0, false, 0)
  | some r =>
    match fecDecode r with
    | some (w, n) => (messageBits w, true, n)
    | none => (messageBits r, false, 0)

/-- IVT_LINK_CNTn.FEC_CORRECTED counts each codeword of link `l` with corrected symbols once; `j` is the number of the codeword. -/
def countCorrected (s : Stack) (l j n : Nat) : Stack :=
  let x := s.link l
  if j < x.words then s
  else
    let s := s.setLink l { x with words := j + 1 }
    if n = 0 then s else setReg s (rIvtLinkCnt l) (addSat (reg s (rIvtLinkCnt l)) 32 32 1)

/-- The bits of slot `n` of port `l`, whether they pass, and the counts of the codewords that it touches (R378, R379): an uncorrectable one fails
it. Parity is regenerated after decoding, so it has nothing more to find. -/
def portSlot (s : Stack) (l n : Nat) (lanes : List (List (BitVec 10))) : BitVec 256 × Bool × Stack :=
  let a := alignOf s l
  let o := 256 * n % fecBits
  let j := 256 * n / fecBits
  let w := portWord a lanes 0
  let s := countCorrected s l j w.2.2
  if o + 256 ≤ fecBits then (bv 256 (w.1 / 2 ^ o), w.2.1, s)
  else
    let v := portWord a lanes 1
    (bv 256 ((w.1 % 2 ^ fecBits + v.1 * 2 ^ fecBits) / 2 ^ o), w.2.1 && v.2.1, countCorrected s l (j + 1) v.2.2)

/-- The bits of a slot that link `l` receives, whether they pass, and the poison signal of a bridge (R277, R379, R382). A port brings no beat and a
bridge no lanes: signals of the other kind do not pass. -/
def slotBits (s : Stack) (l : Nat) (x : WireSlot) : BitVec 256 × Bool × Option Bool × Stack :=
  match x.carried with
  | .beat b p q => (b, decide (4 ≤ l ∧ slotParity b = p), some q, s)
  | .lanes w => if l < 4 then (let (b, ok, s) := portSlot s l x.n w; (b, ok, none, s)) else (0, false, none, s)

/-- IVT_LINK_FAULT at link `l`, counted in IVT_LINK_CNTn. -/
def linkFault (s : Stack) (l : Nat) (injected : Bool) : Stack :=
  raise (setReg s (rIvtLinkCnt l) (addSat (reg s (rIvtLinkCnt l)) 16 16 1)) { source := fIvtLinkFault, addr := haLink l, injected := injected }

/-- A header slot taken: a packet without payload is whole, one with payload waits for its slots. A slot of TYPE 0 carries no packet (log 101). -/
def headSlot (s : Stack) (l : Nat) (b : BitVec 256) : Stack :=
  let x := s.link l
  let ws := slotWords b
  let n := fld (ws.getD 0 0) 32 10
  let k := headerPacket ws
  if fld (ws.getD 0 0) 59 5 = 0 then s
  else if n = 0 then s.setLink l { x with inbox := x.inbox ++ k.toList }
  else s.setLink l { x with asm := some ⟨k, 0, n, [], 0⟩ }

/-- A payload slot taken into the packet that link `l` receives: `bad` marks its word. The word is poisoned too where the bridge's poison signal and
the POISON field of the header disagree, which IVT_LINK_FAULT reports (R382). After the last slot the packet is whole. -/
def bodySlot (s : Stack) (l : Nat) (a : Assembly) (b : BitVec 256) (bad : Bool) (signal : Option Bool) : Stack :=
  let said := (a.head.map (fun k => k.poison.getLsbD a.got)).getD false
  let clash := !bad && signal.any (fun q => decide (q ≠ said))
  let s := if clash then linkFault s l false else s
  let x := s.link l
  let a := { a with
    got := a.got + 1
    body := a.body ++ natBytes 32 b.toNat
    marks := a.marks ||| (if bad || clash then 1#16 <<< a.got else 0) }
  if 32 * a.got < a.left then s.setLink l { x with asm := some a }
  else s.setLink l { x with
    asm := none
    inbox := x.inbox ++ (a.head.map (fun k => { k with poison := k.poison ||| a.marks, data := a.body.take a.left })).toList }

/-- The awaited slot accepted and acknowledged. -/
def acceptSlot (s : Stack) (l n : Nat) (b : BitVec 256) (bad : Bool) (signal : Option Bool) : Stack :=
  let x := s.link l
  let s := s.setLink l { x with rxSeq := (x.rxSeq + 1) % 2 ^ 24, rxSlot := n + 1, fails := 0 }
  let s := match x.asm with
    | none => headSlot s l b
    | some a => bodySlot s l a b bad signal
  sendSymbol s l 2 (bv 64 x.rxSeq)

/-- DATA_SLOT_RECEIVE: the awaited slot is taken and acknowledged; one in error is refused with NAK, until its fourth failure, after which a payload
slot is accepted with its word marked poisoned and a header slot takes the link down. Every later slot is discarded until the awaited one comes.
A slot whose number is that of a link-control slot is no data slot. The codewords of discarded slots are counted too (R413). -/
def slotReceive (now : Nat) (s : Stack) (l : Nat) (x : WireSlot) : Stack :=
  let k := s.link l
  if !linkUp s l ∨ x.n % 48 = 47 then s
  else if x.seq.toNat ≠ k.rxSeq then (slotBits s l x).2.2.2
  else
    let (inj, s) := takeInject s (haLink l) 0
    let (b, good, signal, s) := slotBits s l x
    if good && !inj then acceptSlot s l x.n b false signal
    else if k.fails < 3 then sendSymbol (s.setLink l { s.link l with fails := k.fails + 1, rxSlot := x.n + 1 }) l 3 (bv 64 k.rxSeq)
    else if k.asm.isNone then linkLost now s l
    else acceptSlot (linkFault s l inj) l x.n b true signal

/-- ACK: every slot up to the one named leaves the retry buffer. -/
def ackReceive (now : Nat) (s : Stack) (l seq : Nat) : Stack :=
  let x := s.link l
  if !linkUp s l ∨ !x.retry.any (fun e => decide (e.seq = seq)) then s
  else
    let n := x.retry.findIdx (fun e => e.seq = seq)
    drainLink now (s.setLink l { x with retry := x.retry.drop (n + 1), lastAck := now }) l

/-- NAK: the slots from the one named on are sent again, in order, up to one that has been sent four times. -/
def nakReceive (now : Nat) (s : Stack) (l seq : Nat) : Stack :=
  let x := s.link l
  if !linkUp s l ∨ !x.retry.any (fun e => decide (e.seq = seq)) then s
  else
    let n := x.retry.findIdx (fun e => e.seq = seq)
    let again := (x.retry.drop n).takeWhile (fun e => decide (e.sends < 4))
    if again = [] then s
    else
      let s := s.setLink l { x with
        retry := x.retry.take n ++ again.map (fun e => { e with at_ := now, sends := e.sends + 1 }) ++ x.retry.drop (n + again.length) }
      let s := again.foldl (fun s e => dataSlot { s with sent := .slot l e.seq e.bits :: s.sent } l e.bits e.parity) s
      let s := setReg s (rIvtLink l) (addSat (reg s (rIvtLink l)) 32 32 again.length)
      raise s { source := fIvtReplay, addr := haLink l }

/-- CREDIT: the slots freed since the last one of the class come back. -/
def creditReceive (now : Nat) (s : Stack) (l c freed : Nat) : Stack :=
  if !linkUp s l then s
  else
    let x := s.link l
    let new := (freed + 65536 - x.seen.getD c 0) % 65536
    drainLink now (s.setLink l { x with credits := x.credits.set c (x.credits.getD c 0 + new), seen := x.seen.set c freed }) l

/-- MC_TIMEOUT: the oldest copy of a branch is dropped (R396). -/
def mcTimeout (now : Nat) (s : Stack) (l : Nat) : Stack :=
  let x := s.link l
  match x.branch with
  | [] => s
  | (k, _) :: rest =>
    let s := s.setLink l { x with branch := rest }
    match (groupEgress s k.dst).find? (fun e => e.1 = l) with
    | some e => mcDropTo now s k e.2.1 e.2.2
    | none => s

/-! ### Requests (R385, R386, R391-R394, R405, R461, R470, R530) -/

/-- Whether the router is to turn requests of other nodes away: in a base non-transit reset or a stack reset, while the partition is
DISABLING, and in a coolant stop's hold. -/
def routerHolds (s : Stack) : Bool :=
  s.power.coolantHold || decide (s.pstate = .disabling) || (match s.resetting with | some r => decide (r.domain = 1 ∨ r.domain = 2) | none => false)

/-- Whether an address lies with a core that migrates (R530, R531). -/
def atMigrating (s : Stack) (a : Nat) : Bool :=
  match migrating s with
  | none => false
  | some c => match place a with | .vault v _ => decide (v = c) | .window d _ => decide (d = c) | _ => false

/-- Whether a request breaks R11, R367, R385 or R386. -/
def requestBad (s : Stack) (k : Packet) : Bool :=
  let o := k.addr % 512
  let ctl := match place k.addr with | .control _ => true | _ => false
  match k.ty with
  | .rd => decide (k.addr % 8 ≠ 0 ∨ k.rlen % 8 ≠ 0 ∨ k.rlen < 8 ∨ 512 < o + k.rlen)
      || (if ctl then decide (k.rlen ≠ 8) else localRejected s k.addr .read)
  | .wr => decide (k.addr % 8 ≠ 0 ∨ k.data.length % 8 ≠ 0 ∨ k.data.length < 8 ∨ 512 < o + k.data.length)
      || (if ctl then decide (k.data.length ≠ 8) else localRejected s k.addr .write)
  | .wrm => ctl || localRejected s k.addr .write || decide (k.data.length < 96)
      || decide (k.data.length ≠ 64 + 32 * (maskedWords (packetMask k)).length ∨ 14 < (maskedWords (packetMask k)).length)
  | .atom => ctl || decide (k.addr % 8 ≠ 0 ∨ 4 < k.atype ∨ k.data.length ≠ 16) || localRejected s k.addr .atomic
  | _ => true

/-- A request answered RETRY_LATER with a back-off, during which later ones of its source are refused too (R393). -/
def retryLater (now : Nat) (s : Stack) (k : Packet) (b : Nat) : Stack :=
  let s := noteBackoff now s k.src b
  (txPacket now s (errPacket s k stRetryLater b)).2

/-- A request of another node at the router: refused, answered ADDR_INVALID, or accepted as a responder transaction. -/
def requestArrive (now : Nat) (s : Stack) (l : Nat) (k : Packet) : Stack :=
  let hold := fld (reg s rIvtCredit) 48 16
  if routerHolds s then retryLater now s k hold
  else if s.power.idle = 2 then
    let s := wake now s
    let left := match s.power.exitEnd with | some t => (t - now) / cycles8ns | none => 0
    retryLater now s k (min 0xFFFF left)
  else
    let s := wake now s
    if atMigrating s k.addr then retryLater now s k hold
    else if s.router.backoff.any (fun e => decide (e.1 = k.src ∧ now < e.2)) then retryLater now s k (creditBackoff s)
    else if rspsFrom s k.src ≥ fld (reg s rIvtCredit) 0 15 ∨ (s.router.rsps.filter (fun r => !r.multicast)).length ≥ maxRsps
        ∨ (rspsFrom s k.src = 0 ∧ (sources s).length ≥ maxSources) then retryLater now s k (creditBackoff s)
    else if requestBad s k then (txPacket now s (errPacket s k stAddrInvalid 0)).2
    else openRsp s k l false

/-! ### Responses (R387, R389, R390, R228) -/

/-- The transaction that a response belongs to: none for a freed tag. -/
def openTag (s : Stack) (tag : Nat) : Option Txn :=
  match tfind s.router.tags tag with
  | some x => (match x.state with | .timedOut _ => none | _ => if x.pkt.ty = .mcWr then none else some x)
  | none => none

/-- A response lands: its transaction completes and its tag is free. In a base non-transit reset responses are discarded (R405). -/
def responseArrive (s : Stack) (k : Packet) (p : Txn → PartAnswer) : Stack :=
  if columnsHeld s then s
  else
    match openTag s k.tag with
    | none => s
    | some x =>
      let s := { s with router := { s.router with tags := tdel s.router.tags k.tag } }
      answerCore s x.for_.core x.for_.req x.for_.sub (p x)

/-- The line that the payload of a read response is, placed by its address. -/
def rspLine (k : Packet) : Line := packetWriteLine k

/-- The old value that an ATOM_RSP carries, with its poison. -/
def rspOld (k : Packet) : Word × Bool := (word64At k.data 0, k.poison.getLsbD 0)

/-- ERR_RSP: RETRY_LATER makes the transaction wait for its back-off; every other status completes it. -/
def errArrive (now : Nat) (s : Stack) (k : Packet) : Stack :=
  if k.status = stRetryLater then
    if columnsHeld s then s
    else
      match openTag s k.tag with
      | none => s
      | some x =>
        let x := { x with state := .refused (now + backoffCycles k.backoff) }
        { s with router := { s.router with tags := tput s.router.tags k.tag x } }
  else responseArrive s k (fun _ => .error k.status)

/-- REQ_TIMEOUT (R390, R398). -/
def reqTimeout (now : Nat) (s : Stack) (tag : Nat) : Stack :=
  if s.router.mcs.any (fun m => decide (m.tag = tag)) then mcCover s tag 0 255 true
  else
    match openTag s tag with
    | none => s
    | some x =>
      let s := { s with router := { s.router with tags := tput s.router.tags tag { x with state := .timedOut now } } }
      raise (answerCore s x.for_.core x.for_.req x.for_.sub (.error stNodeLost)) { source := fIvtTimeout, addr := haRouter }

/-- TAG_REUSE (R390). -/
def tagReuse (s : Stack) (tag : Nat) : Stack :=
  match tfind s.router.tags tag with
  | some x => (match x.state with
    | .timedOut _ => { s with router := { s.router with tags := tdel s.router.tags tag } }
    | _ => s)
  | none => s

/-- The node IDs of a NODE_DOWN packet. -/
def downNodes (k : Packet) : List Nat := (List.range (k.data.length / 2)).map (fun i => bytesNat ((k.data.drop (2 * i)).take 2))

/-! ### The control window over Ivton (R11, R391) -/

/-- A control-window access of a responder transaction that has started: performed and answered. -/
def controlAccess (s : State) (i : StackIx) (a : Access) : State :=
  match place a.addr with
  | .control _ =>
    match a.origin with
    | .packet id =>
      let x := s.stack i
      let x := { x with entering := x.entering.filter (fun b => decide (b.id ≠ a.id)) }
      let s := s.setStack i x
      match x.router.rsps.find? (fun r => r.id = id) with
      | none => s
      | some r =>
        let off := r.pkt.addr % 0x1000000
        let v := readReg s i off
        let s := if r.pkt.ty = .wr then registerWrite s i off (word64At r.pkt.data 0) else s
        let o := r.pkt.addr % 512
        s.onStack i (fun y => answerPacket s.now y id { a with result := ⟨(v.setWidth 4096) <<< (8 * o), 0⟩ })
    | _ => s
  | _ => s

/-- Every control-window access that stands at the router performed, oldest first. -/
def settleControl (s : State) (i : StackIx) : State :=
  ((s.stack i).entering.filter (fun a => match place a.addr with | .control _ => true | _ => false)).foldl (fun s a => controlAccess s i a) s

end Sys2Proof.Machine
end

