-- ==== Sys2Proof/Machine/Reset.lean ====
section
/-! DEFINITION. Reset domains and the loss of power (R13, R17, R22, R191, R194, R279, R405, R433, R462, R499-R502, R507, R545). -/

namespace Sys2Proof.Machine
open Sys2Proof

/-! ### Registers by domain (R17) -/

/-- The transit, compute and cache-die registers of the control window; the rest is of the base non-transit domain. -/
def inTransit (off : Nat) : Bool := decide (0x80000 ≤ off ∧ off < 0x100000)
def inCompute (off : Nat) : Bool := decide (0x400000 ≤ off ∧ off < 0x500000)
def inCache (off : Nat) : Bool := decide (0x300000 ≤ off ∧ off < 0x400000)

/-- The sticky bits of a register (the Sticky columns of the register tables). -/
def stickyMask (off : Nat) : Word :=
  let all := BitVec.allOnes 64
  let o := off % 0x1000
  if off = rTckStallLog 0 ∨ off = rTckStallLog 1 then all
  else if inCompute off then (if o = 8 ∨ o = 0x210 then all else 0)
  else if 0x100000 ≤ off ∧ off < 0x200000 then
    (if o = 0x20 then 0x7FC000#64 else if o = 0x28 ∨ o = 0x30 ∨ 0x800 ≤ o then all else 0)
  else if 0x200000 ≤ off ∧ off < 0x300000 then (if o = 0 ∨ o = 0x18 then all else 0)
  else if inCache off then (if off = rKveCfg ∨ off = rKveStatus ∨ off = rKveCount ∨ 0x300180 ≤ off then 0 else all)
  else if off = rPwrLimit ∨ (0x20800 ≤ off ∧ off < 0x21000) then all
  else if off = rBruReset then all
  else if 0x40000 ≤ off ∧ off < 0x40180 then all
  else if off = rSecFuse then 0x8000000000000000#64
  else 0

/-- The registers of a domain reset: fields that are not sticky take their reset values. -/
def resetRegs (dom : Nat → Bool) (s : Stack) : Stack :=
  { s with regs := s.regs.foldl (fun t e =>
      if dom e.1 then
        let m := stickyMask e.1
        tset resetValue t e.1 ((e.2 &&& m) ||| (resetValue e.1 &&& ~~~m))
      else t) s.regs }

/-- The base non-transit registers that a base reset alone sets back: those of the vault controllers, near-bank units, power and heat,
poison severities and bring-up, and TCK_OVERRUN. Nobody reads a register in the reset, and firmware has loaded those of the identity and security
blocks, and of the tick block what the job in force goes on with, before service resumes (R405, R501; DEDUCED, log 28). -/
def inBaseOnly (off : Nat) : Bool :=
  decide (off = rTckOverrun) || decide (0x20000 ≤ off ∧ off < 0x50000) || decide (0x100000 ≤ off ∧ off < 0x300000) || decide (0x700000 ≤ off ∧ off < 0x701000)

/-- BRU_RESET for a reset of the cause given (R511). -/
def bumpReset (s : Stack) (cause : Nat) : Stack :=
  setReg s rBruReset (setFld (addSat (reg s rBruReset) 32 32 1) 0 8 cause)

/-- Whether the unit at hierarchy address `u` lies in reset domain `d` of Table 15.6 (R38): the base die but its transit block, the transit
block, the compute die; a stack reset has them all but transit, and the cache die. A DRAM tile lies in none of them (log 38). -/
def unitIn (d u : Nat) : Bool :=
  let base := decide (u < 0x1000 ∧ u / 256 ≠ 8)
  match d with
  | 1 => base || decide (0x9000 ≤ u)
  | 2 => base
  | 3 => decide (u / 256 = 8)
  | 4 => decide (0xA000 ≤ u)
  | _ => false

/-- The injections that wait at the units named cancelled (R526). -/
def cancelInjects (p : Nat → Bool) (s : Stack) : Stack := { s with inject := s.inject.filter (fun e => !p (e.1 / 16)) }

/-! ### What a reset cuts short -/

/-- Every command accepted and not answered answered ABORTED (R501). -/
def abortAccepted (now : Nat) (s : Stack) : Stack :=
  let cs := heldCmds s
  let s := { s with port := Port.reset, kv := { s.kv with waiting := [] } }
  cs.foldl (fun s c => sendReply now s c (replyBytes now (actTick s) c stAborted [] [] false)) s

/-- Every responder transaction but multicast copies and those that only wait to send their response answered RETRY_LATER with HOLD_BACKOFF (R405). -/
def refuseAll (now : Nat) (s : Stack) : Stack :=
  let hold := fld (reg s rIvtCredit) 48 16
  let rs := s.router.rsps.filter (fun r => !r.multicast && !r.performed && !r.discard)
  let s := { s with router := { s.router with rsps := s.router.rsps.filter (fun r => r.multicast || r.performed) } }
  rs.foldl (fun s r => retryLater now s r.pkt hold) s

/-- An access cut short in a column: a load lands poisoned, a store that was performed stands, any other store is counted as not
performed, of the KV engine too, which makes it again after the reset (R502; log 42); a request of another node that was not performed is refused, a
multicast copy waits; stack firmware has answered its command. `done` says that it was performed. -/
def cutAccess (now : Nat) (acc : Bool × Stack) (x : Access × Bool) : Bool × Stack :=
  let (lost, s) := acc
  let (a, done) := x
  match a.origin with
  | .core c req sub =>
    match a.kind with
    | .read => (lost, answerCore s c req sub (.line Line.lost))
    | .atomic .. => (lost || !done, answerCore s c req sub (.old 0 true))
    | _ => (lost || !done, answerCore s c req sub .ack)
  | .packet id =>
    if done && accessWrites a then (lost, answerAccess now s a)
    else
      match s.router.rsps.find? (fun r => r.id = id) with
      | some r => if r.multicast then (lost, { s with entering := s.entering ++ [{ a with arrived := 0, granted := 0 }] }) else (lost, s)
      | none => (lost, s)
  | .nbu _ _ => (lost, s)
  | .firmware _ _ => (lost, s)
  | .kv _ =>
    if !accessWrites a then (lost, answerKv s { a with result := Line.lost })
    else if done then (lost, answerKv s a)
    else (true, { s with kv := { s.kv with asked := s.kv.asked.filter (fun k => decide (k.id ≠ a.id)) } })

/-- A requester transaction cut short (R501). -/
def cutTxn (acc : Bool × Stack) (e : Nat × Txn) : Bool × Stack :=
  let (lost, s) := acc
  let x := e.2
  match x.state with
  | .timedOut _ => (lost, s)
  | _ =>
    let s := { s with router := { s.router with tags := tdel s.router.tags e.1 } }
    let p : PartAnswer := match x.pkt.ty with | .rd => .line Line.lost | .atom => .old 0 true | _ => .ack
    (lost || decide (x.pkt.ty ≠ .rd), answerCore s x.for_.core x.for_.req x.for_.sub p)

/-- Column transfers and Ivton transactions of the stack complete as ABORTED (R501); the flag says that a store was not performed. -/
def cutAll (now : Nat) (s : Stack) : Bool × Stack :=
  let cols := s.vaults.flatMap (fun e =>
    (e.2.flight.filter (fun a => !isNbu a)).map (fun a => (a, true)) ++ (e.2.top ++ e.2.base).map (fun a => (a, false)))
  let tops := s.topside.map (fun a => (a, a.done))
  let ids := s.topside.map (fun a => a.id)
  let s := { s with
    vaults := s.vaults.map (fun e => (e.1, { e.2 with
      busy := [], top := [], base := [], nbu := [], firm := [], slots := [], flight := [], rmw := [], owed := [], lastGrant := none, lastWrite := none, replays := [] }))
    slices := s.slices.map (fun e => (e.1, e.2.filter (fun a => !ids.contains a.id)))
    subbanks := s.subbanks.map (fun e => (e.1, e.2.filter (fun o => match o with | .ivton _ _ => false | _ => true)))
    topside := []
    entering := s.entering.filter (fun a => match a.origin with
      | .packet id => s.router.rsps.any (fun r => decide (r.id = id) && r.multicast)
      | _ => true) }
  let (lost, s) := (cols ++ tops).foldl (cutAccess now) (false, s)
  let s := refuseAll now s
  let (lost, s) := s.router.tags.foldl cutTxn (lost, s)
  (lost, { s with router := { s.router with mcs := [] } })

/-- Burns that stack firmware begins again after a reset: failed sites are still pending. -/
def siteBurns (l : List Burn) : List Burn := l.filter (fun b => match b with | .site _ => true | _ => false)

/-- The physical row that holds line `l` of a vault at site `p` (R264, R281): a repaired row lies in its spare, the last taken where it has
had several (log 81). -/
def physRow (s : Stack) (p l : Nat) : Nat :=
  let r := rowRepair (l * 512)
  let soft := (softEntries s p).filter (fun w => decide (fld w 62 2 = 2 ∧ fld w 45 3 = r.layer ∧ fld w 41 4 = r.bank ∧ fld w 27 14 = r.row))
  let fuses := (s.vault p).fuses.filter (fun f => !f.group && decide (f.layer = r.layer ∧ f.bank = r.bank ∧ f.row = r.row))
  (soft.map (fun w => 12288 + fld w 0 5) ++ fuses.map (fun (f : Repair) => 12288 + f.spare)).foldl max r.row

/-- The words of line `l` of vault `v` under the other tag: the check value that stands there is read as the region's tag has it (R267,
R269). -/
def misreadLine (s : Stack) (v l : Nat) : Stack :=
  { s with marks := (List.range 16).foldl (fun t w =>
      let a := vaultLine v l + 32 * w
      let d := bv 256 (leNat (fun i => readByte s.mem (a + i)) 32)
      let c := check d (locTag (lineLayer l) (lineBank l) (physRow s (coreSite s v) l) w) false
      tset (fun _ => 0) t (a / 32) (markOf s (a / 32) ^^^ c)) s.marks }

/-- Scrubs and re-encodings cut short: a region keeps its tag, and its lines that had been re-encoded are read under it (log 30). -/
def dropTiles (s : Stack) : Stack :=
  let done := s.tiles.flatMap (fun t => if t.retag.isSome then t.left.map (fun e => (e.1, e.2.1)) else [])
  let s := { s with tiles := [] }
  done.foldl (fun s e => (List.range (e.2 % 131072)).foldl (fun s i => misreadLine s e.1 (e.2 / 131072 * 131072 + i)) s) s

/-! ### Base non-transit reset (R501, R502) -/

/-- The power controller as a base non-transit reset leaves it (log 28). -/
def basePower (w : Power) : Power :=
  { Power.reset with
    cap := w.cap, capNext := w.capNext, point := w.point, target := w.target, change := w.change, stopped := w.stopped,
    idle := w.idle, exitEnd := w.exitEnd, coolantStop := w.coolantStop, coolantHold := w.coolantHold, fixed := w.fixed }

/-- A base non-transit reset is asserted. -/
def baseReset (now : Nat) (s : Stack) (cause : Nat) : Stack :=
  let (lost, s) := cutAll now (abortAccepted now s)
  let runs := (s.router.coll.filter (fun r => r.started)).map (fun r => (r.entry, r.tick))
  let hold := jobOn s && !s.tick.hold
  let new : ResetRun := { domain := 2, core := 0, since := now, cmd := none, lost := lost, runs := runs, resume := s.boot,
                          state := reg s rBruState, held := hold }
  let run := match s.resetting with
    | some x => if x.domain = 2 then { x with since := now, lost := x.lost || lost } else new
    | none => new
  let s := selfRefreshAll now s true
  let s := dropTiles s
  let s := { s with
    resetting := some run
    boot := .rom
    nbus := s.nbus.map (fun e => (e.1, { e.2 with ran := false }))
    tick := { s.tick with hold := s.tick.hold || hold }
    bulk := []
    commit := none
    burns := siteBurns s.burns
    trust := { s.trust with fetch := none, reserving := none, installing := none, trees := [] }
    power := basePower s.power }
  bumpReset (resetRegs inBaseOnly (cancelInjects (unitIn 2) s)) cause

/-- A collective entry that the reset cut short: sent on with every word of the member's lines poisoned where BASE_ABORT is below JOB, else
abandoned (R502). -/
def resumeColl (now : Nat) (below : Bool) (s : Stack) (x : Nat × Nat) : Stack :=
  match findRun s x.1 x.2, s.tick.entries[x.1]? with
  | some r, some e =>
    if r.up then s
    else if below then collAdvance now (putRun s { r with own := List.replicate (collN e) Line.lost }) e x.1 x.2
    else dropRun s x.1 x.2
  | _, _ => s

/-- A near-bank unit after the reset: an entry cut short raises NBU_ABORT and the next one goes on; a parameter line that was being read
is read again; of an NBU_RUN, which has answered ABORTED, the entry cut short raises NBU_ABORT too (R324, R325). -/
def resumeNbu (now : Nat) (s : Stack) (v : Nat) : Stack :=
  match (s.nbu v).run with
  | none => s
  | some r =>
    if r.cmd.isSome then
      let s := if r.job.isSome then nbuFault s (coreSite s v) v 3 fNbuAbort 0 0 else s
      nbuNext now (s.setNbu v { s.nbu v with run := some { r with cmd := none, todo := r.todo.take 1 } }) v false
    else
      match r.job with
      | some _ => nbuNext now (nbuFault s (coreSite s v) v 3 fNbuAbort 0 0) v false
      | none => if r.params.isNone then nbuBegin now s v r else s

/-- The end of a base non-transit reset: service resumes, held requests are released, tick hold ends; it goes on for coil tests that are due
(R533). -/
def baseResetEnd (now : Nat) (s : Stack) : Stack :=
  match s.resetting with
  | none => s
  | some r =>
    if r.domain ≠ 2 then s
    else
      let s := loadGeometry { s with resetting := none, boot := r.resume }
      let s := if r.resume = .held then setReg s rBruState (setFld (setFld (reg s rBruState) 20 4 (fld r.state 20 4)) 8 6 (fld r.state 8 6)) else s
      let s := if s.power.idle = 2 ∨ s.power.coolantHold then s else selfRefreshAll now s false
      let bad := r.lost || decide (r.runs ≠ [])
      let below := decide (sevField s fBaseAbort < sevJob)
      let s := if bad then raise s { source := fBaseAbort, addr := haController } else s
      let s := r.runs.foldl (resumeColl now below) s
      let s := (List.range 168).foldl (resumeNbu now) s
      if !r.held then s
      else if testsDue s && atBoundary s then { s with tick := { s.tick with testHold := true } }
      else endHold now s

/-! ### Core and compute-die resets (R194, R499) -/

/-- The job of a member ends at once under R70. -/
def endNow (now : Nat) (s : Stack) (source : Nat) : Stack :=
  let s := abortJob now s none source
  if jobOn s then endMember now s else s

/-- Core `c` reset: valid bits kept; RUNNING, it counts as a JOB fault of the core. -/
def coreReset (now : Nat) (s : Stack) (c : Nat) : Stack :=
  let k := s.core c
  let s := s.setCore c { Core.reset with valid := k.valid, image := k.image }
  let s := if coreKind c = .s then s.setRow (coreRow c) { s.row (coreRow c) with flags := 0, flagOps := [], flagTest := none } else s
  let s := resetRegs (fun o => decide (rCore c 0 ≤ o ∧ o < rCore (c + 1) 0)) (cancelInjects (fun u => decide (u = haSite (coreSite s c))) s)
  if k.run = .running then abortJob now s none 0 else s

/-- The compute die's memories lost and every core reset (R279, R499). -/
def dropCores (s : Stack) : Stack :=
  { loseCompute s with cores := [], rows := s.rows.map (fun e => (e.1, { e.2 with flags := 0, flagOps := [], flagTest := none })) }

/-- Compute-die reset. -/
def computeReset (now : Nat) (s : Stack) : Stack :=
  bumpReset (resetRegs inCompute (cancelInjects (unitIn 4) (dropCores (endNow now s 0)))) 4

/-! ### Stack reset (R485, R499, R545) -/

/-- The vault controller of a column that keeps its path, its spares and its fuses. -/
def vaultKept (v : VaultCtl) : VaultCtl := { VaultCtl.reset with path := if v.path = 1 then 0 else v.path, coilSpares := v.coilSpares, fuses := v.fuses }

/-- A stack reset: the stack begins bring-up; transit, region tags, soft repairs, schedules, the pool's configuration, PHASE_OPP and the
partition map stay. -/
def stackReset (now : Nat) (s : Stack) (cause : Nat) : Stack :=
  let s := dropTiles (refuseAll now (abortAccepted now (endNow now s 0)))
  let pos := reg s rIdPosition
  let s := setReg (resetRegs (fun o => !inTransit o) (cancelInjects (unitIn 1) (dropCores s))) rIdPosition pos
  let run : ResetRun := { domain := 1, core := 0, since := now, cmd := none, lost := false, runs := [], resume := .rom, state := 0, held := false }
  bumpReset { s with
    boot := .rom
    pstate := if s.pstate = .admitted then .idle else s.pstate
    tick := Tick.reset
    rows := []
    vaults := s.vaults.map (fun e => (e.1, vaultKept e.2))
    nbus := s.nbus.map (fun e => (e.1, { Nbu.reset with sched := e.2.sched }))
    slices := [], subbanks := [], subfree := [], entering := [], topside := [], bulk := []
    router := { s.router with tags := [], mcs := [], rsps := [], coll := [] }
    kv := { Kv.reset with trays := s.kv.trays, backing := s.kv.backing, pins := s.kv.pins }
    power := { Power.reset with cap := s.power.capNext.getD s.power.cap, coolantStop := s.power.coolantStop, coolantHold := s.power.coolantHold }
    burns := siteBurns s.burns
    mend := { Mend.reset with unmoved := s.mend.unmoved ++ s.mend.moves.map (fun m => (m.1, coreSite s m.1, m.2)) }
    resetting := some run
    quiesce := none
    immediate := false
    bring := { BringUp.reset with since := now, stateAt := now, neighbours := s.bring.neighbours, packages := s.bring.packages }
    trust := { s.trust with fetch := none, reserving := none, installing := none, licence := none, trees := [] }
    commit := none } cause

/-! ### Base transit reset (R499, R507) -/

/-- The router, port and bridge PHYs reset: links lost, which train until the reset is complete, transactions failed, registers kept; the members of a
tick domain across them end the job. -/
def transitReset (now : Nat) (s : Stack) : Stack :=
  let ups := (List.range 8).filter (linkRuns s)
  let s := failTxns s stNodeLost (fun _ => true)
  let s := s.router.mcs.foldl (fun s m => mcCover s m.tag 0 255 true) s
  let s := ups.foldl (fun s l =>
    let s := dropWaiting (setReg s (rIvtLink l) (setFld (reg s (rIvtLink l)) 0 3 1)) l
    raise ((forgetFrom s l).setLink l Link.reset) { source := fIvtLinkDown, addr := haLink l }) s
  let s := { s with
    router := { s.router with rsps := [], backoff := [] }
    entering := s.entering.filter (fun a => match a.origin with | .packet _ => false | _ => true)
    resetting := some { domain := 3, core := 0, since := now, cmd := none, lost := false, runs := ups.map (fun l => (l, 0)), resume := s.boot,
                        state := 0, held := false } }
  let s := bumpReset (cancelInjects (unitIn 3) s) 3
  if jobOn s && !(treeEdges s).isEmpty then abortJob now s none 0 else s

/-- Whether the partner's lanes are there: a bridge needs a partner with power, a port REFCLK (R383, R572). -/
def partnerThere (s : State) (x : Stack) (l : Nat) : Bool :=
  if l < 4 then s.mc.refclk
  else match acrossBridge (stackIndex x) l with
    | some b => decide ((s.stack (Fin.ofNat 4 b)).boot ≠ .off)
    | none => false

/-- The links that a transit reset took down trained again from the saved record, where their partners are there. -/
def transitBack (now : Nat) (there : Nat → Bool) (s : Stack) (ls : List Nat) : Stack :=
  ls.foldl (fun s l =>
    let w := reg s (rIvtLink l)
    trainLink now s l ⟨there l, bv 8 (fld w 16 8), bv 2 (fld w 4 2), decide (fld w 6 1 = 1), alignOf s l⟩) s

/-! ### Loss of power (R462, R499, R507, R525) -/

/-- What OTP holds. -/
def otpVault (v : VaultCtl) : VaultCtl := { VaultCtl.reset with fuses := v.fuses }
def otpTrust (t : Trust) : Trust := { Trust.reset with svn := t.svn, revoke := t.revoke, lfuse := t.lfuse, epoch := t.epoch }

/-- A stack without power: fuses remain. -/
def powerOff (s : Stack) : Stack :=
  { Stack.reset with
    vaults := s.vaults.map (fun e => (e.1, otpVault e.2)), burnt := s.burnt, fuseMaps := s.fuseMaps, trust := otpTrust s.trust, sent := s.sent, nextId := s.nextId }

/-- Registers that COLD loses although they are sticky (R462): NBU schedules, soft repairs, PWR_OPPn, the pool's configuration, Ivton's; and
OPENED (R553). -/
def coldLost (off : Nat) : Bool :=
  inTransit off || (inCache off && decide (off ≠ rKveLog)) || decide (off = rSecFuse) || decide (0x20800 ≤ off ∧ off < 0x21000)
    || decide (0x200000 ≤ off ∧ off < 0x300000 ∧ off % 0x1000 = 0) || decide (0x100000 ≤ off ∧ off < 0x200000 ∧ 0x800 ≤ off % 0x1000)
    || decide (0x100000 ≤ off ∧ off < 0x200000 ∧ off % 0x1000 = 0x20)

/-- COLD entry: every rail off; other sticky fields keep their values, those of FLT_STATUS among them (R17, R536), the module controller has the
record copies (R525). It stays in its partition, which cannot be admitted, until it comes back (DESIGN CHOICE, log 119). -/
def coldEntry (s : Stack) : Stack :=
  let r := resetRegs (fun _ => true) s
  { powerOff s with
    part := s.part
    regs := r.regs.filter (fun e => !coldLost e.1), faults := { Collector.reset with next := s.faults.next, dropped := s.faults.dropped, high := s.faults.high, job := s.faults.job },
    power := { Power.reset with cap := s.power.capNext.getD s.power.cap, coolantStop := s.power.coolantStop }, cold := true }

/-- VIN_PKG removed from the four stacks: PWR_GOOD falls, nothing of a QUIESCE carries over (R573, R576); a write of the flash image is cut short
(R549). -/
def moduleOff (s : State) : State :=
  let s := allStacks.foldl (fun s i => s.onStack i powerOff) s
  updateFaultL { s with mc := { s.mc with vin := false, pwrGood := false, attn := none, blue := 0, activating := none, lost := true,
                                          flashOpen := s.mc.flashOpen || decide (s.mc.flashQueue ≠ []), flashQueue := [],
                                          grants := Quad.all 0, reclaim := Quad.all false, pool := 0, limit := 0, rising := false } }

end Sys2Proof.Machine
end

