-- ==== Sys2Proof/Machine/Boot.lean ====
section
/-! DEFINITION. Resets of a stack as the module sees them (R499, R500, R553): the leaves that follow a reset, the jobs that it ends. -/

namespace Sys2Proof.Machine
open Sys2Proof

/-- The first leaf of the next epoch. -/
def epochLeaf (x : Stack) : Nat := x.trust.epoch * 2 ^ 20

/-- SEC_LEAF after a reset that clears it: from the record once an epoch is opened, else from the fuses (R553, R561). -/
def resetLeaf (s : State) (i : StackIx) : State :=
  let x := s.stack i
  let n := if fld (reg x rSecFuse) 63 1 = 1 then (recordEnd s i).getD (epochLeaf x) else epochLeaf x
  s.setStack i (setReg x rSecLeaf (bv 64 (n * 2 ^ 31 + n)))

/-- A base non-transit reset of stack `i` (R500, R501). -/
def startBase (s : State) (i : StackIx) (cause : Nat) : State := resetLeaf (onMember s i (fun x => baseReset s.now x cause)) i

/-- An ADMITTED job of stack `i` withdrawn on every stack of its partition (R439). -/
def withdrawAll (s : State) (i : StackIx) : State :=
  if (s.stack i).pstate = .admitted then s.onStacks (partStacks s (s.stack i).part) (withdrawJob s.now) else s

/-- Once no stack quiesces any more the blue indicator blinks no longer, and the request of ATTN_L is over (R506, R583). -/
def blueOff (s : State) : State :=
  if allStacks.all (fun i => (s.stack i).quiesce.isNone) then
    { s with mc := { s.mc with blue := if s.mc.blue = 1 then 0 else s.mc.blue, attn := none } }
  else s

/-- A stack reset of stack `i` (R499). -/
def startStack (s : State) (i : StackIx) (cause : Nat) : State :=
  blueOff (resetLeaf (onMember (withdrawAll s i) i (fun x => stackReset s.now x cause)) i)

/-- What JOB_ABORT does on the partition of stack `i` (R433, R439): a running job is to end on every member, an admitted one is withdrawn. -/
def abortPart (s : State) (i : StackIx) : State :=
  let s := withdrawAll s i
  (partStacks s (s.stack i).part).foldl (fun s j => if jobRuns (s.stack j) then onMember s j (fun x => abortJob s.now x none 0) else s) s

/-- Step 7 of a module-wide quiesce (R505): once every stack of the module has stopped its links, the module controller removes VIN_PKG. -/
def quiesceOver (s : State) : State :=
  let on := allStacks.filter (fun i => decide ((s.stack i).boot ≠ .off))
  let qs := on.filterMap (fun i => (s.stack i).quiesce)
  if on ≠ [] ∧ qs.length = on.length ∧ qs.all (fun q => decide (q.stage = 2)) ∧ qs.any (fun q => q.all) then
    let s := moduleOff s
    { s with mc := { s.mc with blue := 1, input := 0, lost := false } }
  else s

/-- Whether the domain of a request contains the domain that is in reset (Table 15.6). -/
def resetContains (a b : Nat) : Bool := (decide (a = 1) && decide (b = 2 ∨ b = 4 ∨ b = 5)) || decide (a = 4 ∧ b = 5)

/-- Whether a reset of domain `d` may start at a stack (R500). -/
def resetLets (x : Stack) (d : Nat) : Bool := match x.resetting with | some r => resetContains d r.domain | none => true

/-- A running reset of a domain that answers at its end. -/
def waitingReset (now d core : Nat) (cmd : CmdRef) : ResetRun :=
  { domain := d, core := core, since := now, cmd := some cmd, lost := false, runs := [], resume := .ready, state := 0, held := false }

/-- The reset of domain `d` of stack `i` asserted (R499); `cmd` waits for the end of one of domain 4 or 5. -/
def startReset (s : State) (i : StackIx) (d core : Nat) (cmd : CmdRef) : State :=
  match d with
  | 1 => startStack s i 1
  | 2 => startBase s i 2
  | 3 => onMember s i (transitReset s.now)
  | 4 => onMember s i (fun x => { computeReset s.now x with resetting := some (waitingReset s.now 4 0 cmd) })
  | 5 => onMember s i (fun x => { bumpReset (coreReset s.now x core) 5 with resetting := some (waitingReset s.now 5 core cmd) })
  | _ => s

end Sys2Proof.Machine
end

