-- ==== Sys2Proof/Machine/Admit.lean ====
section
/-! DEFINITION. Job admission (R436): the admission block, the core headers, the instructions and descriptors of a program, and what
admission loads. -/

namespace Sys2Proof.Machine
open Sys2Proof

/-! ### The admission block (Table 13.7) -/

/-- Word `i` of an admission block. -/
def blockWord (data : List Byte) (i : Nat) : Word := word64At data (8 * i)

def blockMask (data : List Byte) : BitVec 8 := bv 8 (fld (blockWord data 0) 0 8)
def blockCompat (data : List Byte) : Bool := decide (fld (blockWord data 0) 8 1 = 1)
def blockStride (data : List Byte) : Nat := fld (blockWord data 4) 0 6

/-- Whether a block breaks Table 13.7, or holds a value that its register forbids (R436 check 2). -/
def blockBad (data : List Byte) : Bool :=
  let w := blockWord data
  let t := w 3
  decide (data.length ≠ 64 ∨ fld (w 0) 9 55 ≠ 0 ∨ fld (w 2) 63 1 ≠ 0)
    || decide (fld t 40 24 ≠ 0 ∨ fld t 24 16 = 0 ∨ fld t 19 5 ≠ 0 ∨ sevModule < fld t 16 3 ∨ fld t 15 1 ≠ 0 ∨ sevModule < fld t 12 3
        ∨ fld t 10 2 ≠ 0 ∨ fld t 8 2 = 3 ∨ fld t 5 3 ≠ 0 ∨ fld t 0 5 < 10 ∨ 20 < fld t 0 5)
    || decide (fld (w 4) 6 58 ≠ 0 ∨ (blockStride data ≠ 0 ∧ (blockStride data < 9 ∨ 30 < blockStride data)))
    || decide (fld (w 5) 18 46 ≠ 0) || (List.range 6).any (fun i => decide (sevModule < fld (w 5) (3 * i) 3))
    || decide (fld (w 6) 19 45 ≠ 0 ∨ sevModule < fld (w 6) 16 3 ∨ fld (w 6) 8 8 = 0 ∨ fld (w 6) 3 5 ≠ 0 ∨ sevModule < fld (w 6) 0 3)
    || decide (w 7 ≠ 0)

/-- The cores that take part under a mask: those of its rows. -/
def maskCores (mask : BitVec 8) : List Nat := (List.range 168).filter (fun c => mask.getLsbD (coreRow c))

/-! ### The core header (Table 6.9) -/

/-- The queue map's entry `n`. -/
def qmapWord (s : Stack) (c n : Nat) : Word := bv 64 (leNat (fun i => readByte s.mem (imemAddr c (8 * n) + i)) 8)

/-- Whether ENTRY and CODE_END keep Table 6.9. -/
def entryOk (s : Stack) (c : Nat) : Bool :=
  let e := codeEntry s c
  let n := codeEnd s c
  decide (e % 16 = 0 ∧ 512 ≤ e ∧ n % 16 = 0 ∧ e < n ∧ n ≤ imemLines (coreKind c) * 512)

/-- The offsets of the instructions in the code range. -/
def codeOffsets (s : Stack) (c : Nat) : List Nat :=
  if entryOk s c then (List.range ((codeEnd s c - codeEntry s c) / 16)).map (fun i => codeEntry s c + 16 * i) else []

/-- The instructions in the code range, where they decode. -/
def codeOps (s : Stack) (c : Nat) : List CoreOp := (codeOffsets s c).filterMap (fun o => decodeCore (imemWord s c o))

/-- Whether a producer code and a consumer code name a unit that the core has (Table 6.3). -/
def producerOk (k : CoreKind) (n : Nat) : Bool :=
  match n with
  | 0 => decide (k = .m)
  | 1 => decide (k = .v)
  | 2 => decide (k = .s)
  | 3 => true
  | 0xC => decide (k = .s)
  | n => decide (8 ≤ n ∧ n ≤ 0xB)
def consumerOk (k : CoreKind) (n : Nat) : Bool :=
  match n with
  | 0 => decide (k = .m)
  | 1 => decide (k = .v)
  | 2 => decide (k = .s)
  | n => decide (n = 3 ∨ n = 4 ∨ n = 5 ∨ n = 7)

/-- The fields of a queue-map entry (Table 6.14). -/
def qBase (w : Word) : Nat := fld w 32 13
def qConsumer (w : Word) : Nat := fld w 20 4
def qProducer (w : Word) : Nat := fld w 16 4
def qDepth (w : Word) : Nat := fld w 0 7

/-- Whether a queue map breaks R181. -/
def qmapBad (s : Stack) (c : Nat) : Bool :=
  let k := coreKind c
  let q := fun n => qmapWord s c n
  (List.range 16).any (fun n =>
    let w := q n
    decide (fld w 45 19 ≠ 0 ∨ fld w 24 8 ≠ 0 ∨ fld w 7 9 ≠ 0)
      || (decide (0 < qDepth w) && (decide (64 < qDepth w) || !producerOk k (qProducer w) || !consumerOk k (qConsumer w)
        || decide (scratchLines k < qBase w + qDepth w)
        || (List.range n).any (fun m => decide (0 < qDepth (q m)) && overlaps (qBase (q m), qDepth (q m)) (qBase w, qDepth w)))))

/-! ### Descriptors (R116, R127, R182) -/

/-- Whether R116 refuses descriptor `i` with INVALID_PARAM. In crêpe mode WSIDX must be 0 (R127). -/
def descBad (s : Stack) (c i : Nat) : Bool :=
  let w := descWord s c i
  let f := fld (w 0)
  let src := fun (x : Word) => decide (fld x 60 3 ≠ 0 ∨ fld x 44 12 ≠ 0 ∨ fld x 28 4 ≠ 0 ∨ fld x 9 7 ≠ 0)
  let crepe := decide (f 44 1 = 1)
  decide (f 0 20 ≠ 0) || src (w 1) || src (w 2) || decide (fld (w 3) 44 20 ≠ 0 ∨ fld (w 3) 28 4 ≠ 0 ∨ fld (w 3) 0 16 ≠ 0)
    || decide (f 41 2 = 3) || decide (0x80 ≤ f 56 8 ∧ f 56 8 ≠ 0xFF)
    || (match fmtOf (f 36 4), fmtOf (f 32 4) with
      | some a, some b => !pairOk a b || (decide (f 31 1 = 1) && !scalable a) || (decide (f 30 1 = 1) && !scalable b)
      | _, _ => true)
    || (crepe && (decide (f 43 1 = 0) || decide (127 < f 45 11) || decide (fld (w 1) 0 9 ≠ 0)))
    || (decide (f 41 2 = 1 ∨ f 41 2 = 2) && (fmtOf (f 26 4)).isNone)

/-- Whether a descriptor names ZL8. -/
def descZl8 (s : Stack) (c i : Nat) : Bool :=
  let f := fld (descWord s c i 0)
  decide (f 36 4 = 7 ∨ f 32 4 = 7 ∨ f 26 4 = 7)

/-- Whether a queue that a PASS names through its descriptor has DEPTH 0, or is not the MX engine's to push or to pop (R175, R181; log 64). -/
def descQueueBad (s : Stack) (c i : Nat) : Bool :=
  let w := descWord s c i
  let q := fun (n : Nat) => qmapWord s c n
  let takes := fun (x : Word) => decide (fld x 63 1 = 1) && (decide (qDepth (q (fld x 56 4)) = 0) || decide (qConsumer (q (fld x 56 4)) ≠ 0))
  let out := fld (w 0) 41 2
  takes (w 1) || takes (w 2) || (decide (out = 1 ∨ out = 2) && (decide (qDepth (q (fld (w 0) 20 4)) = 0) || decide (qProducer (q (fld (w 0) 20 4)) ≠ 0)))

/-- Whether a PASS breaks R217. SOFF breaks it where neither operand is scaled: the rule can be read per operand (DESIGN CHOICE, log 108). -/
def passBad (s : Stack) (c : Nat) (o : PassOp) : Bool :=
  let i := o.desc.toNat
  let w := descWord s c i
  let scaled := decide (fld (w 0) 31 1 = 1 ∨ fld (w 0) 30 1 = 1)
  decide (i < 16) || descBad s c i || descQueueBad s c i || decide (o.woff ≠ 0 ∧ fld (w 1) 63 1 = 1) || decide (o.aoff ≠ 0 ∧ fld (w 2) 63 1 = 1)
    || (decide (o.soff ≠ 0) && !scaled) || decide (fld (w 0) 44 1 = 1 ∧ o.soff.toNat % 512 ≠ 0)

/-! ### Instructions (R169, R181, R211-R234) -/

/-- The kinds of end that an operand may accept: POP, PEEK, PUSH, LINE, NONE. -/
structure EndKinds where
  pop : Bool := false
  peek : Bool := false
  push : Bool := false
  line : Bool := false
  none : Bool := false

/-- An input by lines; the same with NONE; an output; a scalar input; the same with NONE. -/
def kIn : EndKinds := { pop := true, peek := true, line := true }
def kInNone : EndKinds := { pop := true, peek := true, line := true, none := true }
def kOut : EndKinds := { push := true, line := true }
def kSc : EndKinds := { pop := true, peek := true }
def kScNone : EndKinds := { pop := true, peek := true, none := true }

/-- Whether an end of an instruction of engine `e`, which moves `n` lines, is not one that the operand accepts, or breaks R181
or R211. -/
def endBad (s : Stack) (c : Nat) (e : Engine) (k : EndKinds) (n : Nat) (x : EndSpec) : Bool :=
  let takes := fun (q : Fin 16) => decide (0 < qDepth (qmapWord s c q.val)) && decide (qConsumer (qmapWord s c q.val) = engineCode e)
  match x with
  | .none => !k.none
  | .pop q => !k.pop || !takes q
  | .peek i q => !k.peek || !takes q || decide (63 < i.val + n - 1)
  | .push q => !k.push || !(decide (0 < qDepth (qmapWord s c q.val)) && decide (qProducer (qmapWord s c q.val) = engineCode e))
  | .line x => !k.line || decide (scratchLines (coreKind c) < x.val + n)

/-- Whether an end field that the operation does not use holds something (R210). -/
def endUsed (x : EndSpec) : Bool := decide (x ≠ .pop 0)

/-- Whether a VX operation takes T as given (Table 7.5). -/
def vxTBad (k : VxK) (t : Bool) : Bool :=
  match k with
  | .and | .or | .xor | .shl | .shr | .sra => !t
  | .exp | .exp2 | .ln | .log2 | .rcp | .sqrt | .rsqrt | .tanh | .sigmoid | .erf => t
  | .cvt | .cvtmx | .gath | .scat => t
  | _ => false

/-- Whether the range of a gather or scatter at line `x` of length `n` elements is not one of R223. -/
def rangeBad (c : Nat) (x : EndSpec) (n : Nat) : Bool :=
  match x with
  | .line x => decide (n < 1 ∨ (scratchLines (coreKind c) - x.val) * 128 < n)
  | _ => true

/-- Whether a VX instruction is refused (R219-R223). -/
def vxBad (s : Stack) (c : Nat) (k : VxK) (o : VxOp) : Bool :=
  let n := o.n.toNat + 1
  let e := endBad s c .vx
  let ln := fun (i : Nat) => ((opEnds (.vx k o)).getD i (.none, 0)).2
  let plain := decide (o.fmt ≠ 0) || o.sat || o.rnd
  let imm := o.imm.toNat
  vxTBad k o.t || (match vxShape k with
    | .elems =>
      let nones := (if vxUsesB k ∧ o.b = .none then 1 else 0) + (if vxUsesC k ∧ o.c = .none then 1 else 0)
      plain || o.f || e kOut n o.d || e kIn n o.a || (if vxUsesB k then e kInNone n o.b else endUsed o.b)
        || (if vxUsesC k then e kInNone n o.c else endUsed o.c) || decide (1 < nones) || decide (nones = 0 ∧ imm ≠ 0)
    | .bcast => plain || o.f || e kOut n o.d || endUsed o.a || endUsed o.b || endUsed o.c
    | .cvt => o.f || (fmtOf o.fmt.toNat).isNone || (fmtOf (imm % 16)).isNone || decide (16 ≤ imm) || e kOut (ln 0) o.d || e kIn n o.a
        || endUsed o.b || endUsed o.c
    | .cvtmx => o.f || !(match fmtOf o.fmt.toNat with | some f => scalable f | none => false) || decide (imm ≠ 0)
        || e kOut (ln 0) o.d || e kIn n o.a || endUsed o.b || e kOut (ln 2) o.c
    | .reduce => plain || decide (256 ≤ imm) || e kOut (ln 0) o.d || e kIn n o.a || e kInNone 2 o.b || endUsed o.c
    | .gath => plain || o.f || rangeBad c o.a imm || e kOut n o.d || e kIn n o.b || endUsed o.c
    | .scat => plain || o.f || rangeBad c o.d imm || e kIn n o.a || e kIn n o.b || endUsed o.c)

/-- Whether an SX instruction is refused (R224, R225). -/
def sxBad (s : Stack) (c : Nat) (k : SxK) (o : SxOp) : Bool :=
  let e := endBad s c .sx
  let imm := decide (o.imm ≠ 0)
  let none := fun (x : EndSpec) => decide (x = .none)
  match k with
  | .lui => e { push := true } 1 o.d || endUsed o.a || endUsed o.b || endUsed o.c || o.les
  | .mov | .cvtf | .cvti => e { push := true } 1 o.d || e kSc 1 o.a || endUsed o.b || endUsed o.c || imm
  | .sel | .ffma => e { push := true } 1 o.d || e kSc 1 o.a || e kScNone 1 o.b || e kScNone 1 o.c || (none o.b && none o.c)
      || (!none o.b && !none o.c && imm)
  | .kvcmd => endUsed o.d || e { pop := true } 1 o.a || endUsed o.b || endUsed o.c || imm || o.led
  | _ => e { push := true } 1 o.d || e kSc 1 o.a || e kScNone 1 o.b || endUsed o.c || (!none o.b && imm)

/-- Whether an FX gate names an engine that a wait may not gate, and whether an AFTER mask names an engine the core lacks (R184, R234). -/
def gateBad (k : CoreKind) (g : Engine) : Bool := decide (g = .fx) || !hasEngine k g
def afterBad (k : CoreKind) (m : BitVec 6) : Bool :=
  queueEngines.any (fun e => m.getLsbD (engineCode e) && !hasEngine k e)

/-- Whether offset `t` is a branch target of the code range. -/
def targetBad (s : Stack) (c t : Nat) : Bool := decide (t % 16 ≠ 0 ∨ t < codeEntry s c ∨ codeEnd s c ≤ t)

/-- Whether a SEND breaks R233, under the mask that `s.tick` holds. -/
def sendBad (s : Stack) (c : Nat) (o : NlOp) : Bool :=
  match neighbour s c o.dir with
  | none => false
  | some d => decide (qDepth (qmapWord s d o.rq.val) = 0) || decide (qProducer (qmapWord s d o.rq.val) ≠ 8 + dirCode (incoming o.dir))

/-- Whether the instruction at offset `off` of core `c` is refused with INVALID_PARAM. -/
def opBad (s : Stack) (c off : Nat) (stride : Nat) : Bool :=
  let x := imemWord s c off
  let k := coreKind c
  let n := fun (m : BitVec 12) => m.toNat + 1
  match decodeCore x with
  | none => true
  | some o =>
    decide (encodeCore o ≠ x) || !hasEngine k (opEngine o) || (match o with
      | .pass p => passBad s c p
      | .drain d => endBad s c .mx kOut (((opEnds o).getD 0 (.none, 0)).2) d.d || endBad s c .mx { line := true } (n d.n) d.a
          || (fmtOf d.ofmt.toNat).isNone
      | .vx v d => vxBad s c v d
      | .sx v d => sxBad s c v d
      | .ldl d => endBad s c .ld kOut (n d.n) d.data || (d.x && decide (stride = 0)) || (d.l && decide (fld d.addr 48 16 ≠ 0))
      | .ldx d => endBad s c .ld kOut (n d.n) d.data || endBad s c .ld kIn (ceilDiv (n d.n) 64) d.addr || (d.x && decide (stride = 0))
      | .atom d => endBad s c .ld { push := true, line := true, none := true } (n d.n) d.data || endBad s c .ld kIn (n d.n) d.addr
          || decide (4 < d.atype.toNat) || (d.x && decide (stride = 0))
      | .stl d => endBad s c .st kIn (n d.n) d.data || endBad s c .st kInNone (n d.n) d.mask || (d.x && decide (stride = 0))
          || (d.l && decide (fld d.addr 48 16 ≠ 0)) || (d.mc && (d.l || decide (fld d.addr 60 4 ≠ 0)))
      | .stx d => endBad s c .st kIn (n d.n) d.data || endBad s c .st kIn (ceilDiv (n d.n) 64) d.addr || (d.x && decide (stride = 0))
      | .send d => endBad s c .nl kIn (n d.n) d.src || sendBad s c d
      | .fx f => (match f with
        | .wait _ _ g => gateBad k g
        | .waitc _ g => gateBad k g
        | .set _ m => afterBad k m
        | .clr _ m => afterBad k m
        | .signal _ _ m => afterBad k m
        | .tickEnd => false)
      | .seq q => (match q with
        | .br t => targetBad s c t.toNat
        | .brc e t _ => endBad s c .seq { pop := true } 1 e || targetBad s c t.toNat
        | .loop e count stop => endBad s c .seq { pop := true, none := true } 1 e || decide (e ≠ .none ∧ count ≠ 0)
            || targetBad s c stop.toNat || decide (stop.toNat ≤ off)
            || decide (decodeCore (imemWord s c stop.toNat) ≠ some (.seq .endloop))
        | _ => false))

/-! ### The checks of a stack (R436) -/

/-- Whether the program of core `c` names ZL8 in a pass or a conversion. -/
def coreZl8 (s : Stack) (c : Nat) : Bool :=
  (codeOps s c).any (fun o => match o with
    | .pass p => descZl8 s c p.desc.toNat
    | .drain d => decide (d.ofmt = 7)
    | .vx .cvt d => decide (d.fmt = 7 ∨ d.imm.toNat % 16 = 7)
    | .vx .cvtmx d => decide (d.fmt = 7 ∨ d.imm.toNat % 16 = 7)
    | _ => false)

/-- Check 3 on a stack: licences (R2, R116, R221, R311). -/
def admitUnlicensed (s : Stack) (cores : List Nat) : Bool :=
  let lic := fld (reg s rSecLicence) 0 5
  let nbu := decide (lic % 2 = 1)
  let zl8 := decide (lic / 2 % 2 = 1)
  cores.any (fun c => (!zl8 && coreZl8 s c) || (!nbu && decide ((s.nbu c).sched ≠ [])) || (!zl8 && (s.nbu c).sched.any nbuZl8))

/-- Check 5 on core `c`: the lines that R199 needs are not all valid. -/
def imemMissing (s : Stack) (c : Nat) : Bool :=
  let v := (s.core c).valid
  let descs := (codeOps s c).filterMap (fun o => match o with | .pass p => some p.desc.toNat | _ => none)
  !v.getLsbD 0 || (entryOk s c && (List.range ((codeEnd s c - 1) / 512 + 1 - codeEntry s c / 512)).any (fun i =>
      !v.getLsbD (codeEntry s c / 512 + i))) || descs.any (fun d => !v.getLsbD (d / 16))

/-- Check 6 on core `c`: the program breaks a rule of admission. -/
def programBad (s : Stack) (c stride : Nat) : Bool :=
  !entryOk s c || (List.range 376).any (fun i => decide (readByte s.mem (imemAddr c (136 + i)) ≠ 0)) || qmapBad s c
    || (codeOffsets s c).any (fun o => opBad s c o stride)

/-- A stack as the program checks see it: the block's mask and exchange stride. -/
def underBlock (s : Stack) (data : List Byte) : Stack :=
  setReg { s with tick := { s.tick with mask := blockMask data } } rTckXchg (blockWord data 4)

/-- The partitions that the stacks of the module use, counted. -/
def partsInUse (s : State) : Nat := (List.range 4).countP (fun p => allStacks.any (fun i => decide ((s.stack i).part = p)))

/-- The partitions that a stack's licence permits (R2, R435). -/
def licensedParts (s : Stack) : Nat := fld (reg s rSecLicence) 3 2 + 1

/-- JOB_ADMIT's checks on partition `p` in their order, each over its stacks in ascending order (R436, R435, R514): none where every one
passes. -/
def admitStatus (s : State) (p : Nat) (data : List Byte) : Option Nat :=
  let sts := partAll s p
  let cores := maskCores (blockMask data)
  let stride := blockStride data
  let at_ := fun (i : StackIx) => underBlock (s.stack i) data
  if sts.any (fun i => decide ((s.stack i).pstate ≠ .idle ∨ (s.stack i).boot ≠ .ready) || admitBlock s i) then some stState
  else if blockBad data then some stInvalidParam
  else if sts.any (fun i => decide (licensedParts (s.stack i) < partsInUse s) || admitUnlicensed (at_ i) cores) then some stNotLicensed
  else if sts.any (fun i => decide (blockMask data &&& ~~~(bv 8 (geometryClass (s.stack i))) ≠ 0)) then some stState
  else if sts.any (fun i => cores.any (imemMissing (at_ i))) then some stState
  else if sts.any (fun i => cores.any (fun c => programBad (at_ i) c stride || (at_ i |>.nbu c).sched.any (nbuInvalid (at_ i)))) then
    some stInvalidParam
  else none

/-! ### What admission loads (R77-R82, R136, R174, R256, R261, R296, R328, R360, R362, R436, R450) -/

/-- A stack with the job of a block admitted. -/
def admitStack (data : List Byte) (s : Stack) : Stack :=
  let w := blockWord data
  let cores := maskCores (blockMask data)
  let set := fun (s : Stack) (l : List (Nat × Word)) => l.foldl (fun s e => setReg s e.1 e.2) s
  let s := set s [(rTckConfig, w 3), (rTckXchg, w 4), (rFltPoisonSev, w 5), (rTckDomain, 0), (rTckNumber, 0), (rTckOverrun, 0),
    (rKveCount, 0), (rKveCfg, setFld (reg s rKveCfg) 0 3 (fld (w 6) 16 3))]
  let s := set s ((List.range 128).map (fun c => (rCrustCfg c, bv 64 (fld (w 6) 0 16))))
  let s := set s ((List.range 168).flatMap (fun c => [(rCrustStat c, 0), (rNlStat c, 0)]))
  let s := set s ((List.range 184).flatMap (fun p => [(rVltCount p, 0), (rVltWait p, 0), (rNbuCount p, 0)]))
  let s := set s ((List.range 256).map (fun n => (rPwrTag n, 0)))
  let s := set s (cores.flatMap (fun c => (List.range 16).map (fun n => (rDqCfg c n, qmapWord s c n))))
  let s := if blockCompat data then
      { s with vaults := cores.foldl (fun t c =>
          let p := coreSite s c
          let v := tget (fun _ => VaultCtl.reset) t p
          tset (fun _ => VaultCtl.reset) t p (if v.path = 0 then { v with path := 1 } else v)) s.vaults }
    else s
  { s with
    pstate := .admitted
    tick := { Tick.reset with mask := blockMask data, compat := blockCompat data, seed := w 1, lastTick := (w 2).toNat,
                              licence := fld (reg s rSecLicence) 0 5 }
    power := { s.power with peakSeen := 0 } }

/-! ### Ports 8-15 (R2, R5) -/

/-- A port of stacks 2 and 3 opened for packets. -/
def openPort (s : Stack) (l : Nat) : Stack :=
  if linkState s l ≠ 4 then s
  else
    let s := setReg s (rIvtLink l) (setFld (reg s (rIvtLink l)) 0 3 2)
    s.setLink l { s.link l with credits := bufferSlots l }

/-- A port of stacks 2 and 3 closed: what waits on it finds no link. -/
def closePort (now : Nat) (s : Stack) (l : Nat) : Stack :=
  if linkState s l ≠ 2 then s
  else
    let x := s.link l
    let s := setReg s (rIvtLink l) (setFld (reg s (rIvtLink l)) 0 3 4)
    let s := s.setLink l { x with credits := [0, 0, 0, 0], waiting := [], branch := [] }
    let s := x.waiting.foldl (fun s w => undeliverable now (leave s w) 8 (.link l) w.pkt) s
    dropBranch now s l true x.branch

/-- Ports 8-15 at a job admission: opened where the licence has them, closed where it has not and no job runs on the module. -/
def admitPorts (s : State) : State :=
  let quiet := allStacks.all (fun i => !jobRuns (s.stack i))
  s.onStacks [2, 3] (fun x =>
    if x.boot = .off then x
    else if fld (reg x rSecLicence) 2 1 = 1 then ([0, 1, 2, 3] : List Nat).foldl openPort { x with portsOpen := true }
    else if quiet then ([0, 1, 2, 3] : List Nat).foldl (closePort s.now) { x with portsOpen := false }
    else x)

end Sys2Proof.Machine
end

