-- ==== Sys2Proof/Machine/CoreRows.lean ====
section
/-! DEFINITION. The commands of a core (04, 05, 06, 07): one meaning per row of the table. A command that is presented
where its condition does not hold, an operation that its engine has not started, a request with no answer, changes
nothing: the hardware waits there. -/

namespace Sys2Proof.Machine
open Sys2Proof

/-- What a meaning answers. -/
abbrev Out := Host.Outcome State Fault Refusal

/-- The module with stack `i` changed. -/
def onSt (s : State) (i : StackIx) (f : Stack → Stack) : Out := .next (s.onStack i f)

/-! ### The sequencer -/

/-- SEQ_FETCH_DISPATCH (R170, R171, R200). -/
def execSeqFetchDispatch (a : CoreAt) (u : Upsets) (s : State) : Out := onSt s a.st (fun x => fetchDispatch x a.c.val u)

/-- NOP: no effect (Table 7.3). -/
def execNop (a : CoreAt) (s : State) : Out :=
  onSt s a.st (fun x => if seqHas x a.c.val (.seq .nop) then seqDone x a.c.val id else x)

/-- HALT: the core goes to HALTED once every operation dispatched earlier has completed (Table 6.8). -/
def execHalt (a : CoreAt) (s : State) : Out :=
  onSt s a.st (fun x =>
    if seqHas x a.c.val (.seq .halt) then tryHalt (seqDone x a.c.val (fun k => { k with halting := true })) a.c.val else x)

/-- PHASE: the tag for the next tick and every one after it (R202). -/
def execPhase (a : CoreAt) (tag : Fin 256) (s : State) : Out :=
  onSt s a.st (fun x =>
    if seqHas x a.c.val (.seq (.phase (bv 8 tag.val))) then
      seqDone x a.c.val (fun k => { k with nextPhase := bv 8 tag.val })
    else x)

/-- BR: fetch continues at TARGET (Table 7.3, R215). -/
def execBr (a : CoreAt) (target : ImOff) (s : State) : Out :=
  onSt s a.st (fun x =>
    if seqHas x a.c.val (.seq (.br target)) then seqDone x a.c.val (fun k => { k with pc := target.toNat }) else x)

/-- BRC (R215, R216). -/
def execBrc (a : CoreAt) (src : EndSpec) (target : ImOff) (z : Bool) (u : Upsets) (s : State) : Out :=
  onSt s a.st (fun x =>
    if seqHas x a.c.val (.seq (.brc src target z)) then seqBrc x a.c.val src target.toNat z u else x)

/-- LOOP (R214, R216). -/
def execLoop (a : CoreAt) (src : EndSpec) (count : BitVec 32) (stop : ImOff) (u : Upsets) (s : State) : Out :=
  onSt s a.st (fun x =>
    if seqHas x a.c.val (.seq (.loop src count stop)) then seqLoop x a.c.val src count.toNat stop.toNat u else x)

/-- ENDLOOP (R214). -/
def execEndloop (a : CoreAt) (s : State) : Out :=
  onSt s a.st (fun x => if seqHas x a.c.val (.seq .endloop) then seqEndloop x a.c.val else x)

/-! ### Engines -/

/-- ENGINE_OP_START (R172, R176-R180, R184, R64). -/
def execEngineOpStart (a : CoreAt) (e : Engine) (u : Upsets) (s : State) : Out :=
  onSt s a.st (fun x => startOp s.now x a.c.val e u)

/-- ENGINE_OP_COMPLETE (R172, Table 6.2). -/
def execEngineOpComplete (a : CoreAt) (e : Engine) (s : State) : Out := onSt s a.st (fun x => completeOp x a.c.val e)

/-! ### MX -/

/-- A change that the MX engine of a running core makes. -/
def mxDo (s : State) (a : CoreAt) (f : Stack → Stack) : Out := onSt s a.st (fun x => if coreRuns x a.c.val then f x else x)

/-- PASS: names a descriptor and adds its offsets (R217). -/
def execPass (a : CoreAt) (o : PassOp) (s : State) : Out := mxDo s a (fun x => passName x a.c.val o)

/-- PASS_START (R117, R118). -/
def execPassStart (a : CoreAt) (s : State) : Out := mxDo s a (fun x => passStart x a.c.val)

/-- PASS_STEP_COMPLETE (R121, R129-R134). -/
def execPassStepComplete (a : CoreAt) (flips : List Flip) (s : State) : Out := mxDo s a (fun x => stepComplete x a.c.val flips)

/-- PASS_REPLAY (R134). -/
def execPassReplay (a : CoreAt) (s : State) : Out := mxDo s a (fun x => passReplay x a.c.val)

/-- PASS_RETIRE (R118, R120, R129, R135). -/
def execPassRetire (a : CoreAt) (s : State) : Out := mxDo s a (fun x => passRetire s.now x a.c.val)

/-- DRAIN (R218): the started operation `o` converts accumulator lines and writes or pushes the result. -/
def execDrain (a : CoreAt) (o : DrainOp) (s : State) : Out := onSt s a.st (fun x => runOp s.now x a.c.val (.drain o))

/-! ### VX (Table 7.5) -/

/-- A VX operation taken as far as its operands and room allow (R178). -/
def vxRow (k : VxK) (a : CoreAt) (o : VxOp) (s : State) : Out := onSt s a.st (fun x => runOp s.now x a.c.val (.vx k o))

/-- VX ADD: A + B (R219). -/
def execVxAdd (a : CoreAt) (o : VxOp) (s : State) : Out := vxRow .add a o s

/-- VX SUB: A − B (R219). -/
def execVxSub (a : CoreAt) (o : VxOp) (s : State) : Out := vxRow .sub a o s

/-- VX MUL: A × B (R219). -/
def execVxMul (a : CoreAt) (o : VxOp) (s : State) : Out := vxRow .mul a o s

/-- VX FMA: A × B + C with one rounding (R219, R220). -/
def execVxFma (a : CoreAt) (o : VxOp) (s : State) : Out := vxRow .fma a o s

/-- VX MIN: the IEEE minimum (R144). -/
def execVxMin (a : CoreAt) (o : VxOp) (s : State) : Out := vxRow .min a o s

/-- VX MAX: the IEEE maximum (R144). -/
def execVxMax (a : CoreAt) (o : VxOp) (s : State) : Out := vxRow .max a o s

/-- VX ABS: |A| (R219). -/
def execVxAbs (a : CoreAt) (o : VxOp) (s : State) : Out := vxRow .abs a o s

/-- VX NEG: −A (R219). -/
def execVxNeg (a : CoreAt) (o : VxOp) (s : State) : Out := vxRow .neg a o s

/-- VX MOV: A (R219). -/
def execVxMov (a : CoreAt) (o : VxOp) (s : State) : Out := vxRow .mov a o s

/-- VX SEL: A or B by C (R219). -/
def execVxSel (a : CoreAt) (o : VxOp) (s : State) : Out := vxRow .sel a o s

/-- VX AND: bitwise AND (R219). -/
def execVxAnd (a : CoreAt) (o : VxOp) (s : State) : Out := vxRow .and a o s

/-- VX OR: bitwise OR (R219). -/
def execVxOr (a : CoreAt) (o : VxOp) (s : State) : Out := vxRow .or a o s

/-- VX XOR: bitwise XOR (R219). -/
def execVxXor (a : CoreAt) (o : VxOp) (s : State) : Out := vxRow .xor a o s

/-- VX SHL: A shifted left by B[4:0] (R219). -/
def execVxShl (a : CoreAt) (o : VxOp) (s : State) : Out := vxRow .shl a o s

/-- VX SHR: A shifted right logically by B[4:0] (R219). -/
def execVxShr (a : CoreAt) (o : VxOp) (s : State) : Out := vxRow .shr a o s

/-- VX SRA: A shifted right arithmetically by B[4:0] (R219). -/
def execVxSra (a : CoreAt) (o : VxOp) (s : State) : Out := vxRow .sra a o s

/-- VX BCAST: IMM32 into N output lines (R219). -/
def execVxBcast (a : CoreAt) (o : VxOp) (s : State) : Out := vxRow .bcast a o s

/-- VX CMPEQ: 1 where A = B (R220). -/
def execVxCmpeq (a : CoreAt) (o : VxOp) (s : State) : Out := vxRow .cmpeq a o s

/-- VX CMPNE: 1 where A ≠ B (R220). -/
def execVxCmpne (a : CoreAt) (o : VxOp) (s : State) : Out := vxRow .cmpne a o s

/-- VX CMPLT: 1 where A < B (R220). -/
def execVxCmplt (a : CoreAt) (o : VxOp) (s : State) : Out := vxRow .cmplt a o s

/-- VX CMPLE: 1 where A ≤ B (R220). -/
def execVxCmple (a : CoreAt) (o : VxOp) (s : State) : Out := vxRow .cmple a o s

/-- VX CMPGT: 1 where A > B (R220). -/
def execVxCmpgt (a : CoreAt) (o : VxOp) (s : State) : Out := vxRow .cmpgt a o s

/-- VX CMPGE: 1 where A ≥ B (R220). -/
def execVxCmpge (a : CoreAt) (o : VxOp) (s : State) : Out := vxRow .cmpge a o s

/-- VX EXP: e^x (R142). -/
def execVxExp (a : CoreAt) (o : VxOp) (s : State) : Out := vxRow .exp a o s

/-- VX EXP2: 2^x (R142). -/
def execVxExp2 (a : CoreAt) (o : VxOp) (s : State) : Out := vxRow .exp2 a o s

/-- VX LN: ln x (R142). -/
def execVxLn (a : CoreAt) (o : VxOp) (s : State) : Out := vxRow .ln a o s

/-- VX LOG2: log2 x (R142). -/
def execVxLog2 (a : CoreAt) (o : VxOp) (s : State) : Out := vxRow .log2 a o s

/-- VX RCP: 1 / x (R142). -/
def execVxRcp (a : CoreAt) (o : VxOp) (s : State) : Out := vxRow .rcp a o s

/-- VX SQRT: √x (R142). -/
def execVxSqrt (a : CoreAt) (o : VxOp) (s : State) : Out := vxRow .sqrt a o s

/-- VX RSQRT: 1 / √x (R142). -/
def execVxRsqrt (a : CoreAt) (o : VxOp) (s : State) : Out := vxRow .rsqrt a o s

/-- VX TANH: tanh x (R142). -/
def execVxTanh (a : CoreAt) (o : VxOp) (s : State) : Out := vxRow .tanh a o s

/-- VX SIGMOID: 1 / (1 + e^−x) (R142). -/
def execVxSigmoid (a : CoreAt) (o : VxOp) (s : State) : Out := vxRow .sigmoid a o s

/-- VX ERF: erf x (R142). -/
def execVxErf (a : CoreAt) (o : VxOp) (s : State) : Out := vxRow .erf a o s

/-- VX CVT: a conversion of R100 (R221). -/
def execVxCvt (a : CoreAt) (o : VxOp) (s : State) : Out := vxRow .cvt a o s

/-- VX CVTMX: a block conversion of R96 with its scales to C (R221). -/
def execVxCvtmx (a : CoreAt) (o : VxOp) (s : State) : Out := vxRow .cvtmx a o s

/-- VX RSUM: a sum in the order of R143 (R222). -/
def execVxRsum (a : CoreAt) (o : VxOp) (s : State) : Out := vxRow .rsum a o s

/-- VX RMIN: a minimum reduction (R144, R222). -/
def execVxRmin (a : CoreAt) (o : VxOp) (s : State) : Out := vxRow .rmin a o s

/-- VX RMAX: a maximum reduction (R144, R222). -/
def execVxRmax (a : CoreAt) (o : VxOp) (s : State) : Out := vxRow .rmax a o s

/-- VX GATH: a gather (R145, R146, R223). -/
def execVxGath (a : CoreAt) (o : VxOp) (s : State) : Out := vxRow .gath a o s

/-- VX SCAT: a scatter (R145, R146, R223). -/
def execVxScat (a : CoreAt) (o : VxOp) (s : State) : Out := vxRow .scat a o s

/-- VX SCATADD: a scatter-add (R145, R146, R223). -/
def execVxScatadd (a : CoreAt) (o : VxOp) (s : State) : Out := vxRow .scatadd a o s

/-! ### SX (Table 7.6) -/

/-- An SX operation taken as far as its operands and room allow (R178, R179, R224). -/
def sxRow (k : SxK) (a : CoreAt) (o : SxOp) (s : State) : Out := onSt s a.st (fun x => runOp s.now x a.c.val (.sx k o))

/-- SX ADD (Table 7.6). -/
def execSxAdd (a : CoreAt) (o : SxOp) (s : State) : Out := sxRow .add a o s

/-- SX SUB (Table 7.6). -/
def execSxSub (a : CoreAt) (o : SxOp) (s : State) : Out := sxRow .sub a o s

/-- SX MUL (Table 7.6). -/
def execSxMul (a : CoreAt) (o : SxOp) (s : State) : Out := sxRow .mul a o s

/-- SX AND (Table 7.6). -/
def execSxAnd (a : CoreAt) (o : SxOp) (s : State) : Out := sxRow .and a o s

/-- SX OR (Table 7.6). -/
def execSxOr (a : CoreAt) (o : SxOp) (s : State) : Out := sxRow .or a o s

/-- SX XOR (Table 7.6). -/
def execSxXor (a : CoreAt) (o : SxOp) (s : State) : Out := sxRow .xor a o s

/-- SX SHL (Table 7.6). -/
def execSxShl (a : CoreAt) (o : SxOp) (s : State) : Out := sxRow .shl a o s

/-- SX SHR (Table 7.6). -/
def execSxShr (a : CoreAt) (o : SxOp) (s : State) : Out := sxRow .shr a o s

/-- SX SRA (Table 7.6). -/
def execSxSra (a : CoreAt) (o : SxOp) (s : State) : Out := sxRow .sra a o s

/-- SX SEL (Table 7.6). -/
def execSxSel (a : CoreAt) (o : SxOp) (s : State) : Out := sxRow .sel a o s

/-- SX MOV (Table 7.6). -/
def execSxMov (a : CoreAt) (o : SxOp) (s : State) : Out := sxRow .mov a o s

/-- SX LUI (Table 7.6). -/
def execSxLui (a : CoreAt) (o : SxOp) (s : State) : Out := sxRow .lui a o s

/-- SX MIN (Table 7.6). -/
def execSxMin (a : CoreAt) (o : SxOp) (s : State) : Out := sxRow .min a o s

/-- SX MAX (Table 7.6). -/
def execSxMax (a : CoreAt) (o : SxOp) (s : State) : Out := sxRow .max a o s

/-- SX CMPEQ (Table 7.6). -/
def execSxCmpeq (a : CoreAt) (o : SxOp) (s : State) : Out := sxRow .cmpeq a o s

/-- SX CMPNE (Table 7.6). -/
def execSxCmpne (a : CoreAt) (o : SxOp) (s : State) : Out := sxRow .cmpne a o s

/-- SX CMPLT (Table 7.6). -/
def execSxCmplt (a : CoreAt) (o : SxOp) (s : State) : Out := sxRow .cmplt a o s

/-- SX CMPLE (Table 7.6). -/
def execSxCmple (a : CoreAt) (o : SxOp) (s : State) : Out := sxRow .cmple a o s

/-- SX CMPLTU (Table 7.6). -/
def execSxCmpltu (a : CoreAt) (o : SxOp) (s : State) : Out := sxRow .cmpltu a o s

/-- SX CMPLEU (Table 7.6). -/
def execSxCmpleu (a : CoreAt) (o : SxOp) (s : State) : Out := sxRow .cmpleu a o s

/-- SX FADD (Table 7.6). -/
def execSxFadd (a : CoreAt) (o : SxOp) (s : State) : Out := sxRow .fadd a o s

/-- SX FMUL (Table 7.6). -/
def execSxFmul (a : CoreAt) (o : SxOp) (s : State) : Out := sxRow .fmul a o s

/-- SX FFMA (Table 7.6). -/
def execSxFfma (a : CoreAt) (o : SxOp) (s : State) : Out := sxRow .ffma a o s

/-- SX CVTF (Table 7.6). -/
def execSxCvtf (a : CoreAt) (o : SxOp) (s : State) : Out := sxRow .cvtf a o s

/-- SX CVTI (Table 7.6). -/
def execSxCvti (a : CoreAt) (o : SxOp) (s : State) : Out := sxRow .cvti a o s

/-- KVCMD (R225): eight scalars make a record for the row's KV agent; a poisoned one bites and nothing is sent. -/
def execKvcmd (a : CoreAt) (o : SxOp) (s : State) : Out := sxRow .kvcmd a o s

/-! ### LD and ST (R226-R232) -/

/-- LDL: the started operation issues line requests as far as it may. -/
def execLdl (a : CoreAt) (o : LdlOp) (s : State) : Out := onSt s a.st (fun x => runOp s.now x a.c.val (.ldl o))

/-- LDX. -/
def execLdx (a : CoreAt) (o : IdxOp) (s : State) : Out := onSt s a.st (fun x => runOp s.now x a.c.val (.ldx o))

/-- ATOM (R229). -/
def execAtom (a : CoreAt) (o : AtomOp) (s : State) : Out := onSt s a.st (fun x => runOp s.now x a.c.val (.atom o))

/-- STL (R230). -/
def execStl (a : CoreAt) (o : StlOp) (s : State) : Out := onSt s a.st (fun x => runOp s.now x a.c.val (.stl o))

/-- STX. -/
def execStx (a : CoreAt) (o : IdxOp) (s : State) : Out := onSt s a.st (fun x => runOp s.now x a.c.val (.stx o))

/-- The oldest started operation of an LD or ST queue that has line requests left. -/
def issuing (x : Stack) (c : Nat) (e : Engine) : Option (QEntry × CoreOp) :=
  ((x.core c).queue e).findSome? (fun q => match q.op with
    | some o => if q.started && !q.done && decide (q.prog.i < ldstN o) then some (q, o) else none
    | none => none)

/-- LDST_REQUEST_ISSUE (R228, R231, R389): the next line request of the engine. -/
def execLdstRequestIssue (a : CoreAt) (e : Engine) (u : Upsets) (s : State) : Out :=
  onSt s a.st (fun x =>
    match issuing x a.c.val e with
    | none => x
    | some (q, o) =>
      if coreRuns x a.c.val then runActs s.now a.c.val o (fun y => decide (y.prog.i > q.prog.i)) actFuel (applyUpsets x u) q else x)

/-- LINE_LAND (R228, R231, R277). -/
def execLineLand (a : CoreAt) (req : Nat) (fails : Fin 5) (failing : BitVec 16) (u : Upsets) (s : State) : Out :=
  onSt s a.st (fun x => lineLand x a.c.val req fails.val failing u)

/-- STORE_ACK (R228). -/
def execStoreAck (a : CoreAt) (req : Nat) (s : State) : Out := onSt s a.st (fun x => storeAck x a.c.val req)

/-- REQUEST_ERROR_ANSWER (R232). -/
def execRequestErrorAnswer (a : CoreAt) (req : Nat) (s : State) : Out := onSt s a.st (fun x => errorAnswer x a.c.val req)

/-- RETRY_LATER_RESEND (R228, R393). -/
def execRetryLaterResend (a : CoreAt) (req : Nat) (s : State) : Out := onSt s a.st (fun x => resendReq s.now x a.c.val req)

/-! ### Neighbour links -/

/-- NL SEND (R154-R156). -/
def execNlSend (a : CoreAt) (o : NlOp) (s : State) : Out := onSt s a.st (fun x => runOp s.now x a.c.val (.send o))

/-- LINK_LINE_LAND (R154, R155, R158, R159): at the receiver `a`, on its incoming link from direction `d`. -/
def execLinkLineLand (a : CoreAt) (d : Dir) (failing : BitVec 16) (s : State) : Out :=
  onSt s a.st (fun x => linkLand x a.c.val d failing)

/-- LINK_CREDIT_RETURN (R155). -/
def execLinkCreditReturn (a : CoreAt) (d : Dir) (s : State) : Out := onSt s a.st (fun x => creditReturn x a.c.val d)

/-! ### FX -/

/-- WAIT (R184). -/
def execFxWait (a : CoreAt) (flag : Fin 128) (v : Bool) (gate : Engine) (s : State) : Out :=
  onSt s a.st (fun x => fxPlace x a.c.val (.wait flag v gate))

/-- WAITC (R184, R186). -/
def execFxWaitc (a : CoreAt) (flag : Fin 128) (gate : Engine) (s : State) : Out :=
  onSt s a.st (fun x => fxPlace x a.c.val (.waitc flag gate))

/-- SET (R183). -/
def execFxSet (a : CoreAt) (flag : Fin 128) (after : BitVec 6) (s : State) : Out :=
  onSt s a.st (fun x => fxPlace x a.c.val (.set flag after))

/-- CLR (R183). -/
def execFxClr (a : CoreAt) (flag : Fin 128) (after : BitVec 6) (s : State) : Out :=
  onSt s a.st (fun x => fxPlace x a.c.val (.clr flag after))

/-- SIGNAL (R183, R187). -/
def execFxSignal (a : CoreAt) (target : Fin 256) (flag : Fin 64) (after : BitVec 6) (s : State) : Out :=
  onSt s a.st (fun x => fxPlace x a.c.val (.signal target.val flag after))

/-- TICK_END (R188). -/
def execTickEnd (a : CoreAt) (s : State) : Out := onSt s a.st (fun x => fxPlace x a.c.val .tickEnd)

/-- FX_ENTRY_COMPLETE (R183): entry `i` of the FX queue. -/
def execFxEntryComplete (a : CoreAt) (i : Fin 32) (s : State) : Out :=
  onSt s a.st (fun x => match (x.core a.c.val).fx[i.val]? with
    | some e => fxComplete s.now x a.c.val e
    | none => x)

/-- ROW_FLAG_TEST (R148, R186). -/
def execRowFlagTest (r : RowAt) (s : State) : Out := onSt s r.st (fun x => rowFlagTest s.now x r.r.val)

/-- SIGNAL_DELIVER (R187): flag `flag` of core `a`. -/
def execSignalDeliver (a : CoreAt) (flag : Fin 64) (s : State) : Out := onSt s a.st (fun x => signalDeliver s.now x a.c.val flag.val)

/-- TICK_END_COMPLETE (R188). -/
def execTickEndComplete (a : CoreAt) (s : State) : Out := onSt s a.st (fun x => tickEndComplete s.now x a.c.val)

end Sys2Proof.Machine
end

