-- ==== Sys2Proof/Machine/MemRows.lean ====
section
/-! DEFINITION. The commands of row ports, vault controllers, slices and soft repairs (05, 08, 09). A command presented
where its condition does not hold changes nothing. -/

namespace Sys2Proof.Machine
open Sys2Proof

/-- The module at cycle `t` with stack `i` changed by `f` of the time. -/
def onStAt (s : State) (i : StackIx) (t : Nat) (f : Nat → Stack → Stack) : Out :=
  let s := s.atCycle t
  .next (s.onStack i (f s.now))

/-! ### The pantry -/

/-- PANTRY_REQUEST_ARRIVE (R161-R163): the pantry request of engine `e` reaches the port of its row. -/
def execPantryRequestArrive (a : CoreAt) (e : Engine) (t : Nat) (s : State) : Out :=
  onSt s a.st (fun x => pantryArrive x a.c.val e t)

/-- PANTRY_WINDOW_CLOSE (R161). -/
def execPantryWindowClose (r : RowAt) (t : Nat) (s : State) : Out := onSt s r.st (fun x => windowClose x r.r.val t)

/-- PANTRY_PORT_ISSUE (R164). -/
def execPantryPortIssue (r : RowAt) (t : Nat) (s : State) : Out := onSt s r.st (fun x => portIssue x r.r.val t)

/-- PANTRY_SLOT_TAKE (R163): the requests that wait take the free slots. -/
def execPantrySlotTake (r : RowAt) (t : Nat) (s : State) : Out := onSt s r.st (fun x => takeSlots r.r.val t x)

/-- PANTRY_SUBBANK_GRANT (R252-R254): sub-bank `k` of row bank `b`. -/
def execPantrySubbankGrant (st : StackIx) (b : RowIx) (k : Fin 16) (u : Upsets) (s : State) : Out :=
  onSt s st (fun x => subbankGrant s.now x b.val k.val u)

/-- GLAZE_DELIVER (R165, R166, R277). -/
def execGlazeDeliver (r : RowAt) (fails : Fin 5) (failing : BitVec 16) (s : State) : Out :=
  onSt s r.st (fun x => glazeDeliver x r.r.val fails.val failing)

/-! ### Vault controllers -/

/-- VAULT_REQUEST_ARRIVE (R237, R241, R592). -/
def execVaultRequestArrive (p : SiteAt) (id : Nat) (t : Nat) (s : State) : Out :=
  onStAt s p.st t (fun now x => vaultArrive now x p.s.val id)

/-- VAULT_GRANT (R240-R247, R255, R305). -/
def execVaultGrant (p : SiteAt) (t : Nat) (u : DramUpsets) (s : State) : Out :=
  onStAt s p.st t (fun now x => vaultGrant now x p.s.val u)

/-- COLUMN_TRANSFER_DONE (R241, R267, R277, R278). -/
def execColumnTransferDone (p : SiteAt) (fails : Fin 5) (failing : BitVec 16) (s : State) : Out :=
  onSt s p.st (fun x => columnDone s.now x p.s.val fails.val failing)

/-- RATE_WINDOW_START (R247). -/
def execRateWindowStart (p : SiteAt) (t : Nat) (s : State) : Out :=
  onStAt s p.st t (fun now x => rateWindow now x p.s.val)

/-- REFRESH_DUE (R248, R249). -/
def execRefreshDue (p : SiteAt) (bank : Fin 16) (layer : Fin 8) (t : Nat) (s : State) : Out :=
  onStAt s p.st t (fun now x => refreshDue now x p.s.val bank.val layer.val)

/-- SLICE_BANK_GRANT (R250). -/
def execSliceBankGrant (a : CoreAt) (b : Fin 16) (u : Upsets) (s : State) : Out :=
  onSt s a.st (fun x => sliceGrant x a.c.val b.val u s.now)

/-! ### Soft repairs -/

/-- SOFT_ROW_REPAIR (R282, R285). -/
def execSoftRowRepair (p : SiteAt) (x : RowFail) (s : State) : Out :=
  onSt s p.st (fun y => softRowRepair s.now y p.s.val x.layer.val x.bank.val x.row.val)

/-- SOFT_GROUP_REPAIR (R283, R285). -/
def execSoftGroupRepair (p : SiteAt) (x : TileFail) (s : State) : Out :=
  onSt s p.st (fun y => softGroupRepair s.now y p.s.val x.layer.val x.group.val)

end Sys2Proof.Machine
end

