-- ==== Sys2Proof/Machine/NbuRows.lean ====
section
/-! DEFINITION. The commands of near-bank units (10). A command presented where its condition does not hold changes
nothing. -/

namespace Sys2Proof.Machine
open Sys2Proof

/-- The effect of a Cipauc command of opcode `op` that has started at stack `st`. -/
def onCmd (s : State) (st : StackIx) (r : CmdRef) (op : Nat) (f : Cmd → Stack → Stack) : Out :=
  onSt s st (fun x => match startedCmd x r with
    | some c => if c.op = op ∧ !c.begun then f c x else x
    | none => x)

/-! ### Units -/

/-- NBU_ENTRY_START (R302, R310, R318-R323). -/
def execNbuEntryStart (p : SiteAt) (s : State) : Out := onSt s p.st (fun y => nbuEntryStart s.now y p.s.val)

/-- NBU_ROW_OP_COMPLETE (R306, R267, R277). -/
def execNbuRowOpComplete (p : SiteAt) (fails : Fin 5) (failing : BitVec 16) (s : State) : Out :=
  onSt s p.st (fun y => nbuComplete s.now y p.s.val fails.val failing)

/-- MATVEC (R313): the started entry places its reads of inputs, scales, initial values and weights and its writes. -/
def execNbuMatvec (p : SiteAt) (x : NbuEntry) (s : State) : Out := onSt s p.st (fun y => nbuRow s.now y p.s.val 0x01 x)

/-- RSUM (R314). -/
def execNbuRsum (p : SiteAt) (x : NbuEntry) (s : State) : Out := onSt s p.st (fun y => nbuRow s.now y p.s.val 0x02 x)

/-- RMIN (R314). -/
def execNbuRmin (p : SiteAt) (x : NbuEntry) (s : State) : Out := onSt s p.st (fun y => nbuRow s.now y p.s.val 0x03 x)

/-- RMAX (R314). -/
def execNbuRmax (p : SiteAt) (x : NbuEntry) (s : State) : Out := onSt s p.st (fun y => nbuRow s.now y p.s.val 0x04 x)

/-- EADD: D + B in place (R312). -/
def execNbuEadd (p : SiteAt) (x : NbuEntry) (s : State) : Out := onSt s p.st (fun y => nbuRow s.now y p.s.val 0x08 x)

/-- EMUL: D × B in place (R312). -/
def execNbuEmul (p : SiteAt) (x : NbuEntry) (s : State) : Out := onSt s p.st (fun y => nbuRow s.now y p.s.val 0x09 x)

/-- EMIN (R312, R144). -/
def execNbuEmin (p : SiteAt) (x : NbuEntry) (s : State) : Out := onSt s p.st (fun y => nbuRow s.now y p.s.val 0x0A x)

/-- EMAX (R312, R144). -/
def execNbuEmax (p : SiteAt) (x : NbuEntry) (s : State) : Out := onSt s p.st (fun y => nbuRow s.now y p.s.val 0x0B x)

/-- EAXPY: D + IMM × B with one rounding (R312). -/
def execNbuEaxpy (p : SiteAt) (x : NbuEntry) (s : State) : Out := onSt s p.st (fun y => nbuRow s.now y p.s.val 0x0C x)

/-- ESCAL: D × IMM (R312). -/
def execNbuEscal (p : SiteAt) (x : NbuEntry) (s : State) : Out := onSt s p.st (fun y => nbuRow s.now y p.s.val 0x0D x)

/-- SCATADD (R315). -/
def execNbuScatadd (p : SiteAt) (x : NbuEntry) (s : State) : Out := onSt s p.st (fun y => nbuRow s.now y p.s.val 0x10 x)

/-- CVT (R316). -/
def execNbuCvt (p : SiteAt) (x : NbuEntry) (s : State) : Out := onSt s p.st (fun y => nbuRow s.now y p.s.val 0x18 x)

/-! ### Commands (R325) -/

/-- The entries of a payload. -/
def nbuPayload (bs : List Byte) : List NbuEntry :=
  (List.range (bs.length / 32)).map (fun i =>
    ⟨word64At bs (32 * i), word64At bs (32 * i + 8), word64At bs (32 * i + 16), word64At bs (32 * i + 24)⟩)

/-- Whether a job is admitted or running on the stack's partition. -/
def jobHeld (s : Stack) : Bool := decide (s.pstate = .admitted ∨ s.pstate = .running ∨ s.pstate = .disabling)

/-- The schedule of vault `v` replaced (R309, R326). -/
def nbuLoadVault (es : List NbuEntry) (line : Nat) (s : Stack) (v : Nat) : Stack :=
  setReg (s.setNbu v { s.nbu v with sched := es }) (rNbuCfg (coreSite s v)) (bv 64 (es.length * 2 ^ 32 + line))

/-- NBU_LOAD. -/
def execNbuLoad (st : StackIx) (c : CmdRef) (s : State) : Out :=
  onCmd s st c 0x0400 (fun k x =>
    let es := nbuPayload k.data
    let v := (k.arg 0).toNat
    let line := (k.arg 1).toNat
    if jobHeld x ∨ (v ≤ 167 ∧ rowRetired x (coreRow v)) then answerCmd s.now x k stState
    else
      let vs := if v = 0xFF then (List.range 168).filter (fun u => !rowRetired x (coreRow u)) else [v]
      answerCmd s.now (vs.foldl (nbuLoadVault es line) x) k stOk)

/-- NBU_RUN: one entry once, with tick 0, member 0 and the seed of the command; answered when it completes. -/
def execNbuRun (st : StackIx) (c : CmdRef) (s : State) : Out :=
  onCmd s st c 0x0401 (fun k x =>
    let v := (k.arg 0).toNat
    let i := (k.arg 1).toNat
    let n := x.nbu v
    if n.run.isSome then x
    else if jobHeld x ∨ rowRetired x (coreRow v) then answerCmd s.now x k stState
    else
      match n.sched[i]? with
      | none => answerCmd s.now x k stInvalidParam
      | some e =>
        if nbuInvalid x e || (nbuZl8 e && decide (fld (reg x rSecLicence) 1 1 = 0)) then answerCmd s.now x k stInvalidParam
        else
          nbuBegin s.now x v { tick := 0, member := 0, seed := k.arg 2, cmd := some c, todo := [i], params := none, job := none,
                               stoch := 0, failed := false })

/-- NBU_GET_STATE. -/
def execNbuGetState (st : StackIx) (c : CmdRef) (s : State) : Out :=
  onCmd s st c 0x0402 (fun k x =>
    let p := coreSite x (k.arg 0).toNat
    reply s.now x k stOk [reg x (rNbuCfg p), nbuStatus x p, reg x (rNbuCount p), reg x (rNbuLog p)] [])

end Sys2Proof.Machine
end

