-- ==== Sys2Proof/Machine/FaultRows.lean ====
section
/-! DEFINITION. The commands of fault collection and repair (16). A command presented where its condition does not hold changes
nothing. -/

namespace Sys2Proof.Machine
open Sys2Proof

/-- The effect on the module of a Cipauc command of opcode `op` that has started at stack `st`. -/
def onCmdAll (s : State) (st : StackIx) (r : CmdRef) (op : Nat) (f : Cmd → State → State) : Out :=
  .next (match startedCmd (s.stack st) r with
    | some c => if c.op = op ∧ !c.begun then f c s else s
    | none => s)

/-- ACT_TICK of a command that has started at stack `st`: the tick of the partition that it names, else of the stack's own (Table 13.1). -/
def targetTick (s : State) (st : StackIx) (c : Cmd) : Word :=
  if c.tkind = 2 then partTick s c.part else actTick (s.stack st)

/-- A command that has started at stack `st` begins work whose end it waits for, and takes effect in the present tick of its target. -/
def beginAll (s : State) (st : StackIx) (c : Cmd) : State :=
  s.onStack st (fun x => beginCmd x c.ref (some (targetTick s st c)))

/-- A command that has started at stack `st` answered. -/
def replyAll (s : State) (st : StackIx) (c : Cmd) (status : Nat) (results : List Word) (data : List Byte) : State :=
  s.onStack st (fun x => replyAt s.now (targetTick s st c) x c status results data false)

/-- FAULT_RECORD_ARRIVE (R513-R522, R525). -/
def execFaultRecordArrive (st : StackIx) (s : State) : Out := .next (faultArrive s st)

/-- ERROR_WIRE (R517). -/
def execErrorWire (st : StackIx) (w : ErrorWire) (s : State) : Out :=
  .next (updateFaultL (s.onStack st (fun x => errorWire x w)))

/-- MIGRATION_COMPLETE (R530, R531). -/
def execMigrationComplete (a : CoreAt) (s : State) : Out :=
  .next (reportGeometry s (s.onStack a.st (fun x => migrationComplete s.now x a.c.val)))

/-- COIL_TEST (R533, R534): each spare switched in gives a new training record (R489). -/
def execCoilTest (p : SiteAt) (x : CoilTest) (s : State) : Out :=
  let s' := s.onStack p.st (fun y => coilTest s.now y p.s.val x)
  let n := fun (t : State) => ((t.stack p.st).vault p.s.val).coilSpares.length
  .next (writeTrainings p.st (n s' - n s) s')

/-- FAULT_READ (R523). -/
def execFaultRead (st : StackIx) (c : CmdRef) (s : State) : Out :=
  onCmd s st c 0x0600 (fun k x =>
    let rs := x.faults.records.filter (fun r => decide ((k.arg 0).toNat ≤ r.seq))
    let out := rs.take (k.arg 1).toNat
    reply s.now x k stOk [bv 64 out.length, bv 64 (rs.length - out.length)] (out.flatMap recordBytes))

/-- FAULT_ACK (R523). -/
def execFaultAck (st : StackIx) (c : CmdRef) (s : State) : Out :=
  onCmdAll s st c 0x0601 (fun k s =>
    let all := decide (k.arg 0 = BitVec.allOnes 64)
    let p := fun (r : Record) => all || decide (r.seq = (k.arg 0).toNat)
    let n := ((s.stack st).faults.records.filter p).length
    if !all ∧ n = 0 then replyAll s st k stInvalidParam [] []
    else replyAll (clearRecords s st all p) st k stOk [bv 64 n] [])

/-- FAULT_INJECT (R526): a second one to the same checker replaces the count. -/
def execFaultInject (st : StackIx) (c : CmdRef) (s : State) : Out :=
  onCmd s st c 0x0602 (fun k x =>
    let key := checkerKey (k.arg 0).toNat (k.arg 1).toNat
    reply s.now { x with inject := tset (fun _ => 0) x.inject key (k.arg 2).toNat } k stOk [] [])

end Sys2Proof.Machine
end

