-- ==== Sys2Proof/Machine/IvtRows.lean ====
section
/-! DEFINITION. The commands of the fabric (12): packets as they reach a router, slots and control symbols of a link, timeouts,
register writes. A packet that is not of the row's type, names another node or comes over a link that is down changes nothing. -/

namespace Sys2Proof.Machine
open Sys2Proof

/-- Whether a packet arrives at its own node over a link that carries packets: a stack without a node ID takes packets of class CMD addressed to
node 0xFFFF (R365). -/
def arrives (s : Stack) (l : Nat) (k : Packet) (ty : PktType) : Bool :=
  decide (k.ty = ty) && linkUp s l && decide (k.dst = nodeId s) && (nodeUsable (nodeId s) || decide (nodeId s = 0xFFFF ∧ pktClass ty = 2))

/-- A packet for the stack itself, with the marks that its slots gave it, its receive buffer freed (R374). -/
def onPacket (s : State) (l : LinkAt) (k : Packet) (ty : PktType) (f : Stack → Packet → Stack) : State :=
  if arrives (s.stack l.st) l.l.val k ty then
    s.onStack l.st (fun x => let r := received x l.l.val k; f r.2 r.1)
  else s

/-- A packet that may complete a transaction of the stack, for which others wait (R441, R505). -/
def onAnswer (s : State) (l : LinkAt) (k : Packet) (ty : PktType) (f : Stack → Packet → Stack) : State :=
  settleJob (onPacket s l k ty f) (s.stack l.st).part

/-- A request for the stack itself; what it asks of the control window is done at once. -/
def onRequest (s : State) (l : LinkAt) (k : Packet) (ty : PktType) : Out :=
  .next (settleControl (onPacket s l k ty (fun x k => requestArrive s.now x l.l.val k)) l.st)

/-! ### Requests -/

/-- RD (R367, R385, R391). -/
def execRd (l : LinkAt) (k : Packet) (s : State) : Out := onRequest s l k .rd

/-- WR (R367, R385, R391). -/
def execWr (l : LinkAt) (k : Packet) (s : State) : Out := onRequest s l k .wr

/-- WRM (R386, R391). -/
def execWrm (l : LinkAt) (k : Packet) (s : State) : Out := onRequest s l k .wrm

/-- ATOM as a packet (R385, R391). -/
def execAtomPacket (l : LinkAt) (k : Packet) (s : State) : Out := onRequest s l k .atom

/-- TOP_ACCESS_COMPLETE (R593, R180, R195); an access of the control window that FENCE held back is done with it (R11, R392). -/
def execTopAccessComplete (st : StackIx) (a : AccessUpsets) (s : State) : Out :=
  .next (settleControl (s.onStack st (fun x => topComplete s.now x a.id a.upsets a.fails.val a.failing)) st)

/-! ### Responses -/

/-- RD_RSP (R387, R389). -/
def execRdRsp (l : LinkAt) (k : Packet) (s : State) : Out :=
  .next (onAnswer s l k .rdRsp (fun x k => responseArrive x k (fun _ => .line (rspLine k))))

/-- WR_ACK (R389). -/
def execWrAck (l : LinkAt) (k : Packet) (s : State) : Out :=
  .next (onAnswer s l k .wrAck (fun x k => responseArrive x k (fun _ => .ack)))

/-- ATOM_RSP (R229, R389). -/
def execAtomRsp (l : LinkAt) (k : Packet) (s : State) : Out :=
  .next (onAnswer s l k .atomRsp (fun x k => responseArrive x k (fun _ => .old (rspOld k).1 (rspOld k).2)))

/-- ERR_RSP (R228, R232, R390, R393). -/
def execErrRsp (l : LinkAt) (k : Packet) (s : State) : Out := .next (onAnswer s l k .errRsp (fun x k => errArrive s.now x k))

/-! ### Node loss -/

/-- NODE_DOWN (R403, R404). -/
def execNodeDown (l : LinkAt) (k : Packet) (s : State) : Out :=
  .next (onAnswer s l k .nodeDown (fun x k => (downNodes k).foldl (nodeDown s.now) x))

/-! ### Multicast -/

/-- MC_WR (R395-R397): a copy waits while the member's receive buffer is full. A copy names a group in DST. -/
def execMcWr (l : LinkAt) (k : Packet) (s : State) : Out :=
  .next (
    let x := s.stack l.st
    if k.ty ≠ .mcWr ∨ !linkUp x l.l.val ∨ nodeId x = 0xFFFF ∨ 4096 ≤ k.dst
        ∨ (groupLocal x k.dst ∧ maxCopies ≤ (x.router.rsps.filter (fun r => r.multicast)).length) then s
    else s.onStack l.st (fun x => let r := received x l.l.val k; mcReplicate s.now r.2 r.1 l.l.val))

/-- MC_ACK (R398). In a base non-transit reset responses are discarded (R405). -/
def execMcAck (l : LinkAt) (k : Packet) (s : State) : Out :=
  .next (onAnswer s l k .mcAck (fun x k => if columnsHeld x then x else mcCover x k.tag k.mlo k.mlo (decide (k.status ≠ stOk))))

/-- MC_DROP (R398). -/
def execMcDrop (l : LinkAt) (k : Packet) (s : State) : Out :=
  .next (onAnswer s l k .mcDrop (fun x k => if columnsHeld x then x else mcCover x k.tag k.mlo k.mhi true))

/-- MC_TIMEOUT (R396). -/
def execMcTimeout (l : LinkAt) (s : State) : Out := onSt s l.st (fun x => mcTimeout s.now x l.l.val)

/-! ### Collectives -/

/-- COLL_UP (R76, R400, R402); the collective engine takes none in a base non-transit reset, and the line waits. -/
def execCollUp (l : LinkAt) (k : Packet) (s : State) : Out :=
  .next (if columnsHeld (s.stack l.st) then s else onPacket s l k .collUp (fun x k => collUpArrive s.now x k))

/-- COLL_DOWN (R400, R401, R402). -/
def execCollDown (l : LinkAt) (k : Packet) (s : State) : Out :=
  .next (if columnsHeld (s.stack l.st) then s else onPacket s l k .collDown (fun x k => collDownArrive s.now x k))

/-! ### Transit -/

/-- PACKET_FORWARD (R365, R368-R370). -/
def execPacketForward (l : LinkAt) (k : Packet) (s : State) : Out :=
  .next (
    let x := s.stack l.st
    if k.ty = .mcWr ∨ !linkUp x l.l.val ∨ k.dst = nodeId x then s
    else s.onStack l.st (fun x => let r := takeReceived x l.l.val k; forwardPacket s.now r.2 l.l.val r.1))

/-! ### Slots and symbols -/

/-- DATA_SLOT_RECEIVE (R373, R376, R383). -/
def execDataSlotReceive (l : LinkAt) (x : WireSlot) (s : State) : Out :=
  .next (onMember s l.st (fun y => slotReceive s.now y l.l.val x))

/-- ACK (R376). -/
def execAck (l : LinkAt) (seq : BitVec 24) (s : State) : Out := onSt s l.st (fun x => ackReceive s.now x l.l.val seq.toNat)

/-- NAK (R376). -/
def execNak (l : LinkAt) (seq : BitVec 24) (s : State) : Out := onSt s l.st (fun x => nakReceive s.now x l.l.val seq.toNat)

/-- CREDIT (R374, R375). -/
def execCredit (l : LinkAt) (cls : Fin 4) (freed : BitVec 16) (s : State) : Out :=
  onSt s l.st (fun x => creditReceive s.now x l.l.val cls.val freed.toNat)

/-- LINK_DOWN (R375, R383): a second copy finds the link down and changes nothing. -/
def execLinkDown (l : LinkAt) (s : State) : Out := .next (onMember s l.st (fun x => linkLost s.now x l.l.val))

/-- LINK_LOCK_LOSS (R383). -/
def execLinkLockLoss (l : LinkAt) (s : State) : Out := .next (onMember s l.st (fun x => linkLost s.now x l.l.val))

/-- LINK_ACK_TIMEOUT (R383): only while data slots are outstanding. -/
def execLinkAckTimeout (l : LinkAt) (s : State) : Out :=
  .next (onMember s l.st (fun x => if (x.link l.l.val).retry = [] then x else linkLost s.now x l.l.val))

/-! ### Timeouts -/

/-- REQ_TIMEOUT (R390, R398). -/
def execReqTimeout (st : StackIx) (tag : BitVec 14) (s : State) : Out := .next (onMember s st (fun x => reqTimeout s.now x tag.toNat))

/-- TAG_REUSE (R390). -/
def execTagReuse (st : StackIx) (tag : BitVec 14) (s : State) : Out := onSt s st (fun x => tagReuse x tag.toNat)

/-! ### Register writes -/

/-- IVT_LOSTn written (R404, R416). -/
def execIvtLostWrite (st : StackIx) (n : Fin 1024) (v : Word) (s : State) : Out := .next (registerWrite s st (rIvtLost n.val) v)

/-- IVT_ROUTEn written (R371, R417). -/
def execIvtRouteWrite (st : StackIx) (n : Fin 4096) (v : Word) (s : State) : Out := .next (registerWrite s st (rIvtRoute n.val) v)

/-- A register written (R12, R14, R15, R591). -/
def execRegisterWrite (st : StackIx) (off : BitVec 24) (v : Word) (s : State) : Out := .next (registerWrite s st off.toNat v)

end Sys2Proof.Machine
end

