-- ==== Sys2Proof/Machine/PowerRows.lean ====
section
/-! DEFINITION. The commands of power and heat (14): the controllers' periods and checks, idle states, sensors, the coolant, and the power
commands of Cipauc. A command presented where its condition does not hold changes nothing. -/

namespace Sys2Proof.Machine
open Sys2Proof

/-- A stack that is powered changed. -/
def onLive (s : State) (st : StackIx) (f : Stack → Stack) : State := if (s.stack st).boot = .off then s else s.onStack st f

/-! ### Controllers -/

/-- CAP_CHECK (R447, R449). -/
def execCapCheck (st : StackIx) (draw : Nat) (s : State) : Out := .next (onLive s st (fun x => capCheck x draw))

/-- OPP_CHANGE_COMPLETE (R449). -/
def execOppChangeComplete (st : StackIx) (s : State) : Out := .next (onLive s st oppComplete)

/-- ACLK_RESTART (R449). -/
def execAclkRestart (st : StackIx) (s : State) : Out := .next (onLive s st aclkRestart)

/-- MERINGUE_ADJUST (R454, R455). -/
def execMeringueAdjust (st : StackIx) (draw : Nat) (s : State) : Out := .next (onLive s st (fun x => meringueAdjust s.now x draw))

/-- ARBITER_PERIOD (R445, R446, R456). -/
def execArbiterPeriod (vin : Nat) (draws : Quad Nat) (s : State) : Out := .next (if s.mc.vin then arbiterPeriod s vin draws else s)

/-- GRANT_ARRIVE (R456, R461): a change of limit ends SIMMER. -/
def execGrantArrive (st : StackIx) (s : State) : Out :=
  .next (onLive s st (fun x =>
    let g := s.mc.grants.get st
    let x := if g = x.power.grant then x else wakeSimmer s.now x
    cutFloor s.now { x with power := { x.power with grant := g } }))

/-- GRANT_WAIT (R457). -/
def execGrantWait (st : StackIx) (s : State) : Out := .next (onLive s st grantWait)

/-! ### Idle states -/

/-- IDLE_CHOOSE (R458-R460). -/
def execIdleChoose (st : StackIx) (next : Option Nat) (s : State) : Out := .next (onLive s st (fun x => idleChoose s.now x next))

/-- IDLE_EXIT_COMPLETE (R461). -/
def execIdleExitComplete (st : StackIx) (s : State) : Out := .next (settleControl (onLive s st (idleExit s.now)) st)

/-! ### Sensors, allowances, forecasts -/

/-- SENSOR_SAMPLE (R248, R466, R468, R474, R590). -/
def execSensorSample (st : StackIx) (x : List SensorSample) (s : State) : Out :=
  .next (if (s.stack st).boot = .off then s
    else
      let old := s.stack st
      x.foldl (sampleEvents old st) (s.onStack st (fun y => cutFloor s.now (sensorSample y x))))

/-- THERMAL_UPDATE (R464, R472-R474): the fleet manager is told of a forecast phase whose allowance lies below the die's draw at P5. -/
def execThermalUpdate (st : StackIx) (x : DiePower) (s : State) : Out :=
  .next (if (s.stack st).boot = .off then s
    else
      let (found, y) := thermalUpdate s.now (s.stack st) x
      (found.filter (fun a => a.low)).foldl (fun s a => sendEvent s (.thermalForecast st.val a.die a.entry.tag a.entry.first)) (s.setStack st y))

/-- GOVERNOR_UPDATE (R465). -/
def execGovernorUpdate (st : StackIx) (s : State) : Out := .next (onLive s st (fun x => cutFloor s.now (governor x)))

/-- THERMAL_MODEL_UPDATE (R472). -/
def execThermalModelUpdate (st : StackIx) (die : Die) (power : Nat) (s : State) : Out :=
  .next (onLive s st (fun x => modelUpdate s.now x (dieCode die) power))

/-- THERMTRIP (R467, R525, R573): the tripping stack turns itself off, the fault is recorded in the stacks that are powered, VIN_PKG goes; the module
stays off until PWR_EN is deasserted and asserted again. -/
def execThermtrip (st : StackIx) (s : State) : Out :=
  .next (if (s.stack st).boot = .off ∧ !(s.stack st).cold then s
    else
      let s := raiseModule (s.onStack st powerOff) fThermtrip
      moduleOff { s with mc := { s.mc with thermtripL := true, thermal := true, input := 5 } })

/-! ### Coolant -/

/-- COOLANT_SAMPLE (R469, R470, R474, R482, R581, R588). -/
def execCoolantSample (x : Coolant) (s : State) : Out := .next (coolantSample s x)

/-- COOLANT_MESSAGE_REPEAT (R474). -/
def execCoolantMessageRepeat (m : Fin 3) (s : State) : Out := .next (repeatMessage s m.val)

/-- COOLANT_DERATE_LIFT (R469). -/
def execCoolantDerateLift (m : Fin 2) (s : State) : Out := .next (derateLift s m.val)

/-- COOLANT_STOP_DEADLINE (R470). -/
def execCoolantStopDeadline (s : State) : Out := .next (stopDeadline s)

/-- COOLANT_HOLD_END (R470). -/
def execCoolantHoldEnd (s : State) : Out := .next (holdEnd s)

/-! ### Commands (Table 13.9) -/

/-- The stacks that a command names: every stack of the module, those of PART, or the stack itself (R434). -/
def targets (s : State) (st : StackIx) (c : Cmd) : List StackIx :=
  if c.tkind = 3 then allStacks else if c.tkind = 2 then partAll s c.part else [st]

/-- The status that target `i` gives a command which its receiver `st` carries out on it over the bridges, before the opcode's own checks (R428,
R442, R462): the receiver has made its own on arrival. -/
def gate (s : State) (st : StackIx) (c : Cmd) (i : StackIx) : Nat :=
  let x := s.stack i
  if i = st then stOk
  else if x.boot = .off then stState
  else if columnsHeld x || busyFor x c.op then stBusy
  else if wrongFor x c.op then stState
  else stOk

/-- The first status other than OK that some target gives. -/
def gates (s : State) (st : StackIx) (c : Cmd) : Nat := (((targets s st c).map (gate s st c)).find? (fun n => n ≠ stOk)).getD stOk

/-- What a command does on its partition, or on the module, as one: nothing where some target refuses it (DESIGN CHOICE, log 119). -/
def asOne (s : State) (st : StackIx) (c : Cmd) (f : State → State) : State :=
  if gates s st c ≠ stOk then replyAll s st c (gates s st c) [] [] else f s

/-- A command carried out on every target in ascending order; the first status other than OK is that of the reply (R434). A stack in COLD or
without power answers STATE (R462). -/
def onTargets (s : State) (ts : List StackIx) (f : StackIx → State → Nat × State) : Nat × State :=
  ts.foldl (fun (a : Nat × State) i =>
    let (st, s) := if (a.2.stack i).boot = .off then (stState, a.2) else f i a.2
    (if a.1 = stOk then st else a.1, s)) (stOk, s)

/-- A command carried out on its targets and answered. -/
def runTargets (s : State) (st : StackIx) (c : Cmd) (f : StackIx → State → Nat × State) : State :=
  let (status, s) := onTargets s (targets s st c) (fun i s => if gate s st c i ≠ stOk then (gate s st c i, s) else f i s)
  replyAll s st c status [] []

/-- SET_LATENCY_TOLERANCE (R459, R461, R478). -/
def execSetLatencyTolerance (st : StackIx) (c : CmdRef) (s : State) : Out :=
  onCmdAll s st c 0x0500 (fun k s => runTargets s st k (fun i s =>
    (stOk, s.onStack i (fun x => setReg x rPwrIdle (setFld (reg x rPwrIdle) 0 32 (min 0xFFFFFFFF (k.arg 0).toNat))))))

/-- The cap of a stack set: at its next tick start, or at once when no job runs (R446); the module controller keeps it (R462). -/
def setCap (s : State) (i : StackIx) (n : Nat) : State :=
  if n = 0 then s
  else
    let s := { s with mc := { s.mc with caps := s.mc.caps.set i n } }
    s.onStack i (fun x =>
      let x := wakeSimmer s.now (setReg x rPwrLimit (setFld (reg x rPwrLimit) 0 10 n))
      cutFloor s.now { x with power := if jobRuns x then { x.power with capNext := some n } else { x.power with cap := n, capNext := none } })

/-- SET_CAP (R434, R445, R446, R476): a value of 0 leaves that setting as it is. -/
def execSetCap (st : StackIx) (c : CmdRef) (s : State) : Out :=
  onCmdAll s st c 0x0501 (fun k s =>
    let b := (k.arg 1).toNat
    let sl := (k.arg 2).toNat
    let s := if k.tkind = 3 then
        { s with mc := { s.mc with budget := if b = 0 then s.mc.budget else b, slope := if sl = 0 then s.mc.slope else sl } }
      else s
    runTargets s st k (fun i s =>
      if k.tkind = 3 then
        (stOk, s.onStack i (fun x => setReg x rPwrLimit (setFld (setFld (reg x rPwrLimit) 48 16 s.mc.budget) 32 16 s.mc.slope)))
      else (stOk, setCap s i (k.arg 0).toNat)))

/-- PWR_OPPn loaded from a payload (R453, R479). -/
def loadOpp (s : Stack) (data : List Byte) : Stack :=
  (List.range 256).foldl (fun s n =>
    let b := fun j => (data.getD (4 * n + j) 0).toNat
    setReg s (rPwrOpp n) (bv 64 (b 2 * 65536 + b 1 * 256 + b 0))) s

/-- PHASE_OPP (R453). -/
def execPhaseOpp (st : StackIx) (c : CmdRef) (s : State) : Out :=
  onCmdAll s st c 0x0502 (fun k s => runTargets s st k (fun i s => (stOk, s.onStack i (fun x => loadOpp x k.data))))

/-- The entries of a PHASE_FORECAST payload, from tick `t` on. -/
def forecastEntries (t : Nat) : List Word → List Forecast
  | [] => []
  | w :: r => ⟨t, fld w 32 32, fld w 0 8⟩ :: forecastEntries (t + fld w 32 32) r

/-- A forecast cut off from tick `t` on. -/
def forecastBefore (t : Nat) (l : List Forecast) : List Forecast :=
  (l.filter (fun e => decide (e.first < t))).map (fun e => { e with ticks := min e.ticks (t - e.first) })

/-- PHASE_FORECAST (R471): what it replaces sets no allowance from its first tick on (R473). -/
def execPhaseForecast (st : StackIx) (c : CmdRef) (s : State) : Out :=
  onCmdAll s st c 0x0503 (fun k s => runTargets s st k (fun i s =>
    let x := s.stack i
    let t := (k.arg 0).toNat
    if !jobRuns x then (stState, s)
    else if t ≤ tickOf x then (stInvalidParam, s)
    else
      let new := forecastEntries t ((List.range (k.data.length / 8)).map (fun j => word64At k.data (8 * j)))
      let ahead := (x.power.ahead.filter (fun e => decide (e.2.1 < t))).map (fun e => (e.1, e.2.1, min e.2.2.1 (t - 1), e.2.2.2))
      (stOk, s.setStack i { x with power := { x.power with forecast := forecastBefore t x.power.forecast ++ new, ahead := ahead } })))

/-- ENTER_COLD (R434, R462): the command answers first, every other command that a target has accepted is answered ABORTED (R430), then the
rails of every target that may go are off. -/
def execEnterCold (st : StackIx) (c : CmdRef) (s : State) : Out :=
  onCmdAll s st c 0x0504 (fun k s =>
    let ts := targets s st k
    let status := fun i => if gate s st k i ≠ stOk then gate s st k i else if (s.stack i).boot = .off ∨ jobHeld (s.stack i) then stState else stOk
    let first := ((ts.map status).find? (fun n => n ≠ stOk)).getD stOk
    let go := ts.filter (fun i => status i = stOk)
    updateFaultL (go.foldl (fun s i => s.onStack i (fun x => coldEntry (abortAccepted s.now x))) (replyAll s st k first [] [])))

end Sys2Proof.Machine
end

