-- ==== Sys2Proof/Machine/CmdRows.lean ====
section
/-! DEFINITION. The command port and the admin commands of Cipauc (13, 15). A command presented where its condition does not hold changes
nothing. -/

namespace Sys2Proof.Machine
open Sys2Proof

/-! ### The port -/

/-- The partitions of the module in use, with the ticks of their jobs. -/
def usedParts (s : State) : Tbl Word := allStacks.map (fun i => ((s.stack i).part, partTick s (s.stack i).part))

/-- A neighbour probe: an IDENTIFY command with DST 0xFFFF and HOPS 1 (R494). -/
def isProbe (k : Packet) : Bool :=
  decide (k.ty = .cmd ∧ k.dst = 0xFFFF ∧ k.addr = 0 ∧ k.hops = 1) && decide (fld (word64At k.data 0) 16 16 = 0x0001)

/-- A request for a firmware image: an FW_FETCH command with DST 0xFFFF and HOPS 1 (R548). -/
def isFetch (k : Packet) : Bool :=
  decide (k.ty = .cmd ∧ k.dst = 0xFFFF ∧ k.addr = 0 ∧ k.hops = 1) && decide (fld (word64At k.data 0) 16 16 = 0x0704)

/-- CMD (R365, R388, R424, R426-R428): a segment addressed to the stack, by its node ID or by 0xFFFF while it has none; a request for an
image (R548) names no node. -/
def execCmd (l : LinkAt) (k : Packet) (s : State) : Out :=
  .next (
    let x := s.stack l.st
    if k.ty ≠ .cmd ∨ !linkUp x l.l.val ∨ (k.dst ≠ nodeId x ∧ !isFetch k) ∨ isProbe k then s
    else s.onStack l.st (fun x =>
      let r := received x l.l.val k
      portSegment hasChecker s.now r.2 (usedParts s) (columnsHeld x) (if isFetch k then l.l.val + 16 else l.l.val) r.1))

/-- CMD_ASSEMBLY_TIMEOUT (R426). -/
def execCmdAssemblyTimeout (st : StackIx) (src : BitVec 16) (tag : BitVec 32) (s : State) : Out :=
  onSt s st (fun x => asmTimeout s.now x (usedParts s) src.toNat tag)

/-- COMMAND_START (R429). -/
def execCommandStart (st : StackIx) (c : CmdRef) (s : State) : Out := onSt s st (fun x => startCmd x c)

/-! ### Admin commands (Table 13.4) -/

/-- The results of IDENTIFY. -/
def identifyWords (x : Stack) : List Word :=
  [reg x rIdPosition, reg x rIdGeometry, reg x rIvtNode, Config.serial, bv 64 (fld (reg x rSecFw) 0 7), bv 64 (fld (reg x rSecLicence) 0 5)]

/-- IDENTIFY. -/
def execIdentify (st : StackIx) (c : CmdRef) (s : State) : Out :=
  onCmd s st c 0x0001 (fun k x => reply s.now x k stOk (identifyWords x) [])

/-- The code of a partition state (Table 13.10). -/
def pstateCode (p : PState) : Nat :=
  match p with | .idle => 0 | .admitted => 1 | .running => 2 | .disabling => 3 | .disabled => 4

/-- GET_STATE. -/
def execGetState (st : StackIx) (c : CmdRef) (s : State) : Out :=
  onCmd s st c 0x0002 (fun k x =>
    reply s.now x k stOk [bv 64 (bootCode x.boot), bv 64 (pstateCode x.pstate * 256 + x.part), tckStatus x, reg x rTckNumber,
      bv 64 x.power.idle, bv 64 (recordsAbove x)] [])

/-- The command that waits for the end of a running reset of stack `st` answered ABORTED: another reset takes over (R430, R500; log 119). -/
def abandonReset (s : State) (st : StackIx) : State :=
  s.onStack st (fun x => match (x.resetting.bind (fun r => r.cmd)).bind (startedCmd x) with
    | some k => answerCmd s.now x k stAborted
    | none => x)

/-- RESET_DOMAIN (R433, R499-R501): domains 1 to 3 answer first, 4 and 5 at their end. -/
def execResetDomain (st : StackIx) (c : CmdRef) (s : State) : Out :=
  onCmdAll s st c 0x0003 (fun k s =>
    let d := (k.arg 0).toNat
    if !resetLets (s.stack st) d then replyAll s st k stBusy [] []
    else if k.flags % 2 = 0 ∧ jobHeld (s.stack st) then replyAll s st k stState [] []
    else
      let tick := targetTick s st k
      let s := if k.flags % 2 = 1 then abortPart (beginAll s st k) st else beginAll s st k
      let s := if d ≤ 3 then replyAll s st { k with acted := some tick } stOk [] [] else s
      startReset (abandonReset s st) st d k.core c)

/-- Steps 1 and 2 of QUIESCE at a stack (R505): a quiesce that runs takes over ABORT when the new one sets it (R506). -/
def quiesceAt (abort all : Bool) (s : State) (i : StackIx) : State :=
  let x := s.stack i
  if x.boot = .off then s
  else
    let q : Quiesce := match x.quiesce with
      | some q => { q with abort := q.abort || abort, all := q.all || all }
      | none => { abort := abort, stage := 0, all := all }
    let s := { s with mc := { s.mc with blue := 1 } }
    let s := withdrawAll (s.setStack i { x with boot := .quiesced, quiesce := some q }) i
    if q.abort then abortPart s i else s

/-- QUIESCE (R434, R505): answered once every target has drained, or with the first status of a target that refuses: STATE of one that is
QUIESCED already or has no power. -/
def execQuiesce (st : StackIx) (c : CmdRef) (s : State) : Out :=
  onCmdAll s st c 0x0004 (fun k s =>
    let ts := targets s st k
    let status := fun i => if gate s st k i ≠ stOk then gate s st k i
      else if (s.stack i).boot = .off ∨ (s.stack i).boot = .quiesced then stState else stOk
    let go := ts.filter (fun i => status i = stOk)
    let tick := targetTick s st k
    let s' := go.foldl (quiesceAt (decide (k.flags % 2 = 1)) (decide (k.tkind = 3))) (beginAll s st k)
    match (ts.map status).find? (fun n => n ≠ stOk) with
    | some e => finishQuiesce (replyAll s' st { k with acted := some tick } e [] [])
    | none => finishQuiesce s')

/-! ### Resets (15) -/

/-- RESET_COMPLETE (R13, R17, R433, R499): a transit reset trains its links again, one of domain 4 or 5 is answered. -/
def execResetComplete (st : StackIx) (d : ResetDomain) (s : State) : Out :=
  onSt s st (fun x =>
    match x.resetting with
    | none => x
    | some r =>
      let hit := match d with
        | .stack => decide (r.domain = 1)
        | .transit => decide (r.domain = 3)
        | .computeDie => decide (r.domain = 4)
        | .core c => decide (r.domain = 5 ∧ r.core = c.val)
      if !hit then x
      else
        let x := { x with resetting := none }
        let x := if r.domain = 1 then { x with bring := { x.bring with since := s.now, stateAt := s.now } } else x
        let x := if r.domain = 3 then transitBack s.now (partnerThere s x) x (r.runs.map (fun e => e.1)) else x
        match r.cmd.bind (startedCmd x) with
        | some k => answerCmd s.now x k stOk
        | none => x)

/-- WATCHDOG_EXPIRY (R500): a base non-transit reset, whatever reset runs; the fault is recorded. -/
def execWatchdogExpiry (st : StackIx) (s : State) : Out :=
  .next (if (s.stack st).boot = .off then s
    else startBase (s.onStack st (fun x => raise x { source := fWatchdog, addr := haController })) st 6)

end Sys2Proof.Machine
end

