-- ==== Sys2Proof/Machine/BulkRows.lean ====
section
/-! DEFINITION. The memory commands of Cipauc (09, 13): WRITE, READ, FILL, COPY, SCRUB and SET_REGION_TAG line by line;
REPAIR_COMMIT entry by entry. A command presented where its condition does not hold changes nothing. -/

namespace Sys2Proof.Machine
open Sys2Proof

/-! ### Lines of a range -/

/-- The addresses of the lines that `n` bytes from address `a` touch, ascending. -/
def rangeLines (a n : Nat) : List Nat := if n = 0 then [] else (List.range ((a + n - 1) / 512 - a / 512 + 1)).map (fun i => (a / 512 + i) * 512)

/-- Whether some line of a range is rejected (R236). -/
def rangeRejected (s : Stack) (a n : Nat) (w : Want) : Bool := (rangeLines a n).any (fun l => localRejected s l w)

/-! ### Shares of a command (R431, R594) -/

/-- What can serve lines, by number, each with its first address and its end: the vaults, the row banks of the pantry, the memories of the cores. -/
def servers : List (Nat × Nat × Nat) :=
  (List.range 168).map (fun v => (v, v * 0x30000000, (v + 1) * 0x30000000))
    ++ (List.range 8).map (fun b => (0x100 + b, 0x4000000000 + b * 0x4800000, 0x4000000000 + (b + 1) * 0x4800000))
    ++ (List.range 168).map (fun c => (0x200 + c, windowBase c, windowBase (c + 1)))

/-- The shares of a range, as (next line, end) by what serves them: the lines that one serves follow one another (R431). -/
def rangeShares (a n : Nat) : Tbl (Nat × Nat) :=
  servers.filterMap (fun e =>
    let lo := max (a / 512 * 512) e.2.1
    let hi := min ((a + n + 511) / 512 * 512) e.2.2
    if lo < hi then some (e.1, lo, hi) else none)

/-- A command that begins to run: its shares of reads and of writes. -/
def beginBulk (s : Stack) (c : CmdRef) (reads writes : Tbl (Nat × Nat)) : Stack :=
  { s with nextId := s.nextId + 1, bulk := s.bulk ++ [⟨s.nextId, c, reads, writes, [], false, 0⟩] }

/-- The run of a command. -/
def bulkOf (s : Stack) (c : CmdRef) : Option BulkRun := s.bulk.find? (fun b => b.cmd = c)

/-- The stack with a run replaced. -/
def putBulk (s : Stack) (b : BulkRun) : Stack := { s with bulk := s.bulk.map (fun x => if x.id = b.id then b else x) }

/-- An access of stack firmware for a run, at rank 5 (Table 8.4). -/
def bulkAccess (now : Nat) (s : Stack) (b : BulkRun) (write : Bool) (a : Nat) (l : Line) (mask : BitVec 512) : Access :=
  { id := s.nextId, origin := .firmware b.id write, kind := if write then .write else .read, addr := a, data := l, mask := if write then mask else 0,
    arrived := now, granted := 0, result := Line.zero, unchecked := false, syn := [], refused := none, done := false }

/-- Whether an access of a run in a direction waits at a vault controller to be granted: each column serves its share one line at a time (R594). -/
def bulkWaits (s : Stack) (p id : Nat) (write : Bool) : Bool := (s.vault p).firm.any (fun a => decide (a.origin = .firmware id write))

/-- The next read of share `k` of run `id` asked for, where none waits. -/
def issueRead (now id : Nat) (s : Stack) (k : Nat) : Stack :=
  match s.bulk.find? (fun b => b.id = id) with
  | none => s
  | some b =>
    match tfind b.reads k with
    | none => s
    | some (a, stop) =>
      match routerSite s a with
      | none => s
      | some p =>
        if bulkWaits s p id false then s
        else
          let x := bulkAccess now s b false a Line.zero 0
          let left := if a + 512 < stop then tput b.reads k (a + 512, stop) else tdel b.reads k
          putBulk { s.setVault p { s.vault p with firm := (s.vault p).firm ++ [x] } with nextId := s.nextId + 1 } { b with reads := left, asked := b.asked + 1 }

/-- The next write of share `k` of run `id` asked for, where none waits and its data is there: `data` gives the line and the byte mask, and the line read
that they come from, which is used up. -/
def issueWrite (now id : Nat) (data : BulkRun → Nat → Option (Line × BitVec 512 × Option Nat)) (s : Stack) (k : Nat) : Stack :=
  match s.bulk.find? (fun b => b.id = id) with
  | none => s
  | some b =>
    match tfind b.writes k with
    | none => s
    | some (a, stop) =>
      match routerSite s a, data b a with
      | some p, some (l, mask, used) =>
        if bulkWaits s p id true then s
        else
          let x := bulkAccess now s b true a l mask
          let left := if a + 512 < stop then tput b.writes k (a + 512, stop) else tdel b.writes k
          putBulk { s.setVault p { s.vault p with firm := (s.vault p).firm ++ [x] } with nextId := s.nextId + 1 }
            { b with writes := left, asked := b.asked + 1, lines := b.lines.filter (fun e => decide (some e.1 ≠ used)) }
      | _, _ => s

/-- Every share of a run served as far as it can be now. -/
def bulkStep (now : Nat) (s : Stack) (b : BulkRun) (data : BulkRun → Nat → Option (Line × BitVec 512 × Option Nat)) : Stack :=
  let s := (b.reads.map (fun e => e.1)).foldl (issueRead now b.id) s
  (b.writes.map (fun e => e.1)).foldl (issueWrite now b.id data) s

/-- Whether a run has nothing left. -/
def bulkOver (b : BulkRun) : Bool := b.reads.isEmpty && b.writes.isEmpty && decide (b.asked = 0)

/-- A memory command presented: it begins with its checks and its shares, `begin`; then each share asks for its next line, and once all are
performed the command ends with `finish`. -/
def runBulk (now : Nat) (s : Stack) (c : CmdRef) (begin_ : Stack → Stack ⊕ (Tbl (Nat × Nat) × Tbl (Nat × Nat)))
    (data : BulkRun → Nat → Option (Line × BitVec 512 × Option Nat)) (finish : Stack → BulkRun → Stack) : Stack :=
  if columnsHeld s then s
  else match bulkOf s c with
  | none =>
    match begin_ s with
    | .inl t => t
    | .inr (r, w) => beginBulk (beginCmd s c) c r w
  | some b =>
    if bulkOver b then finish { s with bulk := s.bulk.filter (fun x => decide (x.id ≠ b.id)) } b
    else bulkStep now s b data

/-- The effect of a memory command of opcode `op` that has started at stack `st`: presented once to begin, and again while its lines are served. -/
def onBulk (s : State) (st : StackIx) (r : CmdRef) (op : Nat) (f : Cmd → Stack → Stack) : Out :=
  onSt s st (fun x => match startedCmd x r with
    | some c => if c.op = op then f c x else x
    | none => x)

/-! ### WRITE, READ (Table 13.5) -/

/-- The bytes of a list from address `a` on that fall in the line at `l`, as a line with its mask. -/
def sliceLine (a : Nat) (bs : List Byte) (l : Nat) : Line × BitVec 512 :=
  let from_ := max a l
  let n := min (a + bs.length) (l + 512) - from_
  (lineOfBytes (List.replicate (from_ - l) 0 ++ (bs.drop (from_ - a)).take n) 0, spanMask (from_ - l) n)

/-- WRITE: whole words clear their marks, part of a word is read, merged and written in the tile (R271, R290). -/
def execWrite (st : StackIx) (c : CmdRef) (s : State) : Out :=
  onBulk s st c 0x0100 (fun k x =>
    let a := (k.arg 0).toNat
    let n := k.data.length
    runBulk s.now x c
      (fun x => if rangeRejected x a n .write then .inl (answerCmd s.now x k stAddrInvalid) else .inr ([], rangeShares a n))
      (fun _ l => let (d, m) := sliceLine a k.data l; some (d, m, none))
      (fun x _ => answerCmd s.now x k stOk))

/-- The words of 32 bytes of reply data that hold a byte of a poisoned word (R293). -/
def poisonedWords (bs : List (Byte × Bool)) : List Nat :=
  (List.range ((bs.length + 31) / 32)).filter (fun i => ((bs.drop (32 * i)).take 32).any (fun b => b.2))

/-- The bytes of the lines that a run has read, in their order, with the poison of their words. -/
def bulkBytes (b : BulkRun) (ls : List Nat) : List (Byte × Bool) :=
  ls.flatMap (fun a =>
    let l := ((b.lines.find? (fun e => e.1 = a)).map (fun e => e.2)).getD Line.zero
    (lineBytes l).zipIdx.map (fun x => (x.1, l.marks.getLsbD (x.2 / 32))))

/-- The reply of a READ, whose lines `b` has read: poisoned words are zeros, and bite once (R293, R420, R422). -/
def finishRead (now : Nat) (k : Cmd) (x : Stack) (b : BulkRun) : Stack :=
  let a := (k.arg 0).toNat
  let n := (k.arg 1).toNat
  let bs := ((bulkBytes b (rangeLines a n)).drop (a % 512)).take n
  let bad := poisonedWords bs
  let data := bs.zipIdx.map (fun b => if bad.contains (b.2 / 32) then 0 else b.1.1)
  match bad with
  | [] => replyAt now (actTick x) x k stOk [] data b.unchecked
  | w :: _ =>
    let x := biteUnit x haController biteReply
    replyAt now (actTick x) x k stPoisoned [0, 0, 0, 0, 0, 0, bv 64 w, bv 64 bad.length] data b.unchecked

/-- READ (R293); SRAM words that it reads may fail their parity (R275). -/
def execRead (st : StackIx) (c : RefUpsets) (s : State) : Out :=
  onBulk s st c.ref 0x0101 (fun k x =>
    let a := (k.arg 0).toNat
    let n := (k.arg 1).toNat
    runBulk s.now (applyUpsets x c.upsets) c.ref
      (fun x => if rangeRejected x a n .read then .inl (answerCmd s.now x k stAddrInvalid) else .inr (rangeShares a n, []))
      (fun _ _ => none)
      (finishRead s.now k))

/-! ### FILL, COPY -/

/-- Whether a line is scratch or data SRAM of a core that is not HALTED. -/
def busyScratch (s : Stack) (a : Nat) : Bool :=
  match place a with
  | .window c o => (match windowPart (coreKind c) o with | .scratch _ => decide ((s.core c).run ≠ .halted) | _ => false)
  | _ => false

/-- Nanoseconds since a command's acceptance. -/
def elapsedNs (now : Nat) (k : Cmd) : Nat := (now - k.at_) * 2 / 5

/-- FILL (R280). -/
def execFill (st : StackIx) (c : CmdRef) (s : State) : Out :=
  onBulk s st c 0x0102 (fun k x =>
    let a := (k.arg 0).toNat
    let n := (k.arg 1).toNat
    runBulk s.now x c
      (fun x =>
        if (rangeLines a n).any (busyScratch x) then .inl (answerCmd s.now x k stState)
        else if rangeRejected x a n .write then .inl (answerCmd s.now x k stAddrInvalid)
        else .inr ([], rangeShares a n))
      (fun _ _ => some (lineOfBytes ((List.replicate 16 (k.data.take 32)).flatten) 0, fullMask, none))
      (fun x _ => reply s.now x k stOk [bv 64 (elapsedNs s.now k)] []))

/-- COPY (R290, R594): each line is written after it has been read and keeps its marks; a poisoned word stored in a PROTECTED region bites; SRAM
reads may fail their parity (R275). -/
def execCopy (st : StackIx) (c : RefUpsets) (s : State) : Out :=
  onBulk s st c.ref 0x0103 (fun k x =>
    let a := (k.arg 0).toNat
    let b := (k.arg 1).toNat
    let n := (k.arg 2).toNat
    runBulk s.now (applyUpsets x c.upsets) c.ref
      (fun x =>
        if rangeRejected x a n .read || rangeRejected x b n .write then .inl (answerCmd s.now x k stAddrInvalid)
        else .inr (rangeShares a n, rangeShares b n))
      (fun r l => (r.lines.find? (fun e => e.1 = l - b + a)).map (fun e => (e.2, fullMask, some e.1)))
      (fun x _ => answerCmd s.now x k stOk))

/-! ### SCRUB, SET_REGION_TAG (R270, R287, R288) -/

/-- The lines of a vault, 0 to 1,572,863, that a range of the vault area covers: first and end. -/
def vaultSpan (a n v : Nat) : Nat × Nat :=
  let lo := max (a / 512) (v * 1572864)
  let hi := min ((a + n) / 512) ((v + 1) * 1572864)
  (lo - v * 1572864, hi - v * 1572864)

/-- Regions of vault `v` in a mask whose tag differs from the one asked for. -/
def changingRegions (s : Stack) (v : Nat) (mask : BitVec 12) (compute : Bool) : List Nat :=
  (List.range 12).filter (fun j => mask.getLsbD j && (tagsOf s v).getLsbD j != compute)

/-- The 192 bytes of Table 9.6. -/
def scrubSummary (now : Nat) (k : Cmd) (t : TileRun) (next : Nat) : List Byte :=
  natBytes 8 t.checked ++ natBytes 8 t.corrected ++ natBytes 8 t.bad ++ natBytes 8 t.poisoned ++ natBytes 8 t.skipped
    ++ natBytes 8 (elapsedNs now k) ++ natBytes 8 next ++ natBytes 8 0
    ++ ((List.range 16).flatMap (fun i => natBytes 8 (t.found.getD i (2 ^ 64 - 1))))

/-- A number put into an ascending list of at most 16. -/
def insertLow (n : Nat) (l : List Nat) : List Nat := (l.filter (fun x => decide (x < n)) ++ [n] ++ l.filter (fun x => decide (n < x))).take 16

/-- A run of nothing yet. -/
def TileRun.of (cmd : CmdRef) (retag : Option Bool) (left : Tbl (Nat × Nat)) (regions : BitVec 12) : TileRun :=
  ⟨cmd, retag, left, regions, 0, 0, 0, 0, 0, [], [], [], []⟩

/-- The rows in which a scrub found corrected words, per vault: those of two successive scrubs are to be repaired (R285). -/
def scrubRows (s : Stack) (k : Cmd) (t : TileRun) (v : Nat) : Stack :=
  let p := coreSite s v
  let (lo, hi) := vaultSpan (k.arg 0).toNat (k.arg 1).toNat v
  let done := match tfind t.left v with | some (n, _) => n | none => hi
  let rows := ((t.groups.filter (fun g => decide (g.1 = v))).map (fun g => g.2.2.2)).eraseDups
  let old := (s.vault p).scrubbed
  let s := (rows.filter old.contains).foldl (fun s r => wantRepair s p (rowRepair (r * 512))) s
  s.setVault p { s.vault p with scrubbed := old.filter (fun r => decide (r < lo ∨ done ≤ r)) ++ rows }

/-- The command of a run answered: a SCRUB with its summary, PARTIAL where lines are left. -/
def finishTiles (now : Nat) (s : Stack) (t : TileRun) : Stack :=
  match startedCmd s t.cmd with
  | none => { s with tiles := s.tiles.filter (fun x => decide (x.cmd ≠ t.cmd)) }
  | some k =>
    let s := { s with tiles := s.tiles.filter (fun x => decide (x.cmd ≠ t.cmd)) }
    match t.retag with
    | some _ => answerCmd now s k stOk
    | none =>
      let a := (k.arg 0).toNat
      let n := (k.arg 1).toNat
      let s := (List.range 168).foldl (fun s v => if (vaultSpan a n v).1 < (vaultSpan a n v).2 then scrubRows s k t v else s) s
      let next := match t.left with
        | [] => a + n
        | _ => (t.left.map (fun e => vaultLine e.1 e.2.1)).foldl min (a + n)
      reply now s k (if t.left = [] then stOk else stPartial) [] (scrubSummary now k t next)

/-- SCRUB: a range of no line ends at once. -/
def execScrub (st : StackIx) (c : CmdRef) (s : State) : Out :=
  onCmd s st c 0x0104 (fun k x =>
    let a := (k.arg 0).toNat
    let n := (k.arg 1).toNat
    let left := ((List.range 168).map (fun v => (v, vaultSpan a n v))).filter (fun e => decide (e.2.1 < e.2.2))
    let t := TileRun.of c none left 0
    if left = [] then finishTiles s.now x t else { beginCmd x c with tiles := x.tiles ++ [t] })

/-- SET_REGION_TAG: a region that has the tag already is left as it is. -/
def execSetRegionTag (st : StackIx) (c : CmdRef) (s : State) : Out :=
  onCmd s st c 0x0105 (fun k x =>
    let v := (k.arg 0).toNat
    let mask : BitVec 12 := bv 12 (k.arg 1).toNat
    let tag := decide ((k.arg 2).toNat = 1)
    let vs := if v = 0xFF then List.range 168 else [v]
    let left := vs.filterMap (fun v => (changingRegions x v mask tag).head?.map (fun j => (v, (j * 131072, 1572864))))
    let t := TileRun.of c (some tag) left mask
    if left = [] then finishTiles s.now x t else { beginCmd x c with tiles := x.tiles ++ [t] })

/-- GET_REGION_TAG. -/
def execGetRegionTag (st : StackIx) (c : CmdRef) (s : State) : Out :=
  onCmd s st c 0x0106 (fun k x => reply s.now x k stOk [] ((List.range 168).flatMap (fun v => natBytes 2 (tagsOf x v).toNat)))

/-! ### In-tile row operations -/

/-- The column group in which a corrected word's error lies: 64 data bits, 4 check bits of a word per group (R281). -/
def errorGroup (w : Nat) (syn : BitVec 16) : Option Nat :=
  match hdList.findIdx? (fun h => h = syn) with
  | some i => some (4 * w + i / 64)
  | none => ((List.range 16).find? (fun k => decide (syn = 1#16 <<< k))).map (fun k => 4 * w + k / 4)

/-- One word of a scrubbed line counted. -/
def scrubWord (v a : Nat) (syn : List (BitVec 16)) (t : TileRun) (w : Nat) : TileRun :=
  let y := syn.getD w 0
  let t := { t with checked := t.checked + 1 }
  match (decodeWord 0 y).2.2 with
  | .clean => t
  | .poisonSeen => { t with poisoned := t.poisoned + 1 }
  | .uncorrectable => { t with bad := t.bad + 1, found := insertLow (a + 32 * w) t.found }
  | .corrected =>
    let t := { t with corrected := t.corrected + 1 }
    match errorGroup w y with
    | some g => { t with groups := t.groups ++ [(v, lineLayer (a % 0x30000000 / 512), g, a % 0x30000000 / 512)] }
    | none => t

/-- Groups of one tile in which a scrub has found errors in 8 or more rows are to be repaired, decided once for each scrub (R285). -/
def wantGroups (s : Stack) (v : Nat) (t : TileRun) : Stack × TileRun :=
  let p := coreSite s v
  let keys := ((t.groups.filter (fun g => decide (g.1 = v))).map (fun g => (g.2.1, g.2.2.1))).eraseDups
  let new := keys.filter (fun e => !t.decided.contains (v, e.1, e.2) &&
    decide (8 ≤ ((t.groups.filter (fun g => decide (g.1 = v ∧ g.2.1 = e.1 ∧ g.2.2.1 = e.2))).map (fun g => g.2.2.2)).eraseDups.length))
  (new.foldl (fun s e => wantRepair s p ⟨true, e.1, 0, 0, e.2, 0⟩) s, { t with decided := t.decided ++ new.map (fun e => (v, e.1, e.2)) })

/-- One line scrubbed in its tile (R287): a corrected word is written back, an uncorrectable one is marked. -/
def scrubLine (s : Stack) (v l : Nat) (t : TileRun) : Stack × TileRun :=
  let a := vaultLine v l
  match holding s a with
  | .coded =>
    let (syn, s) := decodeRow s (coreSite s v) a
    let t := (List.range 16).foldl (scrubWord v a syn) t
    let raw := rawLine s a
    let dec := fun w => decodeWord (wordOf raw w) (syn.getD w 0)
    let mark := fun w => match (dec w).2.2 with
      | .corrected => 0
      | .uncorrectable => 0xFFFF#16
      | _ => markOf s (a / 32 + w)
    wantGroups (putLine s a (joinWords (fun w => (dec w).1)) mark) v t
  | _ => (s, { t with skipped := t.skipped + 16 })

/-- One line re-encoded in its tile (R270). Under its new tag a word's mark is 0 or that of poison. -/
def retagLine (s : Stack) (v l : Nat) : Stack :=
  let a := vaultLine v l
  match holding s a with
  | .coded =>
    let (syn, s) := decodeRow s (coreSite s v) a
    let raw := rawLine s a
    let dec := fun w => decodeWord (wordOf raw w) (syn.getD w 0)
    putLine s a (joinWords (fun w => (dec w).1)) (fun w => if (dec w).2.1 then 0xFFFF#16 else 0)
  | _ => putLine s a (rawLine s a) (fun w => if markOf s (a / 32 + w) = 0xFFFF#16 then 0xFFFF#16 else 0)

/-- The line that a re-encoding of a vault goes to after line `l`, and the tags of the vault: at the end of a region its tag changes. -/
def nextRetag (s : Stack) (v l : Nat) (mask : BitVec 12) (tag : Bool) : Stack × Option Nat :=
  if (l + 1) % 131072 ≠ 0 then (s, some (l + 1))
  else
    let j := l / 131072
    let w := tagsOf s v
    let s := { s with tags := tset (fun _ => 0) s.tags v (if tag then w ||| (1#12 <<< j) else w &&& ~~~(1#12 <<< j)) }
    (s, ((changingRegions s v mask tag).find? (fun i => decide (j < i))).map (fun i => i * 131072))

/-- Whether a SCRUB's time limit is reached. -/
def scrubLate (now : Nat) (s : Stack) (t : TileRun) : Bool :=
  match t.retag, startedCmd s t.cmd with
  | none, some k => decide ((k.arg 2).toNat ≠ 0 ∧ (k.arg 2).toNat * cyclesUs ≤ now - k.at_)
  | _, _ => false

/-- Whether a row operation of SCRUB or SET_REGION_TAG writes its row back (R270, R287). -/
def tileWrites (s : Stack) (v l : Nat) (t : TileRun) : Bool :=
  t.retag.isSome || (lineSyn s (vaultLine v l)).any (fun y => match (decodeWord 0 y).2.2 with | .corrected => true | .uncorrectable => true | _ => false)

/-- IN_TILE_ROW_OP_DONE at the vault that site `p` serves: the first command that has a line left there does it, once its row command can be
granted; the bank is busy for 100 cycles, or 180 when the row is written back (R240, R247, R270, R287). -/
def tileOp (now : Nat) (s : Stack) (p : Nat) (u : DramUpsets) : Stack :=
  match siteCore s p with
  | none => s
  | some v =>
    match s.tiles.find? (fun t => (tfind t.left v).isSome) with
    | none => s
    | some t =>
      match tfind t.left v with
      | none => s
      | some (l, hi) =>
        let f := flipDram s u
        let a := vaultLine v l
        let since := (tfind t.since v).getD (now - 2)
        match (if t.retag.isNone ∧ holding f a ≠ .coded then some f else tileRow now f p a (if tileWrites f v l t then 180 else 100) since) with
        | none => { s with tiles := s.tiles.map (fun x => if x.cmd = t.cmd then { x with since := tput x.since v since } else x) }
        | some s =>
        let t := { t with since := tput t.since v now }
        let put := fun (s : Stack) (t : TileRun) => { s with tiles := s.tiles.map (fun x => if x.cmd = t.cmd then t else x) }
        let (s, t) := match t.retag with
          | none =>
            let (s, t) := scrubLine s v l t
            (s, { t with left := if l + 1 < hi then tput t.left v (l + 1, hi) else tdel t.left v })
          | some tag =>
            let (s, next) := nextRetag (retagLine s v l) v l t.regions tag
            (s, { t with left := match next with | some n => tput t.left v (n, hi) | none => tdel t.left v })
        if t.left = [] || scrubLate now s t then finishTiles now (put s t) t else put s t

/-- IN_TILE_ROW_OP_DONE. -/
def execInTileRowOpDone (p : SiteAt) (u : DramUpsets) (s : State) : Out :=
  onSt s p.st (fun x => if columnsHeld x then x else tileOp s.now x p.s.val u)

/-! ### REPAIR_COMMIT (R286) -/

/-- Entries that OTP of a vault holds at most (R281). -/
def fuseRoom : Nat := 512

/-- Soft entries of the vaults `vs` in ascending order, as far as fuse room goes: (site, entry, repair); and how many stay soft. -/
def commitPlan (s : Stack) (vs : List Nat) : List (Nat × Nat × Repair) × Nat :=
  let per := vs.map (fun v =>
    let p := coreSite s v
    let es := (List.range 256).filterMap (fun n =>
      let w := reg s (rVltSoftRepair p n)
      if fld w 63 1 = 1 then
        some (p, n, (⟨decide (fld w 62 1 = 1), fld w 45 3, fld w 41 4, fld w 27 14, fld w 15 6, fld w 0 5⟩ : Repair))
      else none)
    let room := fuseRoom - (s.vault p).fuses.length
    (es.take room, es.length - min es.length room))
  (per.flatMap (fun e => e.1), (per.map (fun e => e.2)).foldl (· + ·) 0)

/-- The answer of a REPAIR_COMMIT. -/
def finishCommit (now : Nat) (s : Stack) (r : CommitRun) : Stack :=
  let s := { s with commit := none }
  match startedCmd s r.cmd with
  | none => s
  | some k => reply now s k (if r.left = 0 then stOk else stPartial) [bv 64 r.burned, bv 64 r.left] []

/-- REPAIR_COMMIT: its burns follow, one FUSE_BURN each. -/
def execRepairCommit (st : StackIx) (c : CmdRef) (s : State) : Out :=
  onCmd s st c 0x0107 (fun k x =>
    let v := (k.arg 0).toNat
    let (es, left) := commitPlan x (if v = 0xFF then List.range 168 else [v])
    if x.commit.isSome then x
    else if es = [] then finishCommit s.now x ⟨c, 0, left⟩
    else { beginCmd x c with burns := x.burns ++ es.map (fun e => Burn.repair e.1 e.2.1 e.2.2), commit := some ⟨c, 0, left⟩ })

end Sys2Proof.Machine
end

