-- ==== Sys2Proof/Machine/JobRows.lean ====
section
/-! DEFINITION. The job and partition commands of Cipauc (02, 06, 13). A command presented where its condition does not hold changes
nothing. -/

namespace Sys2Proof.Machine
open Sys2Proof

/-! ### LOAD_IMEM (R195-R197, R201, R439) -/

/-- Instruction memory of a core written by LOAD_IMEM (R197). -/
def loadImem (s : Stack) (c o : Nat) (restart : Bool) (data : List Byte) : Stack :=
  let k := s.core c
  let k := if restart then { k with valid := 0, image := [], gen := 0 } else k
  let first := o / 512
  let last := (o + data.length - 1) / 512
  let bs := data ++ List.replicate ((last + 1) * 512 - (o + data.length)) 0
  let lines := (List.range (last + 1 - first)).map (fun i => first + i)
  let s := lines.foldl (fun s l => writeLine s (imemAddr c (512 * l)) (lineOfBytes ((bs.drop (512 * (l - first))).take 512) 0) fullMask) s
  s.setCore c { k with valid := lines.foldl (fun v l => v ||| (1#512 <<< l)) k.valid, gen := k.gen + 1, image := k.image ++ u32str o ++ data }

/-- LOAD_IMEM: an ADMITTED job of the partition is withdrawn (R439). -/
def execLoadImem (st : StackIx) (c : CmdRef) (s : State) : Out :=
  onCmdAll s st c 0x0200 (fun k s =>
    let x := s.stack st
    let o := (k.arg 0).toNat
    let n := k.data.length
    if rowRetired x (coreRow k.core) then replyAll s st k stState [] []
    else if (x.core k.core).run ≠ .halted ∨ (x.core k.core).participating then replyAll s st k stImemBusy [] []
    else if o % 512 ≠ 0 ∨ n = 0 ∨ n % 16 ≠ 0 ∨ imemLines (coreKind k.core) * 512 < o + n then replyAll s st k stInvalidParam [] []
    else
      let s := s.onStack st (fun x => loadImem x k.core o (decide (k.flags % 2 = 1)) k.data)
      replyAll (withdrawAll s st) st k stOk [] [])

/-! ### JOB_ADMIT, DOMAIN_JOIN (R436-R438) -/

/-- JOB_ADMIT. -/
def execJobAdmit (st : StackIx) (c : CmdRef) (s : State) : Out :=
  onCmdAll s st c 0x0201 (fun k s => asOne s st k (fun s =>
    match admitStatus s k.part k.data with
    | some e => replyAll s st k e [] []
    | none => replyAll (admitPorts (s.onStacks (partStacks s k.part) (admitStack k.data))) st k stOk [] []))

/-- A stack as a member of a tick domain (R51, R79, R399). -/
def joinDomain (s : Stack) (id ix : Nat) (members : List Nat) (entries : List (List Word)) : Stack :=
  let w := bv 64 (id * 2 ^ 48 + one (decide (ix = 0)) (2 ^ 47) + members.length * 2 ^ 32 + ix * 2 ^ 16 + members.getD 0 0)
  setReg { s with tick := { s.tick with joined := true, members := members, entries := entries } } rTckDomain w

/-- DOMAIN_JOIN. -/
def execDomainJoin (st : StackIx) (c : CmdRef) (s : State) : Out :=
  onCmd s st c 0x0202 (fun k x =>
    let ix := (k.arg 2).toNat
    if x.pstate ≠ .admitted ∨ x.tick.joined then answerCmd s.now x k stState
    else if (joinMembers k).getD ix 0xFFFF ≠ nodeId x then answerCmd s.now x k stInvalidParam
    else answerCmd s.now (joinDomain x (k.arg 0).toNat ix (joinMembers k) (joinEntries k)) k stOk)

/-! ### JOB_START, JOB_ABORT (R59, R70, R437, R439) -/

/-- A participating core as JOB_START leaves it (R148, R182, R191, R202, R208). -/
def startCore (s : Stack) (c : Nat) : Stack :=
  s.onCore c (fun k => { k with
    run := if k.run = .halted then .running else k.run
    participating := true
    pc := codeEntry s c
    phase := 0, nextPhase := 0, loops := [], seqCur := none, seqGate := none, seqStopped := false, seqStall := false, seqHold := false
    halting := false, stoch := 0, flags := 0, flagsSet := 0, flagsTaken := 0, flagsWere := 0, mx := [], vx := [], sx := [], ld := [], st := [], nl := [], fx := [], dqs := [], tickEnd := false
    signals := [], sramPoison := 0, nlIn := [LinkIn.empty, LinkIn.empty, LinkIn.empty, LinkIn.empty] })

/-- JOB_START at a stack: every core's queues are cleared (R208), the cores of P are RUNNING and wait for tick 0; where an ABORT came before, the job ends again (R70). -/
def startMember (now : Nat) (s : Stack) : Stack :=
  let s := (maskCores s.tick.mask).foldl startCore { s with cores := s.cores.map (fun e => (e.1, { e.2 with dqs := [] })) }
  let s := { s with
    pstate := .running
    rows := s.rows.map (fun e => (e.1, { e.2 with flags := 0, flagOps := [], flagTest := none }))
    faults := { s.faults with job := s.faults.job + 1 }
    router := { s.router with coll := [] }
    nbus := s.nbus.map (fun e => (e.1, { e.2 with ran := false }))
    tick := { s.tick with phase := .starting, ownStart := true } }
  if s.tick.ending then endMember now s else tryStart now s

/-- JOB_START: answered when the job ends. Where no stack of the partition has joined a domain, its stacks form one (R437). -/
def execJobStart (st : StackIx) (c : CmdRef) (s : State) : Out :=
  onCmdAll s st c 0x0203 (fun k s => asOne s st k (fun s =>
    let sts := partStacks s k.part
    let n := (sts.filter (fun i => (s.stack i).tick.joined)).length
    if sts.any (fun i => decide ((s.stack i).pstate ≠ .admitted)) ∨ (0 < n ∧ n < sts.length) then replyAll s st k stState [] []
    else
      let nodes := sts.map (fun i => nodeId (s.stack i))
      let s := if n = 0 then
          (sts.zipIdx).foldl (fun s e => s.onStack e.1 (fun x => joinDomain x 0xFFFF e.2 nodes [])) s
        else s
      let s := s.onStack st (fun x => beginCmd x c)
      settleJob (s.onStacks sts (startMember s.now)) k.part))

/-- JOB_ABORT: an ADMITTED partition is IDLE at once; a running job ends under R70, and the command is answered then. -/
def execJobAbort (st : StackIx) (c : CmdRef) (s : State) : Out :=
  onCmdAll s st c 0x0204 (fun k s => asOne s st k (fun s =>
    match partStacks s k.part with
    | [] => replyAll s st k stState [] []
    | i :: _ =>
      if (s.stack i).pstate = .admitted then replyAll (withdrawAll s i) st k stOk [] []
      else if (partStacks s k.part).any (fun j => jobRuns (s.stack j)) then abortPart (s.onStack st (fun x => beginCmd x c)) i
      else replyAll s st k stState [] []))

/-! ### Partitions (R435, R440-R443) -/

/-- PARTITION_SET: it carries the map to every stack, or to none (log 119). -/
def execPartitionSet (st : StackIx) (c : CmdRef) (s : State) : Out :=
  onCmdAll s st c 0x0205 (fun k s => asOne s st k (fun s =>
    let p := (k.arg 0).toNat
    let used := (mapParts p).foldl max 0 + 1
    if licensedParts (s.stack st) < used then replyAll s st k stNotLicensed [] []
    else if allStacks.any (fun i => jobHeld (s.stack i)) then replyAll s st k stState [] []
    else
      let old := s
      let off := (mapParts p).zip allStacks |>.filter (fun e => decide ((old.stack e.2).pstate = .disabled))
      let s := ((mapParts p).zip allStacks).foldl (fun s e => s.onStack e.2 (fun x =>
        { x with part := e.1, pstate := if off.any (fun d => decide (d.1 = e.1)) then .disabled else .idle })) s
      replyAll s st k stOk [] []))

/-- PARTITION_DISABLE: graceful, it waits for a running job; immediate, it ends the job and clears the partition (R440, R441, R443). -/
def execPartitionDisable (st : StackIx) (c : CmdRef) (s : State) : Out :=
  onCmdAll s st c 0x0206 (fun k s => asOne s st k (fun s =>
    match partStacks s k.part with
    | [] => replyAll s st k stState [] []
    | i :: _ =>
      let sts := partStacks s k.part
      let now_ := decide (k.flags % 2 = 1)
      let p := (s.stack i).pstate
      if !now_ ∧ (p = .disabling ∨ p = .disabled) then replyAll s st k stState [] []
      else
        let s := withdrawAll s i
        let busy := sts.any (fun j => jobRuns (s.stack j))
        if !now_ ∧ !busy then replyAll (s.onStacks sts (fun x => { x with pstate := .disabled })) st k stOk [0] []
        else
          let s := s.onStacks sts (fun x => { x with pstate := .disabling, immediate := x.immediate || now_ })
          let s := beginAll s st k
          settleJob (if now_ then abortPart s i else s) k.part))

/-- PARTITION_ENABLE: BUSY while the partition is DISABLING, by whichever stack the command came (R442, R443). -/
def execPartitionEnable (st : StackIx) (c : CmdRef) (s : State) : Out :=
  onCmdAll s st c 0x0207 (fun k s => asOne s st k (fun s =>
    let sts := partStacks s k.part
    if sts.any (fun i => decide ((s.stack i).pstate = .disabling)) then replyAll s st k stBusy [] []
    else if sts = [] ∨ sts.any (fun i => decide ((s.stack i).pstate ≠ .disabled)) then replyAll s st k stState [] []
    else replyAll (s.onStacks sts (fun x => { x with pstate := .idle })) st k stOk [] []))

end Sys2Proof.Machine
end

