-- ==== Sys2Proof/Machine/TrustRows.lean ====
section
/-! DEFINITION. The commands of trust (17): images, leaves, attestation, licences, fuse burns. A command presented where its condition does
not hold changes nothing. -/

namespace Sys2Proof.Machine
open Sys2Proof

/-! ### Fuses (R543, R559) -/

/-- SEC_FUSE as OTP holds it; OPENED stays (R559). -/
def loadFuses (x : Stack) : Stack :=
  let t := x.trust
  let w := reg x rSecFuse
  setReg x rSecFuse (bv 64 (fld w 63 1 * 2 ^ 63 + t.epoch * 2 ^ 32 + t.lfuse * 2 ^ 16 + t.revoke * 2 ^ 8 + t.svn))

/-- The counts above `n` up to `m`, one per fuse to burn. -/
def countsTo (n m : Nat) : List Nat := (List.range (m - n)).map (fun i => n + 1 + i)

/-- Burns that a stack owes to the image that it runs (R547). -/
def imageBurns (x : Stack) : List Burn :=
  let l := (countsTo x.trust.svn (min 64 (imageSvn x.trust.run))).map Burn.svn
    ++ (countsTo x.trust.revoke (min 32 (imageRevoke x.trust.run))).map Burn.revoke
  l.filter (fun b => !x.burns.contains b)

/-- The RUN image of stack `i` to be written into module flash after every write in progress or waiting, so that flash comes to hold the image
activated last (R549). -/
def queueFlash (s : State) (i : StackIx) : State :=
  let q := s.mc.flashQueue
  if q = [] ∧ !s.mc.flashOpen ∧ (s.stack i).trust.run = s.mc.flash then s
  else { s with mc := { s.mc with flashQueue := q.take 1 ++ (q.drop 1).filter (fun j => decide (j ≠ i.val)) ++ [i.val] } }

/-- A stack enters READY: the fuses follow its image, module flash is to hold an image that was activated (R547, R549), and an FW_ACTIVATE that
has begun here is answered (R535). -/
def enterReady (s : State) (i : StackIx) : State :=
  let x := s.stack i
  let s := s.setStack i { x with boot := .ready, burns := x.burns ++ imageBurns x, trust := { x.trust with activated := false } }
  let s := s.onStack i (fun x => (x.port.started.filter (fun c => decide (c.op = 0x0703) && c.begun)).foldl (fun x c => answerCmd s.now x c stOk) x)
  if x.trust.activated then queueFlash s i else s

/-- Every LICENCE_INSTALL that waits for its burns answered once no stack has a licence fuse left to burn (R556). -/
def settleLicence (s : State) : State :=
  let busy := allStacks.any (fun i => (s.stack i).burns.any (fun b => match b with | .lfuse _ => true | _ => false))
  if busy then s
  else allStacks.foldl (fun s i => s.onStack i (fun x =>
    match x.trust.installing with
    | none => x
    | some r =>
      let x := { x with trust := { x.trust with installing := none } }
      match startedCmd x r with
      | some k => answerCmd s.now x k stOk
      | none => x)) s

/-- A burn of OTP done at a stack. -/
def burnDone (now : Nat) (x : Stack) (b : Burn) : Stack :=
  match b with
  | .site p => siteBurnt now x p
  | .repair p n r =>
    let v := x.vault p
    let x := updateSpares (setReg (x.setVault p { v with fuses := v.fuses ++ [r] }) (rVltSoftRepair p n) 0) p
    match x.commit with
    | none => x
    | some c =>
      let c := { c with burned := c.burned + 1 }
      if x.burns.any (fun b => match b with | .repair _ _ _ => true | _ => false) then { x with commit := some c } else finishCommit now x c
  | .epoch n =>
    let x := loadFuses { x with trust := { x.trust with epoch := max n x.trust.epoch } }
    setReg x rSecFuse (setFld (reg x rSecFuse) 63 1 1)
  | .svn n => loadFuses { x with trust := { x.trust with svn := max n x.trust.svn } }
  | .revoke n => loadFuses { x with trust := { x.trust with revoke := max n x.trust.revoke } }
  | .lfuse n => loadFuses { x with trust := { x.trust with lfuse := max n x.trust.lfuse } }

/-- FUSE_BURN: the oldest burn of the stack completes, and what waits for it goes on (R43, R286, R497, R529, R547, R552, R556). -/
def execFuseBurn (st : StackIx) (s : State) : Out :=
  .next (
    let x := s.stack st
    match x.burns with
    | [] => s
    | b :: rest =>
      if x.boot = .off ∨ columnsHeld x then s
      else settleLicence (reportGeometry s (s.setStack st (burnDone s.now { x with burns := rest } b))))

/-! ### Images (R548, R549, R535) -/

/-- A chunk staged at offset `o` of `n` bytes: the status, and the stack (R549). -/
def stageChunk (x : Stack) (o n : Nat) (last : Bool) (data : List Byte) : Nat × Stack :=
  let t := x.trust
  let held := if o = 0 then [] else t.stage
  if n < 4096 ∨ 0x1000000 < n ∨ (o ≠ 0 ∧ (o ≠ held.length ∨ n ≠ t.stageLen)) ∨ n < o + data.length ∨ (last ∧ o + data.length ≠ n) then
    (stInvalidParam, x)
  else
    let bs := held ++ data
    if !last then (stOk, { x with trust := { t with stage := bs, stageLen := n, verified := false } })
    else
      let e := imageStatus t.svn t.revoke bs
      (e, { x with trust := if e = stOk then { t with stage := bs, stageLen := n, verified := true }
                            else { t with stage := [], stageLen := 0, verified := false } })

/-- FW_STAGE. -/
def execFwStage (st : StackIx) (c : CmdRef) (s : State) : Out :=
  onCmd s st c 0x0702 (fun k x =>
    let (e, x) := stageChunk x (k.arg 0).toNat (k.arg 1).toNat (decide (k.flags % 2 = 1)) k.data
    answerCmd s.now x k e)

/-- An image put into RUN: SEC_FW shows it (R560). -/
def runImage (x : Stack) (bs : List Byte) (source : Nat) : Stack :=
  setReg { x with trust := { x.trust with run := bs } } rSecFw (bv 64 (source * 2 ^ 52 + imageBuild bs % 2 ^ 32 * 2 ^ 16 + imageSvn bs))

/-- A base non-transit reset that the staged image follows (R535): the command that asked for it is answered at its end. -/
def activate (s : State) (i : StackIx) (cmd : Option CmdRef) : State :=
  let k := cmd.bind (startedCmd (s.stack i))
  let s := s.onStack i (fun x =>
    let x := runImage x x.trust.stage 1
    let x := { x with trust := { x.trust with stage := [], stageLen := 0, verified := false, activated := true } }
    match cmd with | some r => dropCmd x r | none => x)
  let s := startBase s i 2
  s.onStack i (fun x => { x with
    port := { x.port with started := x.port.started ++ (k.map (fun k => { k with begun := true })).toList }
    resetting := x.resetting.map (fun r => { r with cmd := cmd }) })

/-- FW_ACTIVATE. -/
def execFwActivate (st : StackIx) (c : CmdRef) (s : State) : Out :=
  onCmdAll s st c 0x0703 (fun k s =>
    let x := s.stack st
    if !x.trust.verified ∨ jobHeld x then replyAll s st k stState [] [] else activate s st (some c))

/-- FW_FETCH. -/
def execFwFetch (st : StackIx) (c : CmdRef) (s : State) : Out :=
  onCmd s st c 0x0704 (fun k x =>
    let o := (k.arg 0).toNat
    let n := (k.arg 1).toNat
    let bs := x.trust.run
    if x.boot ≠ .ready then answerCmd s.now x k stState
    else if bs.length < o + n then answerCmd s.now x k stInvalidParam
    else reply s.now x k stOk [bv 64 bs.length] ((bs.drop o).take n))

/-- FLASH_IMAGE_WRITE: the module controller has written the RUN image of the stack whose turn it is (R549); where that stack holds no image any more
the write stays cut short. -/
def execFlashImageWrite (st : StackIx) (s : State) : Out :=
  .next (match s.mc.flashQueue with
    | [] => s
    | i :: rest =>
      if i ≠ st.val ∨ !s.mc.vin then s
      else
        let bs := (s.stack st).trust.run
        { s with mc := { s.mc with flashQueue := rest, flashOpen := decide (bs = []), flash := if bs = [] then s.mc.flash else bs } })

/-! ### Leaves (R551-R553) -/

def leafNext (x : Stack) : Nat := fld (reg x rSecLeaf) 0 31
def leafEnd (x : Stack) : Nat := fld (reg x rSecLeaf) 31 31

/-- Whether another reservation is possible. -/
def canReserve (x : Stack) : Bool := decide (leafEnd x + 1024 ≤ 2 ^ 30)

/-- A reservation begun where none is in progress: the epoch fuses that it needs are to be burnt. -/
def startReserve (x : Stack) : Stack :=
  if x.trust.reserving.isSome || !canReserve x then x
  else
    let e := leafEnd x + 1024
    { x with trust := { x.trust with reserving := some e }, burns := x.burns ++ (countsTo x.trust.epoch ((e - 1) / 2 ^ 20 + 1)).map Burn.epoch }

/-- LEAF_RESERVATION: its burns done, the level-1 tree that END' - 1 enters is built, the record is written and END moves. -/
def execLeafReservation (st : StackIx) (s : State) : Out :=
  .next (
    let x := s.stack st
    match x.trust.reserving with
    | none => s
    | some e =>
      if x.burns.any (fun b => match b with | .epoch _ => true | _ => false) ∨ columnsHeld x then s
      else
        let s := { s with mc := { s.mc with leaves := s.mc.leaves.set st (writeLeaf st.val (s.mc.leaves.get st) e) } }
        let j := (e - 1) / 32768
        let trees := if x.trust.trees.contains j then x.trust.trees else x.trust.trees ++ [j]
        s.setStack st (setReg { x with trust := { x.trust with reserving := none, trees := trees } } rSecLeaf (setFld (reg x rSecLeaf) 31 31 e)))

/-! ### Attestation (R554) -/

/-- The image hash of a core (R197); 32 zero bytes for one with no valid line. -/
def coreHash (x : Stack) (c : Nat) : List Byte :=
  let k := x.core c
  if k.valid = 0 then List.replicate 32 0 else sha256 k.image

def programTable (x : Stack) : List Byte := (List.range 168).flatMap (coreHash x)

/-- NBU_HASH. -/
def nbuHash (x : Stack) : List Byte :=
  sha256 ((List.range 168).flatMap (fun v =>
    let es := (x.nbu v).sched
    [bv 8 v] ++ natBytes 2 es.length ++ natBytes 4 (fld (reg x (rNbuCfg (coreSite x v))) 0 32)
      ++ es.flatMap (fun e => wordsBytes [e.w0, e.w1, e.w2, e.w3])))

def sumSites (f : Nat → Nat) : Nat := (List.range 184).foldl (fun n p => n + f p) 0

/-- The report of Table 17.7 for leaf `u`. -/
def attestReport (x : Stack) (full : Bool) (nonce : List Byte) (u : Nat) : List Byte :=
  let t := x.trust
  let table := programTable x
  let nh := nbuHash x
  natBytes 2 1 ++ [bv 8 (stackIndex x), bv 8 (one full 1)] ++ natBytes 4 (if full then 5664 else 256)
    ++ natBytes 8 Config.serial.toNat ++ nonce ++ hashBytes Config.romHash ++ imageHash t.run ++ natBytes 8 (imageBuild t.run)
    ++ [bv 8 (imageSvn t.run), bv 8 t.svn, bv 8 t.revoke, bv 8 t.lfuse] ++ natBytes 2 t.epoch ++ natBytes 2 0
    ++ (match t.licence with | some l => sha256 l | none => List.replicate 32 0)
    ++ natBytes 8 (match t.licence with | some l => licenceSeq l | none => 0)
    ++ [bv 8 (fld (reg x rSecLicence) 0 5), bv 8 (pstateCode x.pstate)] ++ natBytes 2 0
    ++ natBytes 4 (fld (reg x rIdGeometry) 0 32)
    ++ natBytes 2 x.burnt.length ++ natBytes 2 (sumSites (fun p => (x.vault p).fuses.length)) ++ natBytes 2 (sumSites (softUsed x))
    ++ natBytes 2 (sumSites (fun p => (x.vault p).coilSpares.length)) ++ natBytes 8 (reg x rTckNumber).toNat
    ++ sha256 (table ++ nh) ++ natBytes 4 u ++ List.replicate 28 0
    ++ (if full then table ++ nh else [])

/-- Whether a stored certificate verifies under the root and carries the stack's own key. -/
def certOk (x : Stack) (i : Nat) (cert : List Byte) : Bool :=
  vendorVerify (imageRoot x.trust.run) (cert.take 80) (cert.drop 80) && decide (cert.take 60 = identityKey i)

/-- ATTEST: a leaf is used once; with none left a reservation is begun. -/
def execAttest (st : StackIx) (c : CmdRef) (s : State) : Out :=
  onCmdAll s st c 0x0700 (fun k s =>
    let x := s.stack st
    if k.flags / 2 % 2 = 1 then
      if certOk x st.val (s.mc.certs.get st) then replyAll s st k stOk [] (s.mc.certs.get st) else replyAll s st k stAuthFailed [] []
    else
      let u := leafNext x
      if u < leafEnd x then
        let r := attestReport x (decide (k.flags % 2 = 1)) (wordsBytes [k.arg 0, k.arg 1, k.arg 2, k.arg 3]) u
        let sig := identitySign st.val u (Config.freeWord s.freeIx) r
        let x := setReg x rSecLeaf (setFld (reg x rSecLeaf) 0 31 (u + 1))
        let x := if leafEnd x - leafNext x ≤ 128 then startReserve x else x
        replyAll { s.setStack st x with freeIx := s.freeIx + 1 } st k stOk [] (r ++ sig)
      else if x.trust.reserving.isSome || canReserve x then replyAll (s.onStack st startReserve) st k stBusy [] []
      else replyAll s st k stState [] [])

/-! ### Licences (R4, R556) -/

/-- LICENCE_INSTALL: the store takes the licence, every powered stack loads it and burns its floor, of at most 64 fuses (R543). -/
def execLicenceInstall (st : StackIx) (c : CmdRef) (s : State) : Out :=
  onCmdAll s st c 0x0701 (fun k s =>
    let x := s.stack st
    let e := licenceStatus x (x.trust.licence.map licenceSeq) k.data
    if e ≠ stOk then replyAll s st k e [] []
    else
      let m := s.mc
      let s := { s with mc := { m with licences := if m.licenceLast then (some k.data, m.licences.2) else (m.licences.1, some k.data),
                                       licenceLast := !m.licenceLast } }
      let s := s.onStacks (allStacks.filter (fun i => decide ((s.stack i).boot ≠ .off))) (fun x =>
        let x := loadLicence x (some k.data)
        { x with burns := x.burns ++ (countsTo x.trust.lfuse (min 64 (licenceFloor k.data))).map Burn.lfuse })
      let s := beginAll s st k
      settleLicence (s.onStack st (fun x => { x with trust := { x.trust with installing := some c } })))

end Sys2Proof.Machine
end

