-- ==== Sys2Proof/Machine/BootRows.lean ====
section
/-! DEFINITION. Bring-up, discovery, topology agreement, the end of a base non-transit reset, link retraining and the end of a quiesce (15).
A command presented where its condition does not hold changes nothing. -/

namespace Sys2Proof.Machine
open Sys2Proof

/-! ### ROM (R18-R20, R44, R485, R486, R543) -/

/-- ID_POSITION from the bridge-present senses (Table 1.1). -/
def positionWord (edges : BitVec 4) : Word :=
  let e := edges.toNat
  let f := fun (valid st : Nat) => bv 64 (valid * 128 + st * 16 + e)
  match e with
  | 6 => f 1 0
  | 3 => f 1 1
  | 12 => f 1 2
  | 9 => f 1 3
  | _ => f 0 0

/-- The path of Table 15.2: by the starting event and whether module flash holds a valid training record of the stack (R486, R491). -/
def pathCode (s : State) (x : Stack) : Nat :=
  if (trainUsed s.mc x (true, true)).isSome then (if x.bring.powerOn then 1 else 2) else 0

/-- Whether a reset of the stack controller is over. -/
def released (x : Stack) : Bool := match x.resetting with | some r => decide (r.domain ≠ 1 ∧ r.domain ≠ 2) | none => true

/-- A base non-transit reset in which the ROM has found the stack controller's code memory in order, or not yet checked it. -/
def baseResetting (x : Stack) : Bool := x.resetting.any (fun r => decide (r.domain = 2))

/-- The collector with the record copies taken back: the records that it has taken since, which may be copied too, follow them (R525). -/
def takeBack (copies : List Record) (c : Collector) : Collector :=
  { c with records := copies ++ c.records.filter (fun r => !copies.any (fun x => decide (x.seq = r.seq))) }

/-- ROM_COMPLETE: fuses and senses sampled; after module power-on and COLD exit the leaves start anew, and the collector takes back the record
copies that COLD or a loss of power left with the module controller. In a base non-transit reset it is the check of the code memory: where that fails
the image comes from module flash through VERIFY (R501). -/
def execRomComplete (st : StackIx) (x : RomSample) (s : State) : Out :=
  .next (
    let y := s.stack st
    if y.boot ≠ .rom ∨ (!released y && !baseResetting y) then s
    else
    let s := { s with mc := x.flips.foldl flipFlash s.mc }
    if baseResetting y then (if x.code then s else s.setStack st { y with boot := .verify })
    else
      let cold := y.bring.powerOn || y.bring.fromCold
      let y := loadFuses (setReg y rIdPosition (positionWord x.edges))
      let y := setReg y rBruState (setFld (reg y rBruState) 16 2 (pathCode s y))
      let y := if cold then { y with faults := takeBack (s.mc.copies.get st) y.faults, portsOpen := storedPorts s.mc } else y
      let s := updateFaultL (s.setStack st { y with boot := .verify, bring := { y.bring with stateAt := s.now } })
      if cold then resetLeaf s st else s)

/-! ### VERIFY (R546-R548) -/

/-- The sources of a recovery in order: bridge partners by ascending stack index, then the ports that carry packets. -/
def fetchSources (x : Stack) : List Nat :=
  (([0, 1, 2, 3] : List Nat).filterMap (fun b => (bridgeLinks x).find? (fun l => decide (acrossBridge (stackIndex x) l = some b))))
    ++ (if portsLicensed x then [0, 1, 2, 3] else [])

/-- A link trained outside PROOFING, with what its register holds of the training record; the reach that a port not trained before settles on is not
stated (log 31). -/
def retrained (x : Stack) (l : Nat) : LinkTrain :=
  let w := reg x (rIvtLink l)
  let r := fld w 4 2
  ⟨true, 0xFF#8, bv 2 (if r = 0 then 1 + Config.unstated 31 l % 2 else r), decide (fld w 6 1 = 1), alignOf x l⟩

/-- A command's 128 bytes as stack firmware and ROM send them. -/
def plainCmd (op stack : Nat) (tag : Nat) (p0 p1 : Nat) : List Byte :=
  wordsBytes ([bv 64 (tag * 2 ^ 32 + op * 2 ^ 16 + 1), bv 64 (stack * 2 ^ 14), 0, 0, 0, 0, 0, 0, bv 64 p0, bv 64 p1, 0, 0, 0, 0, 0, 0])

/-- A command sent to whoever stands first on a link (R494, R548). -/
def askLink (now : Nat) (x : Stack) (l : Nat) (data : List Byte) : Stack :=
  sendOn now x l { ty := .cmd, src := nodeId x, dst := 0xFFFF, hops := 1, data := data }

/-- A recovery at source `n`, of which the first piece is asked for. -/
def Fetch.start (n : Nat) : Fetch := ⟨n, [], none, 0, 65536⟩

/-- Whether a base transit reset keeps the router and its links stopped (R405). -/
def transitHeld (x : Stack) : Bool := x.resetting.any (fun r => decide (r.domain = 3))

/-- The source of a recovery asked for its next piece, its link trained where it is not. -/
def askSource (s : State) (i : StackIx) : State :=
  let x := s.stack i
  match x.trust.fetch with
  | none => s
  | some f =>
    match (fetchSources x)[f.source]? with
    | none => s
    | some l =>
      if !partnerThere s x l ∨ transitHeld x then s
      else
        let x := if linkUp x l then x else trainLink s.now x l (retrained x l)
        let dest := match acrossBridge (stackIndex x) l with | some b => if l < 4 then 0 else b | none => 0
        s.setStack i (if linkUp x l then askLink s.now x l (plainCmd 0x0704 dest (f.piece / 65536) f.piece f.ask) else x)

/-- The next source asked; after the last the first again. -/
def nextSource (s : State) (i : StackIx) : State :=
  let x := s.stack i
  match x.trust.fetch with
  | none => s
  | some f =>
    let n := (fetchSources x).length
    askSource (s.setStack i { x with trust := { x.trust with fetch := some (Fetch.start ((f.source + 1) % max 1 n)) } }) i

/-- The links that PROOFING trains, those that do not run, TRAINING (R412). -/
def trainingLinks (x : Stack) : Stack :=
  ((List.range 8).filter (fun l => !linkRuns x l && (decide (l < 4) || (acrossBridge (stackIndex x) l).isSome))).foldl
    (fun x l => setReg x (rIvtLink l) (setFld (reg x (rIvtLink l)) 0 3 1)) x

/-- An image accepted: PROOFING begins; in a base non-transit reset the image takes the place of the code memory that failed its check (R501). -/
def toProofing (s : State) (i : StackIx) (bs : List Byte) (source : Nat) : State :=
  s.onStack i (fun x =>
    let x := runImage { x with trust := { x.trust with fetch := none } } bs source
    if baseResetting x then { x with boot := .rom }
    else trainingLinks { x with boot := .proofing, bring := { x.bring with proofAt := s.now, stateAt := s.now } })

/-- VERIFY_COMPLETE: the image that the path names, or one fetched, passes its checks, or a recovery goes on with the next source. -/
def execVerifyComplete (st : StackIx) (x : VerifyFrom) (s : State) : Out :=
  .next (
    let y := s.stack st
    if y.boot ≠ .verify then s
    else match x, y.trust.fetch with
      | .own, none =>
        let warm := decide (fld (reg y rBruState) 16 2 = 2) && !y.bring.fromCold && !baseResetting y
        let bs := if warm then y.trust.run else flashImage s.mc
        if imageOk y bs then toProofing s st bs (if warm then 1 else 0)
        else askSource (s.setStack st { y with trust := { y.trust with fetch := some (Fetch.start 0) } }) st
      | .fetched, some f =>
        if f.total ≠ some f.got.length then s
        else if imageOk y f.got then
          let l := (fetchSources y).getD f.source 0
          let s := toProofing s st f.got (if l < 4 then 3 else 2)
          if s.mc.flashQueue ≠ [] ∨ imageOk y (flashImage s.mc) then s
          else { s with mc := { s.mc with flashQueue := s.mc.flashQueue ++ [st.val] } }
        else nextSource s st
      | _, _ => s)

/-- FW_FETCH_TIMEOUT. -/
def execFwFetchTimeout (st : StackIx) (s : State) : Out :=
  .next (if (s.stack st).boot ≠ .verify then s else nextSource s st)

/-- The length of the shortest image, and so of a piece that every source has (R546). -/
def leastImage : Nat := 3860

/-- A segment of the reply to FW_FETCH from the source asked. A source whose image is shorter than a piece of 64 KiB answers the first with
INVALID_PARAM: it is asked for a piece that the shortest image has, and its reply gives the length (R548; DESIGN CHOICE, log 115). -/
def fetchReply (s : State) (i : StackIx) (k : Packet) (f : Fetch) : State :=
  let x := s.stack i
  let put := fun (g : Fetch) => s.setStack i { x with trust := { x.trust with fetch := some g } }
  let go := fun (g : Fetch) =>
    let n := g.got.length
    if n = g.piece + g.ask ∧ g.total.any (fun t => decide (n < t)) then askSource (put { g with piece := n, ask := min 65536 (g.total.getD 0 - n) }) i
    else put g
  let status := fld (word64At k.data 24) 0 16
  if k.addr = 0 then
    if status = stInvalidParam ∧ f.piece = 0 ∧ f.ask = 65536 ∧ f.got = [] then askSource (put { f with ask := leastImage }) i
    else if status ≠ stOk ∨ f.got.length ≠ f.piece then nextSource s i
    else go { f with got := f.got ++ k.data.drop 128, total := some (word64At k.data 64).toNat }
  else if k.addr = 128 + (f.got.length - f.piece) then go { f with got := f.got ++ k.data }
  else s

/-! ### PROOFING (R43, R45, R257, R286, R464, R488, R489, R491, R528, R529, R557) -/

/-- The licence of the store that a stack loads: of the copies that pass, the one with the greater SEQ. -/
def storedLicence (m : ModCtl) (x : Stack) : Option (List Byte) :=
  let ok := (m.licences.1.toList ++ m.licences.2.toList).filter (fun bs => decide (licenceStatus x none bs = stOk))
  ok.foldl (fun o bs => match o with | some b => if licenceSeq b < licenceSeq bs then some bs else o | none => some bs) none

/-- Every column as the training record has it, or trained anew where there is none or it fails its check (R491): on its coils with its spares in use, or
on its TSV lanes where it is beyond them; the fuse entries in force. -/
def proofColumns (now : Nat) (x : Proofing) (record : Option (List Byte)) (y : Stack) : Stack :=
  (List.range 184).foldl (fun y p =>
    let kept := record.filter (fun _ => !x.bad.any (fun t => match t with | .column q => decide (q.val = p) | _ => false))
    let bad := kept.isNone && x.lanes.any (fun q => decide (q.val = p))
    let coils := match kept with
      | some bs => recordSpares bs p
      | none => match x.spares.find? (fun e => decide (e.1.val = p)) with | some e => (e.2.map (fun c => c.val)).take 64 | none => []
    let lanes := match kept with | some bs => recordLanes bs p | none => bad
    let y := y.setVault p { y.vault p with path := if lanes then 2 else 0, coilSpares := coils, selfRefresh := 0, refreshFrom := now, refreshes := [] }
    let y := updateSpares y p
    if bad then raise y { source := fTrainFail, addr := haColumn p } else y) y

/-- A link that does not run already trained; one left untrained is reported. -/
def proofLink (now : Nat) (y : Stack) (l : Nat) (t : LinkTrain) : Stack :=
  if linkRuns y l then y
  else
    let y := trainLink now y l t
    if linkState y l = 3 then raise y { source := fTrainFail, addr := haLink l } else y

/-- The ports and the bridges trained: a port only while REFCLK is present, a bridge only where one is mounted. -/
def proofLinks (now : Nat) (refclk : Bool) (x : Proofing) (y : Stack) : Stack :=
  let y := allStacks.foldl (fun y n => let t := x.ports.get n; proofLink now y n.val { t with up := t.up && refclk }) y
  if fld (reg y rIdPosition) 7 1 = 0 then y
  else allStacks.foldl (fun y n => if (acrossBridge (stackIndex y) (4 + n.val)).isSome then proofLink now y (4 + n.val) (x.bridges.get n) else y) y

/-- The map of row `r` that the core-repair fuses hold as applied, and with failures burnt and not applied yet (R43). -/
def appliedMap (y : Stack) (r : Nat) : Word := tget (fun _ => resetValue (rIdRowMap r)) y.fuseMaps r
def fusedMap (y : Stack) (r : Nat) : Word := rowMapAfter (appliedMap y r) (burntFails y r)

/-- The migrations that a reset kept back: those of a repair that it cut short, and those of failures burnt and not applied. -/
def keptMoves (y : Stack) : List (Nat × Nat × Nat) :=
  y.mend.unmoved ++ (List.range 8).flatMap (fun r =>
    if fld (fusedMap y r) 31 1 = 1 then [] else movesBetween r (appliedMap y r) (fusedMap y r))

/-- The row maps as the core-repair fuses give them (R43), the cores that move with them migrated, each with its schedule's lines (R301, R530). -/
def fusedMaps (y : Stack) : Stack :=
  let ms := keptMoves y
  let y := (List.range 8).foldl (fun y r =>
    let map := fusedMap y r
    setReg { y with fuseMaps := if map = resetValue (rIdRowMap r) then y.fuseMaps else tput y.fuseMaps r map } (rIdRowMap r) map) y
  let y := ms.foldl (fun y m => moveNbuCfg (migrateFrom y m.1 m.2.1) m.2.1 m.2.2) { y with mend := Mend.reset }
  loadGeometry y

/-- Every migration of the boundary carried out; nothing competes for the columns in PROOFING (log 84). -/
def migrateAll (now : Nat) : Nat → Stack → Stack
  | 0, y => y
  | n + 1, y => match y.mend.moves with | [] => y | (c, p) :: rest => migrateAll now n (migrateSwitch now (migrateFrom y c (coreSite y c)) c p rest)

/-- The boundary that falls in PROOFING: pending failures are burnt and applied at once. -/
def proofBoundary (now : Nat) (y : Stack) : Stack :=
  let y := degradedFails y
  let pend := pendingSites y
  let new := pend.filter (fun p => !y.burnt.contains p)
  let y := { y with burnt := y.burnt ++ new, burns := y.burns.filter (fun b => match b with | .site _ => false | _ => true) }
  if pend = [] then loadGeometry y
  else migrateAll now 1400 (mendApply now { y with mend := { Mend.reset with since := some now, taken := pend } })

/-- One failing copy of the training record. -/
def recordCheck (ok : Bool) (y : Stack) : Stack := if ok then y else raise y { source := fRecordInvalid, addr := haController }

/-- Milliseconds in a number of cycles (log 21). -/
def inMs (now cycles : Nat) : Nat := min 0xFFFFFFFF (wholeUnits 21 now ((cycles : Rat) / 2500000))

/-- Cycles of a wait that are excluded from the budgets: those beyond 100 ms (R487). -/
def waitBeyond (now : Nat) (b : BringUp) : Nat := now - b.stateAt - 250000000

/-- HELD for a reason (R20, R488, R496); the wait in ADMIT beyond 100 ms is excluded (R487, R512). -/
def toHeld (now reason mismatch : Nat) (y : Stack) : Stack :=
  let y := if y.boot = .admitting then { y with bring := { y.bring with waited := y.bring.waited + waitBeyond now y.bring } } else y
  let y := setReg y rBruState (setFld (setFld (reg y rBruState) 20 4 reason) 8 6 mismatch)
  { y with boot := .held, bring := { y.bring with stateAt := now } }

/-- Items retrained: those of a valid record that fail their check, each once; where there is none everything is trained, and nothing retrained (log 10). -/
def retrainedItems (record : Bool) (x : Proofing) : Nat :=
  if record then (x.bad.foldl (fun l t => if l.contains t then l else t :: l) ([] : List TrainItem)).length else 0

/-- Everything of PROOFING before the next state. -/
def proof (s : State) (i : StackIx) (x : Proofing) (y : Stack) : Stack × Stack :=
  let copy := trainUsed s.mc y x.copies
  let record := copy.map (fun k => areaBytes s.mc (.training i k))
  let have_ := fun (k : Bool) => copyOf x.copies k && trainValid y (areaBytes s.mc (.training i k))
  let y := { y with bring := { y.bring with copy := copy.map (fun k => if k then 1 else 0) } }
  let y := loadLicence y (storedLicence s.mc y)
  let y := if y.bring.powerOn ∨ y.bring.fromCold then { y with portsOpen := decide (fld (reg y rSecLicence) 2 1 = 1) } else y
  let y := { y with computeOn := true }
  let y := recordCheck (have_ true) (recordCheck (have_ false) (proofLinks s.now s.mc.refclk x (proofColumns s.now x record y)))
  let y := setReg y rBruState (setFld (reg y rBruState) 32 16 (min 0xFFFF (retrainedItems copy.isSome x)))
  let y := if copy.isSome then y else setReg y rBruState (setFld (reg y rBruState) 16 2 0)
  let y := { y with power := { y.power with allowCompute := y.power.cap, allowDram := y.power.cap, allowStack := y.power.cap, allowGov := y.power.cap } }
  let fused := fusedMaps y
  let y := if y.bring.powerOn then x.failed.foldl (fun y p => if y.burnt.contains p.val then y else siteFailed y p.val) fused else fused
  let y := proofBoundary s.now y
  (fused, setReg y rBruTime (setFld (reg y rBruTime) 0 32 (inMs s.now (s.now - y.bring.proofAt))))

/-! ### DISCOVER (R492-R495) -/

/-- The package record of a stack: its index, the module serial, its node ID and usable rows. -/
def packageRecord (x : Stack) : PackageRec := ⟨bv 2 (stackIndex x), Config.serial, bv 16 (nodeId x), bv 8 (geometryClass x)⟩

/-- A package record sent on a bridge, and on every bridge that is up; how a bridge carries it is not stated (log 117). -/
def sendPackage (x : Stack) (l : Nat) : Stack := { x with sent := .package l (packageRecord x) :: x.sent }
def sendPackages (x : Stack) : Stack := (bridgeLinks x).foldl (fun x l => if linkUp x l then sendPackage x l else x) x

/-- Once the node ID is assigned and every probe has its answer, the stack goes on to ADMIT. -/
def settleDiscover (now : Nat) (x : Stack) : Stack :=
  if x.boot = .discover ∧ fld (reg x rIvtNode) 16 1 = 1 ∧ x.bring.probing = [] then
    { x with boot := .admitting, bring := { x.bring with stateAt := now } }
  else x

/-- Every port that is up probed. -/
def startProbes (now : Nat) (x : Stack) : Stack :=
  let ups := ([0, 1, 2, 3] : List Nat).filter (linkUp x)
  let x := { x with bring := { x.bring with probing := ups, neighbours := [] } }
  settleDiscover now (ups.foldl (fun x l => askLink now x l (plainCmd 0x0001 0 0 0 0)) x)

/-- DISCOVER entered: packages sent, and ports probed where the node ID is known; HELD with an invalid position. R20 has that reported as
TOPOLOGY_MISMATCH and no fault source bears the name: TOPOLOGY_HELD is raised, with MISMATCH 0 beside HELD_REASON 1 (DESIGN CHOICE, log 80). -/
def enterDiscover (now : Nat) (x : Stack) : Stack :=
  if fld (reg x rIdPosition) 7 1 = 0 then raise (toHeld now 1 0 x) { source := fTopologyHeld, addr := haController }
  else
    let x := { x with boot := .discover, bring := { x.bring with stateAt := now, probing := [], neighbours := [] } }
    let x := sendPackages x
    if fld (reg x rIvtNode) 16 1 = 1 then startProbes now x else x

/-- PROOFING_COMPLETE, not while a base transit reset keeps the links from training: a new training record follows anything trained, a change of class by a failure is reported. -/
def execProofingComplete (st : StackIx) (x : Proofing) (s : State) : Out :=
  .next (
    let y := s.stack st
    if y.boot ≠ .proofing ∨ transitHeld y then s
    else
      let (fused, y) := proof s st x y
      let s := reportGeometry (s.setStack st fused) (s.setStack st y)
      let s := if x.bad ≠ [] ∨ y.bring.copy = none then writeTraining s st else s
      s.onStack st (fun y => if geometryClass y = 0 then toHeld s.now 3 0 y else enterDiscover s.now y))

/-- The next stack on the way from stack `a` to stack `b` over a bridge that is up at both ends (Table 12.1). -/
def hopToward (s : State) (a b : Nat) : Option Nat :=
  let l := bridgeToward a b
  match acrossBridge a l with
  | none => none
  | some c =>
    if linkUp (s.stack (Fin.ofNat 4 a)) l && linkUp (s.stack (Fin.ofNat 4 c)) (bridgeToward c a) then some c else none

/-- Whether stack firmware of stack `a` reaches stack `b` (R493). -/
def reaches (s : State) (a b : Nat) : Bool :=
  decide (a = b) || (match hopToward s a b with
    | some c => decide (c = b) || decide (hopToward s c b = some b)
    | none => false)

/-- Whether the bridge between neighbouring stacks is trained and its packages agree at both ends. -/
def bridgeAgrees (s : State) (a b : Nat) : Bool :=
  let end_ := fun (p q : Nat) =>
    let x := s.stack (Fin.ofNat 4 p)
    let l := bridgeToward p q
    linkUp x l && x.bring.packages.contains (l, q)
  end_ a b && end_ b a

/-- The bridges of the module in the order of Table 15.5. -/
def bridgePairs : List (Nat × Nat) := [(0, 1), (1, 3), (3, 2), (2, 0)]

/-- The stacks reached from a list of stacks over one bridge more. -/
def reachStep (s : State) (l : List Nat) : List Nat :=
  bridgePairs.foldl (fun l e =>
    if !bridgeAgrees s e.1 e.2 then l
    else if l.contains e.1 && !l.contains e.2 then l ++ [e.2]
    else if l.contains e.2 && !l.contains e.1 then l ++ [e.1]
    else l) l

/-- The stacks of the module that stack `i` has discovered. -/
def reached (s : State) (i : StackIx) : List Nat := reachStep s (reachStep s (reachStep s [i.val]))

/-- The node IDs of the module as its stacks have learnt them. -/
def learnPeers (s : State) : State :=
  allStacks.foldl (fun t i => t.onStack i (fun x =>
    if x.boot = .off then x
    else (reached s i).foldl (fun x j =>
      let d := nodeId (s.stack (Fin.ofNat 4 j))
      if nodeUsable d then { x with peers := x.peers.set (Fin.ofNat 4 j) d } else x) x)) s

/-- A port entry of a topology record. -/
def portEntry (x : Stack) (l : Nat) : List Byte :=
  let n := match x.bring.neighbours.find? (fun e => decide (e.1 = l)) with | some e => e.2 | none => (0xFFFF, 0)
  let st := match linkState x l with | 2 => 1 | 4 => 2 | 3 => 3 | _ => 0
  natBytes 2 n.1 ++ [bv 8 n.2, bv 8 st] ++ List.replicate 12 0

/-- The topology record that stack `i` has discovered (Table 15.5). -/
def topologyRecord (s : State) (i : StackIx) : List Byte :=
  let r := reached s i
  let per := fun (f : Stack → List Byte) (none_ : List Byte) =>
    ([0, 1, 2, 3] : List Nat).flatMap (fun j => if r.contains j then f (s.stack (Fin.ofNat 4 j)) else none_)
  let bridges := bridgePairs.zipIdx.foldl (fun n e => if r.contains e.1.1 && bridgeAgrees s e.1.1 e.1.2 then n + 2 ^ e.2 else n) 0
  natBytes 8 Config.serial.toNat ++ [bv 8 r.length, bv 8 bridges] ++ List.replicate 6 0
    ++ per (fun x => natBytes 2 (nodeId x)) (natBytes 2 0xFFFF) ++ per (fun x => [bv 8 (geometryClass x)]) [0] ++ List.replicate 4 0
    ++ per (fun x => ([0, 1, 2, 3] : List Nat).flatMap (portEntry x)) ((List.replicate 4 (natBytes 2 0xFFFF ++ List.replicate 14 0)).flatten)

/-- PACKAGE_RECORD (R492): an index or serial that does not match makes the bridge count as absent. A stack outside DISCOVER that learns something new
answers with its own record. -/
def execPackageRecord (l : LinkAt) (x : PackageRec) (s : State) : Out :=
  .next (
    let y := s.stack l.st
    let n := l.l.val
    if y.boot = .off ∨ n < 4 ∨ !linkUp y n then s
    else
      let rest := y.bring.packages.filter (fun e => decide (e.1 ≠ n))
      let ok := decide (acrossBridge (stackIndex y) n = some x.index.toNat ∧ x.serial = Config.serial)
      let lo := if (bridgeLinks y).head? = some n then 48 else 32
      let w := reg y rIvtNode
      let z := { y with bring := { y.bring with packages := if ok then rest ++ [(n, x.index.toNat)] else rest } }
      let z := if ok then setReg z rIvtNode (setFld w lo 16 x.node.toNat) else z
      let new := !ok || !y.bring.packages.contains (n, x.index.toNat) || decide (fld w lo 16 ≠ x.node.toNat)
      let z := if new && decide (z.boot ≠ .discover) && decide (bootCode .discover < bootCode z.boot) then sendPackage z n else z
      learnPeers (s.setStack l.st z))

/-- NEIGHBOUR_PROBE (R494): consumed by the first router, answered on the arrival link with the module's port number at which it arrived. -/
def execNeighbourProbe (l : LinkAt) (k : Packet) (s : State) : Out :=
  onSt s l.st (fun x =>
    if !isProbe k ∨ !linkUp x l.l.val then x
    else
      let (k, x) := received x l.l.val k
      let c := cmdOfBytes k.src l.l.val k.tag s.now k.data
      let bytes := if columnsHeld x then replyBytes s.now (actTick x) c stBusy [] [] false
        else replyBytes s.now (actTick x) c stOk (identifyWords x ++ [bv 64 (4 * stackIndex x + l.l.val)]) [] false
      sendOn s.now x l.l.val { ty := .cmdRpl, tag := k.tag, src := nodeId x, dst := k.src, data := bytes })

/-- PROBE_TIMEOUT (R494). -/
def execProbeTimeout (l : LinkAt) (s : State) : Out :=
  onSt s l.st (fun x =>
    if x.boot ≠ .discover ∨ !x.bring.probing.contains l.l.val then x
    else settleDiscover s.now { x with bring := { x.bring with probing := x.bring.probing.filter (fun m => decide (m ≠ l.l.val)) } })

/-- The answer to a probe: the neighbour's node ID and port. -/
def probeReply (now : Nat) (x : Stack) (l : Nat) (k : Packet) : Stack :=
  let n : Nat × Nat := (fld (word64At k.data 80) 0 16, (word64At k.data 112).toNat % 256)
  settleDiscover now { x with bring := { x.bring with
    probing := x.bring.probing.filter (fun m => decide (m ≠ l))
    neighbours := x.bring.neighbours.filter (fun e => decide (e.1 ≠ l)) ++ [(l, n)] } }

/-- CMD_RPL (R388, R494, R548): the stack itself awaits the replies to its probes and to FW_FETCH. -/
def execCmdRpl (l : LinkAt) (k : Packet) (s : State) : Out :=
  .next (
    let x := s.stack l.st
    let n := l.l.val
    if k.ty ≠ .cmdRpl ∨ !linkUp x n ∨ k.dst ≠ nodeId x then s
    else
      let (k, x) := received x n k
      let s := s.setStack l.st x
      let op := fld (word64At k.data 0) 16 16
      if x.boot = .discover ∧ x.bring.probing.contains n ∧ k.addr = 0 ∧ op = 0x0001 then
        (if fld (word64At k.data 24) 0 16 = stOk then s.onStack l.st (fun y => probeReply s.now y n k) else s)
      else if x.boot = .verify then
        match x.trust.fetch with
        | some f => if (fetchSources x)[f.source]? = some n ∧ (k.addr ≠ 0 ∨ op = 0x0704) then fetchReply s l.st k f else s
        | none => s
      else s)

/-- A node ID given to stack `i`: package records carry it, ports are probed; the wait beyond 100 ms is excluded (R487). -/
def assignId (s : State) (i : StackIx) (d : Nat) : State :=
  learnPeers (s.onStack i (fun x =>
    let x := setReg x rIvtNode (setFld (setFld (reg x rIvtNode) 16 1 1) 0 16 d)
    let x := { x with peers := x.peers.set (Fin.ofNat 4 (stackIndex x)) d
                      bring := { x.bring with waited := x.bring.waited + waitBeyond s.now x.bring } }
    startProbes s.now (sendPackages x)))

/-- SET_NODE_ID (R493): for another stack of the module it is relayed over the bridges. -/
def execSetNodeId (st : StackIx) (c : CmdRef) (s : State) : Out :=
  onCmdAll s st c 0x0802 (fun k s =>
    let x := s.stack st
    let a := fun i => (k.arg i).toNat
    let t := a 3
    if x.boot ≠ .discover then replyAll s st k stState [] []
    else if 4 ≤ t ∨ 65536 ≤ a 0 ∨ !nodeUsable (a 0) ∨ k.arg 1 ≠ Config.serial ∨ a 2 ≠ s.mc.slotId.toNat then replyAll s st k stInvalidParam [] []
    else if !reaches s (stackIndex x) t then replyAll s st k stNodeLost [] []
    else
      let i := if t = stackIndex x then st else Fin.ofNat 4 t
      if (s.stack i).boot ≠ .discover then replyAll s st k stState [] []
      else assignId (replyAll s st k stOk [] []) i (a 0))

/-! ### ADMIT (R496-R498) -/

/-- Whether a port entry agrees. -/
def portAgrees (want got : List Byte) : Bool :=
  if bytesNat (want.take 2) = 0xFFFF then decide (bytesNat (got.take 2) = 0xFFFF) else decide (want.take 4 = got.take 4)

/-- BRU_STATE.MISMATCH of a discovered record against an expected one. -/
def mismatch (want got : List Byte) : Nat :=
  let f := fun (o n : Nat) => decide ((want.drop o).take n ≠ (got.drop o).take n)
  one (f 0 8) 1 + one (f 8 1) 2 + one (f 9 1) 4 + one (f 16 8) 8 + one (f 24 4) 16
    + one ((List.range 16).any (fun p => !portAgrees ((want.drop (32 + 16 * p)).take 16) ((got.drop (32 + 16 * p)).take 16))) 32

/-- Agreement: the stack is READY, its time from the start of bring-up noted (R512). -/
def toReady (s : State) (i : StackIx) : State :=
  let s := s.onStack i (fun x =>
    let b := x.bring
    let waited := b.waited + (if x.boot = .admitting then waitBeyond s.now b else 0)
    let x := setReg x rBruState (setFld (setFld (reg x rBruState) 20 4 0) 8 6 0)
    let x := setReg x rBruTime (setFld (reg x rBruTime) 32 32 (inMs s.now (s.now - b.since - waited)))
    { x with bring := { b with stateAt := s.now, waited := waited } })
  enterReady s i

/-- The comparison of a stack in ADMIT, or in HELD for a mismatch. -/
def compareTopology (s : State) (i : StackIx) (want : List Byte) : State :=
  let m := mismatch want (topologyRecord s i)
  if m = 0 then toReady s i
  else s.onStack i (fun x =>
    let y := toHeld s.now 2 m x
    if x.boot = .held then y else raise y { source := fTopologyHeld, addr := haController })

/-- TOPOLOGY_COMPARE: a stack enters ADMIT while the module controller keeps an expected record. -/
def execTopologyCompare (st : StackIx) (s : State) : Out :=
  .next (match s.mc.expected with
    | some w => if (s.stack st).boot = .admitting then compareTopology s st w else s
    | none => s)

/-- EXPECT_TOPOLOGY at a stack. -/
def expectAt (want : List Byte) (i : StackIx) (s : State) : Nat × State :=
  let x := s.stack i
  let ok := decide (mismatch want (topologyRecord s i) = 0)
  let held := fld (reg x rBruState) 20 4
  match x.boot with
  | .ready => (if ok then stOk else stTopologyMismatch, s)
  | .admitting => (if ok then stOk else stTopologyMismatch, compareTopology s i want)
  | .held => if held = 2 then (if ok then stOk else stTopologyMismatch, compareTopology s i want) else (stState, s)
  | _ => (stState, s)

/-- EXPECT_TOPOLOGY: the module controller keeps the record that was answered OK. -/
def execExpectTopology (st : StackIx) (c : CmdRef) (s : State) : Out :=
  onCmdAll s st c 0x0800 (fun k s =>
    let (status, s) := onTargets s (targets s st k) (fun i s => if gate s st k i ≠ stOk then (gate s st k i, s) else expectAt k.data i s)
    let s := if status = stOk then { s with mc := { s.mc with expected := some k.data } } else s
    replyAll s st k status [] [])

/-- GET_TOPOLOGY: one record for the whole module, where no target refuses (R434). -/
def execGetTopology (st : StackIx) (c : CmdRef) (s : State) : Out :=
  onCmdAll s st c 0x0801 (fun k s => asOne s st k (fun s => replyAll s st k stOk [] (topologyRecord s st)))

/-! ### Resets, quiesce, retraining -/

/-- The next stack of a PLDM activation (R582): the lowest from `n` on that has a verified image. -/
def activateNext (s : State) (n : Nat) : State :=
  match allStacks.find? (fun i => decide (n ≤ i.val ∧ (s.stack i).boot ≠ .off) && (s.stack i).trust.verified) with
  | some i => let s := activate s i none; { s with mc := { s.mc with activating := some i.val } }
  | none => { s with mc := { s.mc with activating := none } }

/-- The vault controllers restore their column settings from the training record (R501); with no valid record they stand as they are. -/
def restoreColumns (s : State) (i : StackIx) : State :=
  match trainUsed s.mc (s.stack i) (true, true) with
  | none => s
  | some k =>
    let bs := areaBytes s.mc (.training i k)
    s.onStack i (fun x => { x with vaults := x.vaults.map (fun e =>
      (e.1, { e.2 with coilSpares := recordSpares bs e.1, path := if recordLanes bs e.1 then 2 else e.2.path })) })

/-- BASE_RESET_END (R501, R502), not before an image reloaded for a code memory that failed its check is in place: an activation ends with it, the image's fuses follow, and the next stack's begins. An FW_ACTIVATE is answered
where the stack enters READY (R535). -/
def execBaseResetEnd (st : StackIx) (s : State) : Out :=
  .next (
    match (s.stack st).resetting with
    | none => s
    | some r =>
      if r.domain ≠ 2 ∨ (s.stack st).boot ≠ .rom then s
      else
        let s := restoreColumns s st
        let s := onMember s st (baseResetEnd s.now)
        let s := if (s.stack st).boot = .ready then enterReady s st else s
        let s := s.onStack st (fun x => match r.cmd.bind (startedCmd x) with
          | some k => if k.op = 0x0703 then x else answerCmd s.now x k stOk
          | none => x)
        if s.mc.activating = some st.val then activateNext s (st.val + 1) else s)

/-- The node IDs of the module as a NODE_DOWN packet names them. -/
def moduleIds (x : Stack) : List Byte :=
  allStacks.flatMap (fun j => natBytes 2 (if j.val = stackIndex x then nodeId x else x.peers.get j))

/-- QUIESCE_LINK_STOP (R505 steps 5 to 7): NODE_DOWN on each port that is up, LINK_DOWN on every link; once every stack of the module has come so
far, the module controller removes VIN_PKG. -/
def execQuiesceLinkStop (st : StackIx) (s : State) : Out :=
  .next (
    let x := s.stack st
    match x.quiesce with
    | none => s
    | some q =>
      if q.stage ≠ 1 then s
      else
        let x := (([0, 1, 2, 3] : List Nat).filter (linkUp x)).foldl (fun x l =>
          sendOn s.now x l { ty := .nodeDown, src := nodeId x, dst := (partnerOf x l).getD 0xFFFF, data := moduleIds x }) x
        let x := ((List.range 8).filter (linkRuns x)).foldl (fun x l =>
          (dropWaiting (setReg (sendLinkDown s.now x l) (rIvtLink l) (setFld (reg x (rIvtLink l)) 0 3 3)) l).setLink l Link.reset) x
        quiesceOver (s.setStack st { x with quiesce := some { q with stage := 2 } }))

/-- A bridge trained in service: which of its 131 groups, if any, has failed by then and goes onto the spare group is not the command's to say: a free
value, where the spare is free (R382, R489; log 26). -/
def spareGroup (now l : Nat) (t : LinkTrain) : LinkTrain :=
  let g := Config.unstated 26 (8 * now + l) % 132
  if l < 4 ∨ t.align.spare.isSome ∨ g = 131 then t else { t with align := { t.align with spare := some (Fin.ofNat 132 g) } }

/-- LINK_RETRAIN (R383, R489, R572): a link that is down trains again while its partner's lanes are there; a group of a bridge switched onto the spare
one gives a new training record. -/
def execLinkRetrain (l : LinkAt) (s : State) : Out :=
  .next (
    let x := s.stack l.st
    let n := l.l.val
    let stopped : Bool := match x.quiesce with | some q => decide (2 ≤ q.stage) | none => false
    if x.boot = .off ∨ linkState x n ≠ 3 ∨ stopped ∨ !partnerThere s x n ∨ transitHeld x then s
    else
      let t := spareGroup s.now n (retrained x n)
      let s := s.setStack l.st (trainLink s.now x n t)
      if t.align = (retrained x n).align then s else writeTraining s l.st)

end Sys2Proof.Machine
end

