-- ==== Sys2Proof/Machine/KvRows.lean ====
section
/-! DEFINITION. The commands of the KV cache engine (11). A command presented where its condition does not hold changes
nothing. -/

namespace Sys2Proof.Machine
open Sys2Proof

/-- KV_POOL_CONFIG (R334): an issuer's command. -/
def execKvPoolConfig (st : StackIx) (src : KvSource) (s : State) : Out :=
  onSt s st (fun x => match src with
    | .issuer r => (match startedCmd x r with
      | some c => if c.op = 0x0300 then kvPoolConfig s.now x c else x
      | none => x)
    | .agent _ => x)

/-- KV_SEQ_CREATE (R342). -/
def execKvSeqCreate (st : StackIx) (src : KvSource) (s : State) : Out := onSt s st (fun x => kvRow s.now x src 0x0301)

/-- KV_STEP_RESERVE (R348, R349, R354-R356). -/
def execKvStepReserve (st : StackIx) (src : KvSource) (s : State) : Out := onSt s st (fun x => kvRow s.now x src 0x0302)

/-- KV_FORK (R353). -/
def execKvFork (st : StackIx) (src : KvSource) (s : State) : Out := onSt s st (fun x => kvRow s.now x src 0x0303)

/-- KV_FREE (R355). -/
def execKvFree (st : StackIx) (src : KvSource) (s : State) : Out := onSt s st (fun x => kvRow s.now x src 0x0304)

/-- KV_SET_EVICTION (R342). -/
def execKvSetEviction (st : StackIx) (src : KvSource) (s : State) : Out := onSt s st (fun x => kvRow s.now x src 0x0305)

/-- KV_APPEND (R350, R351). -/
def execKvAppend (st : StackIx) (src : KvSource) (s : State) : Out := onSt s st (fun x => kvRow s.now x src 0x0306)

/-- KV_COMMIT (R352). -/
def execKvCommit (st : StackIx) (src : KvSource) (s : State) : Out := onSt s st (fun x => kvRow s.now x src 0x0307)

/-- KV_GET_SEQ (R342). -/
def execKvGetSeq (st : StackIx) (src : KvSource) (s : State) : Out := onSt s st (fun x => kvRow s.now x src 0x0308)

/-- KV_AGENT_TAKE (R149, R343). -/
def execKvAgentTake (r : RowAt) (s : State) : Out := onSt s r.st (fun x => agentTake x r.r.val)

/-- KV_PHASE (R345). -/
def execKvPhase (st : StackIx) (s : State) : Out := onSt s st (fun x => kvPhase s.now x)

end Sys2Proof.Machine
end

