-- ==== Sys2Proof/Machine/PinRows.lean ====
section
/-! DEFINITION. Pins, the input stage, REFCLK, the I3C sideband with MCTP and PLDM, the indicators (18). A command presented where its condition
does not hold changes nothing. -/

namespace Sys2Proof.Machine
open Sys2Proof

/-! ### Supplies (R462, R504, R569-R576, R581, R583, R590) -/

/-- Cycles in a second. -/
def cyclesSecond : Nat := 2500000000

/-- Whether the latches of a trip have been cleared by PWR_EN low for a second (R573). -/
def latchOver (s : State) : Bool := !s.mc.pwrEn && decide (s.mc.enLow + cyclesSecond ≤ s.now)

/-- Whether VIN_PKG may be on: PWR_EN, the supply, the coolant, no latch, the input in range, and not removed by a QUIESCE (R505, R571, R581). -/
def mayPower (m : ModCtl) : Bool :=
  m.supply && m.pwrEn && m.cool.qualified && !m.overcurrent && !m.thermal && decide (m.input ≠ 2 ∧ m.input ≠ 3) && decide (m.blue = 0)

/-- HOUSEKEEPING_START: the module controller starts and samples SLOT_ID. A thermal latch that stood through the loss of the supply shows on
THERMTRIP_L again. -/
def execHousekeepingStart (slotId : BitVec 6) (s : State) : Out :=
  .next (if s.mc.supply then s
    else updateFaultL { s with mc := { s.mc with
      supply := true, slotId := slotId, thermtripL := s.mc.thermal, cool := CoolCtl.reset, i3c := none, eid := 0, receiver := none, expected := none } })

/-- PWR_EN_ASSERT: latches that a second of PWR_EN low has cleared are gone; VIN_PKG soft-starts once the coolant is qualified.
Without the housekeeping supply the pin alone changes. -/
def execPwrEnAssert (s : State) : Out :=
  .next (if s.mc.pwrEn then s
    else
      let m := s.mc
      let m := if latchOver s then
          { m with overcurrent := false, thermal := false, thermtripL := false, input := if m.input = 4 ∨ m.input = 5 then 0 else m.input }
        else m
      let m := { m with pwrEn := true, blue := 0 }
      { s with mc := { m with vin := mayPower m } })

/-- PWR_EN_DEASSERT: VIN_PKG goes whatever runs; a power cycle is complete (R590). -/
def execPwrEnDeassert (s : State) : Out :=
  .next (if !s.mc.pwrEn then s
    else
      let n := s.mc.powerCycles + one s.mc.pwrGood 1
      let s := moduleOff s
      { s with mc := { s.mc with pwrEn := false, lost := false, enLow := s.now, powerCycles := n, input := if s.mc.input = 1 then 0 else s.mc.input } })

/-- A stack at module power-on: OTP remains, bring-up begins in ROM (R485, R499). Where record copies come back to it, its SEQ goes on from theirs. -/
def powerOnStack (now : Nat) (copies : List Record) (x : Stack) : Stack :=
  { powerOff x with boot := .rom, faults := { Collector.reset with next := copies.foldl (fun n r => max n (r.seq + 1)) 1 }, bring := { BringUp.reset with since := now, stateAt := now, powerOn := true } }

/-- PWR_GOOD: VIN_PKG is up; every stack begins module power-on. The expected topology is lost (R497), power settings are their defaults (R445). The
record copies are lost at a module power-on by PWR_EN (Table 15.6); after a loss of power, from which the input comes back by itself, the stacks get them
back (R525; DESIGN CHOICE, log 116). -/
def execPwrGood (s : State) : Out :=
  .next (if !mayPower s.mc ∨ s.mc.pwrGood then s
    else
      let copies := if s.mc.lost then s.mc.copies else Quad.all []
      let s := allStacks.foldl (fun s i => s.onStack i (powerOnStack s.now (copies.get i))) s
      updateFaultL { s with mc := { s.mc with
        vin := true, pwrGood := true, onAt := s.now, input := 1, attn := none, copies := copies, lost := false, expected := none, activating := none,
        budget := 2200, slope := 400, caps := Quad.all 520, swings := [] } })

/-- INPUT_UNDERVOLTAGE: with the input stage the housekeeping supply stops, and FAULT_L and THERMTRIP_L are released (R570, R573). -/
def execInputUndervoltage (s : State) : Out :=
  .next (if !s.mc.supply then s else let s := moduleOff s; { s with mc := { s.mc with input := 2, supply := false, faultL := false, thermtripL := false } })

/-- INPUT_OVERVOLTAGE. -/
def execInputOvervoltage (s : State) : Out :=
  .next (if !s.mc.supply then s else let s := moduleOff s; { s with mc := { s.mc with input := 3 } })

/-- INPUT_OVERCURRENT: the hot-swap stage latches off. -/
def execInputOvercurrent (s : State) : Out :=
  .next (if !s.mc.supply then s else let s := moduleOff s; { s with mc := { s.mc with input := 4, overcurrent := true } })

/-- INPUT_RESTORE: with PWR_EN asserted VIN_PKG soft-starts again. -/
def execInputRestore (s : State) : Out :=
  .next (if !s.mc.pwrEn ∨ (s.mc.input ≠ 2 ∧ s.mc.input ≠ 3) then s
    else
      let m := { s.mc with input := if s.mc.overcurrent then 4 else if s.mc.thermal then 5 else 0 }
      { s with mc := { m with vin := mayPower m } })

/-- REMOVE_INDICATOR: every rail below 0.2 V with PWR_EN deasserted or a QUIESCE complete. -/
def execRemoveIndicator (s : State) : Out :=
  .next (if s.mc.supply ∧ !s.mc.vin ∧ (!s.mc.pwrEn ∨ s.mc.blue = 1) then { s with mc := { s.mc with blue := 2 } } else s)

/-- The amber indicator: 0 off, 1 steady while FAULT_L is asserted, 2 blinking while THERMTRIP_L is asserted or the overcurrent latch is set (R583).
Where both hold it blinks (DESIGN CHOICE, log 35). -/
def amberIndicator (m : ModCtl) : Nat :=
  if m.supply ∧ (m.thermtripL ∨ m.overcurrent) then 2 else one m.faultL 1

/-! ### ATTN_L (R506) -/

/-- ATTN_L: asserted again it has no further effect. -/
def execAttnL (s : State) : Out :=
  .next (if !s.mc.supply ∨ s.mc.attn.isSome then s
    else
      let s := sendEvent s .removalRequest
      if !s.mc.pwrGood then s
      else quiesceOver (finishQuiesce (allStacks.foldl (quiesceAt false true) { s with mc := { s.mc with attn := some s.now } })))

/-- QUIESCE_ABORT_TIMEOUT: jobs that still run are aborted. -/
def execQuiesceAbortTimeout (s : State) : Out :=
  .next (if s.mc.attn.isNone then s
    else finishQuiesce (allStacks.foldl (fun s i => if (s.stack i).quiesce.isSome then quiesceAt true true s i else s) s))

/-! ### REFCLK (R572) -/

/-- REFCLK_LOSS: the ports lose codeword lock. -/
def execRefclkLoss (s : State) : Out :=
  .next (
    let s := { s with mc := { s.mc with refclk := false } }
    allStacks.foldl (fun s i =>
      if (s.stack i).boot = .off then s
      else onMember s i (fun x => ([0, 1, 2, 3] : List Nat).foldl (linkLost s.now) x)) s)

/-- REFCLK_RETURN: ports that are down train again. -/
def execRefclkReturn (s : State) : Out :=
  .next (
    let s := { s with mc := { s.mc with refclk := true } }
    allStacks.foldl (fun s i => s.onStack i (fun x =>
      let stopped : Bool := match x.quiesce with | some q => decide (2 ≤ q.stage) | none => false
      let down := ([0, 1, 2, 3] : List Nat).filter (fun l => linkState x l = 3)
      if x.boot = .off ∨ stopped then x
      else if transitHeld x then { x with resetting := x.resetting.map (fun r => { r with runs := r.runs ++ down.map (fun l => (l, 0)) }) }
      else down.foldl (fun x l => trainLink s.now x l (retrained x l)) x)) s)

/-! ### I3C and MCTP control (R577, R578) -/

/-- A message that the module sends on the sideband. -/
def say (s : State) (bytes : List Byte) : State := { s with mc := { s.mc with out := bytes :: s.mc.out } }

/-- Whether messages other than control messages are accepted: the bus owner has assigned an endpoint ID. -/
def hasEid (s : State) : Bool := s.mc.supply && decide (s.mc.eid ≠ 0)

/-- SETDASA: a target without a dynamic address takes it (log 34). -/
def execSetdasa (addr : BitVec 7) (s : State) : Out :=
  .next (if s.mc.supply ∧ s.mc.i3c = none then { s with mc := { s.mc with i3c := some addr } } else s)

/-- ENTDAA: a target without a dynamic address takes part (log 34). -/
def execEntdaa (addr : BitVec 7) (s : State) : Out :=
  .next (if s.mc.supply ∧ s.mc.i3c = none then { s with mc := { s.mc with i3c := some addr } } else s)

/-- Set Endpoint ID. -/
def execSetEndpointId (eid : Byte) (s : State) : Out :=
  .next (if !s.mc.supply then s else say { s with mc := { s.mc with eid := eid } } (Config.sidebandBody 0x01 [eid]))

/-- Get Endpoint ID. -/
def execGetEndpointId (s : State) : Out := .next (if !s.mc.supply then s else say s (Config.sidebandBody 0x02 [s.mc.eid]))

/-- Get MCTP Version Support. -/
def execGetMctpVersionSupport (s : State) : Out := .next (if !s.mc.supply then s else say s (Config.sidebandBody 0x04 []))

/-- The message types of the module. -/
def messageTypes : List Byte := [0x00, 0x01, 0x7F]

/-- Get Message Type Support. -/
def execGetMessageTypeSupport (s : State) : Out := .next (if !s.mc.supply then s else say s (Config.sidebandBody 0x05 messageTypes))

/-! ### Cipauc over MCTP (R425, R427, R462, R500, R578, R579) -/

/-- The command that a message carries: none where it is discarded. With the integrity-check bit its last four bytes are CRC-32C of the rest (log 32). -/
def mctpCommand (m : List Byte) : Option (List Byte) :=
  let ic := decide (m.head? = some 0xFF#8)
  let n := m.length - 4
  if ic ∧ (m.length < 12 ∨ bytesNat (m.drop n) ≠ (crc32c (m.take n)).toNat) then none
  else
    let m := if ic then m.take n else m
    if (m.head? = some 0x7F#8 ∨ ic) ∧ (m.drop 1).take 4 = [0x00, 0x00, 0xE4, 0xA9] ∧ m[5]? = some 1#8 then some (m.drop 8) else none

/-- A stack comes back from COLD (R462, R486): the module controller reloads B, S and its cap; the partition map is lost, so that it is of partition 0
(R435), DISABLED where that is (log 119). -/
def coldExit (s : State) (i : StackIx) : State :=
  let off := (allStacks.filter (fun j => decide (j ≠ i ∧ (s.stack j).part = 0 ∧ (s.stack j).pstate = .disabled))) ≠ []
  updateFaultL <| s.onStack i (fun x =>
    let w := bv 64 (s.mc.budget * 2 ^ 48 + s.mc.slope * 2 ^ 32 + s.mc.caps.get i)
    bumpReset (setReg { x with
      part := 0, pstate := if off then .disabled else .idle
      boot := .rom, cold := false, bring := { BringUp.reset with since := s.now, stateAt := s.now, fromCold := true }
      power := { x.power with cap := s.mc.caps.get i } } rPwrLimit w) 7)

/-- Commands relayed and not answered. -/
def relayed (s : State) : Nat := allStacks.foldl (fun n i => n + ((heldCmds (s.stack i)).filter Cmd.mctp).length) 0

/-- The stack that carries out a command of TKIND 3, which over MCTP goes to the module controller (R434): the first that accepts it (DESIGN CHOICE,
log 75). -/
def carrier (s : State) (c : Cmd) (bs : List Byte) : Option StackIx :=
  let w := fun i => word64At bs (8 * i)
  allStacks.find? (fun i => decide ((s.stack i).boot ≠ .off) && (arrivalStatus hasChecker (s.stack i) ((usedParts s).map (fun e => e.1)) c (w 2) (w 3)
    ((List.range 4).any (fun j => decide (w (4 + j) ≠ 0))) (columnsHeld (s.stack i))).isNone)

/-- MCTP_MESSAGE: the command goes to the stack that STACK names, one of TKIND 3 to a stack that carries it out for the module; the module controller
answers for one in COLD or without power, and drives a stack reset itself where a base non-transit reset runs. -/
def execMctpMessage (m : List Byte) (s : State) : Out :=
  .next (
    if !hasEid s then s
    else
      match mctpCommand m with
      | none => s
      | some bs =>
        let c := cmdOfBytes 0x10000 8 0 s.now bs
        let i : StackIx := if c.tkind = 3 then (carrier s c bs).getD 0 else Fin.ofNat 4 (fld c.w1 14 2)
        let tick := arrivalTick (s.stack i) (usedParts s) c
        let answer := fun (s : State) (st : Nat) => say s (mctpReply (replyBytes s.now tick c st [] [] false))
        let x := s.stack i
        let reset := decide (c.op = 0x0003 ∧ c.arg 0 = 1)
        if bs.length < 128 ∨ bs.length ≠ 128 + fld c.w1 32 32 then answer s stInvalidParam
        else if 16 ≤ relayed s then answer s stBusy
        else if x.boot = .off then
          if x.cold && s.mc.vin && reset then answer (coldExit s i) stOk else answer s stState
        else if columnsHeld x && reset then answer (startStack s i 1) stOk
        else s.setStack i (arriveCmd hasChecker s.now x (usedParts s) (columnsHeld x) c bs))

/-! ### PLDM (R580, R582, R590, Table 18.10) -/

/-- PLDM Base. -/
def execPldmBase (code : Byte) (body : List Byte) (s : State) : Out :=
  .next (if hasEid s then say s (Config.sidebandBody (0x0000 + 0x100 + code.toNat) body) else s)

/-- The input stage's state (sensor 0x0050). -/
def inputState (s : State) : Nat := if (s.mc.input = 4 ∨ s.mc.input = 5) ∧ latchOver s then 0 else s.mc.input

/-- THM_COOLANT of the first stack that is powered. -/
def coolantWord (s : State) : Word :=
  match allStacks.find? (fun i => decide ((s.stack i).boot ≠ .off)) with
  | some i => reg (s.stack i) rThmCoolant
  | none => resetValue rThmCoolant

/-- A temperature code as a two's complement 32-bit number. -/
def tempNat (t : Int) : Nat := (BitVec.ofInt 32 t).toNat

/-- A sensor of Table 18.10, in the units of its source: codes of 0.125 °C, mL/min, W, codes and counts. What the input stage measures is no state of the
model (log 33). -/
def sensorValue (s : State) (n : Nat) : Option Nat :=
  let w := coolantWord s
  if n = 1 then some (tempNat (codeTemp (bv 12 (fld w 24 12))))
  else if n = 2 then some (tempNat (codeTemp (bv 12 (fld w 36 12))))
  else if n = 3 then some (fld w 48 16)
  else if 4 ≤ n ∧ n ≤ 6 then some (Config.unstated 33 (8 * s.now + n))
  else if 0x10 ≤ n ∧ n < 0x14 then some (fld (readReg s (Fin.ofNat 4 (n - 0x10)) rPwrStatus) 34 10)
  else if 0x20 ≤ n ∧ n < 0x30 then
    let x := s.stack (Fin.ofNat 4 ((n - 0x20) / 4))
    some (tempNat (match (n - 0x20) % 4 with
      | 0 => dieReading x 0
      | 1 => dieReading x 1
      | 2 => (List.range 7).foldl (fun t l => max t (dieReading x (9 + l))) (dieReading x 8)
      | _ => dieReading x 2))
  else if 0x40 ≤ n ∧ n < 0x44 then some (bootCode (s.stack (Fin.ofNat 4 (n - 0x40))).boot)
  else if n = 0x50 then some (inputState s)
  else if n = 0x51 then some (one s.mc.refclk 1)
  else if n = 0x60 then some s.mc.powerCycles
  else if n = 0x61 then some s.mc.thermalCycles
  else none

/-- PLDM_SENSOR_READ. -/
def execPldmSensorRead (sensor : Nat) (s : State) : Out :=
  .next (if !hasEid s then s
    else match sensorValue s sensor with
      | some v => say s (Config.sidebandBody 0x211 (natBytes 2 sensor ++ natBytes 4 v))
      | none => say s (Config.sidebandBody 0x2FF (natBytes 2 sensor)))

/-- A chunk passed on to stack `i` as FW_STAGE. -/
def chunkAt (c : FwChunk) (i : StackIx) (s : State) : Nat × State :=
  let x := s.stack i
  if x.boot = .quiesced then (stState, s)
  else if columnsHeld x || x.power.coolantHold then (stBusy, s)
  else
    let (e, y) := stageChunk x c.offset c.total c.last c.data
    (e, s.setStack i y)

/-- REQUEST_FIRMWARE_DATA: the chunk goes to every stack; the first failure fails the component. -/
def execRequestFirmwareData (chunk : FwChunk) (s : State) : Out :=
  .next (if !hasEid s then s
    else
      let (e, s) := onTargets s allStacks (chunkAt chunk)
      say s (Config.sidebandBody 0x515 (natBytes 2 e)))

/-- ACTIVATE_FIRMWARE: refused while any partition has a job, or where a stack holds no verified image. -/
def execActivateFirmware (s : State) : Out :=
  .next (if !hasEid s then s
    else if s.mc.activating.isSome ∨ allStacks.any (fun i => let x := s.stack i; jobHeld x || !x.trust.verified || columnsHeld x) then
      say s (Config.sidebandBody 0x51A [1])
    else activateNext (say s (Config.sidebandBody 0x51A [0])) 0)

/-- EVENT_RECEIVER. -/
def execEventReceiver (eid : Byte) (s : State) : Out :=
  .next (if hasEid s then { s with mc := { s.mc with receiver := some eid } } else s)

end Sys2Proof.Machine
end

