-- ==== Sys2Proof/Machine/TickRows.lean ====
section
/-! DEFINITION. The commands of ticks and tokens (02). A command presented where its condition does not hold changes
nothing. -/

namespace Sys2Proof.Machine
open Sys2Proof

/-- START_TOKEN (R57, R59). -/
def execStartToken (st : StackIx) (t : Token) (s : State) : Out := .next (onMember s st (fun x => tokenOnce s.now x .start t (startToken s.now)))

/-- DONE_TOKEN (R54). -/
def execDoneToken (st : StackIx) (t : Token) (s : State) : Out := .next (onMember s st (fun x => tokenOnce s.now x .done t (doneToken s.now)))

/-- GO_TOKEN (R55, R59, R439). -/
def execGoToken (st : StackIx) (t : Token) (s : State) : Out := .next (onMember s st (fun x => tokenOnce s.now x .go t (goToken s.now)))

/-- ABORT_TOKEN (R70). -/
def execAbortToken (st : StackIx) (t : Token) (s : State) : Out := .next (onMember s st (fun x => tokenOnce s.now x .abort t (abortToken s.now)))

/-- TICK_DONE_SEND (R50, R67, R400). -/
def execTickDoneSend (st : StackIx) (late : Nat) (bad : List Nat) (s : State) : Out :=
  .next (onMember s st (fun x => tickDoneSend s.now x late bad))

/-- TICK_START (R60, R62, R70, R450, R452, R457). -/
def execTickStart (st : StackIx) (m : TickMeasure) (s : State) : Out :=
  .next (onMember s st (fun x => tickStart s.now x m))

/-- TICK_OVERRUN (R67). -/
def execTickOverrun (st : StackIx) (s : State) : Out := onSt s st tickOverrun

/-- TICK_CLOSE (R68, R69, R402). -/
def execTickClose (st : StackIx) (s : State) : Out := onSt s st (fun x => tickClose s.now x)

end Sys2Proof.Machine
end

