-- ==== Sys2Proof/Machine/Dispatch.lean ====
section
/-! DEFINITION. One arm per command: a direct call of its meaning. -/

namespace Sys2Proof.Machine
open Sys2Proof

def exec (i : Instr) (s : State) : Host.Outcome State Fault Refusal :=
  match i with
  | .seqFetchDispatch a u => Sys2Proof.Machine.execSeqFetchDispatch a u s
  | .nop a => Sys2Proof.Machine.execNop a s
  | .halt a => Sys2Proof.Machine.execHalt a s
  | .phase a tag => Sys2Proof.Machine.execPhase a tag s
  | .br a target => Sys2Proof.Machine.execBr a target s
  | .brc a src target z u => Sys2Proof.Machine.execBrc a src target z u s
  | .loop a src count stop u => Sys2Proof.Machine.execLoop a src count stop u s
  | .endloop a => Sys2Proof.Machine.execEndloop a s
  | .engineOpStart a e u => Sys2Proof.Machine.execEngineOpStart a e u s
  | .engineOpComplete a e => Sys2Proof.Machine.execEngineOpComplete a e s
  | .pass a o => Sys2Proof.Machine.execPass a o s
  | .passStart a => Sys2Proof.Machine.execPassStart a s
  | .passStepComplete a flips => Sys2Proof.Machine.execPassStepComplete a flips s
  | .passReplay a => Sys2Proof.Machine.execPassReplay a s
  | .passRetire a => Sys2Proof.Machine.execPassRetire a s
  | .drain a o => Sys2Proof.Machine.execDrain a o s
  | .vxAdd a o => Sys2Proof.Machine.execVxAdd a o s
  | .vxSub a o => Sys2Proof.Machine.execVxSub a o s
  | .vxMul a o => Sys2Proof.Machine.execVxMul a o s
  | .vxFma a o => Sys2Proof.Machine.execVxFma a o s
  | .vxMin a o => Sys2Proof.Machine.execVxMin a o s
  | .vxMax a o => Sys2Proof.Machine.execVxMax a o s
  | .vxAbs a o => Sys2Proof.Machine.execVxAbs a o s
  | .vxNeg a o => Sys2Proof.Machine.execVxNeg a o s
  | .vxMov a o => Sys2Proof.Machine.execVxMov a o s
  | .vxSel a o => Sys2Proof.Machine.execVxSel a o s
  | .vxAnd a o => Sys2Proof.Machine.execVxAnd a o s
  | .vxOr a o => Sys2Proof.Machine.execVxOr a o s
  | .vxXor a o => Sys2Proof.Machine.execVxXor a o s
  | .vxShl a o => Sys2Proof.Machine.execVxShl a o s
  | .vxShr a o => Sys2Proof.Machine.execVxShr a o s
  | .vxSra a o => Sys2Proof.Machine.execVxSra a o s
  | .vxBcast a o => Sys2Proof.Machine.execVxBcast a o s
  | .vxCmpeq a o => Sys2Proof.Machine.execVxCmpeq a o s
  | .vxCmpne a o => Sys2Proof.Machine.execVxCmpne a o s
  | .vxCmplt a o => Sys2Proof.Machine.execVxCmplt a o s
  | .vxCmple a o => Sys2Proof.Machine.execVxCmple a o s
  | .vxCmpgt a o => Sys2Proof.Machine.execVxCmpgt a o s
  | .vxCmpge a o => Sys2Proof.Machine.execVxCmpge a o s
  | .vxExp a o => Sys2Proof.Machine.execVxExp a o s
  | .vxExp2 a o => Sys2Proof.Machine.execVxExp2 a o s
  | .vxLn a o => Sys2Proof.Machine.execVxLn a o s
  | .vxLog2 a o => Sys2Proof.Machine.execVxLog2 a o s
  | .vxRcp a o => Sys2Proof.Machine.execVxRcp a o s
  | .vxSqrt a o => Sys2Proof.Machine.execVxSqrt a o s
  | .vxRsqrt a o => Sys2Proof.Machine.execVxRsqrt a o s
  | .vxTanh a o => Sys2Proof.Machine.execVxTanh a o s
  | .vxSigmoid a o => Sys2Proof.Machine.execVxSigmoid a o s
  | .vxErf a o => Sys2Proof.Machine.execVxErf a o s
  | .vxCvt a o => Sys2Proof.Machine.execVxCvt a o s
  | .vxCvtmx a o => Sys2Proof.Machine.execVxCvtmx a o s
  | .vxRsum a o => Sys2Proof.Machine.execVxRsum a o s
  | .vxRmin a o => Sys2Proof.Machine.execVxRmin a o s
  | .vxRmax a o => Sys2Proof.Machine.execVxRmax a o s
  | .vxGath a o => Sys2Proof.Machine.execVxGath a o s
  | .vxScat a o => Sys2Proof.Machine.execVxScat a o s
  | .vxScatadd a o => Sys2Proof.Machine.execVxScatadd a o s
  | .sxAdd a o => Sys2Proof.Machine.execSxAdd a o s
  | .sxSub a o => Sys2Proof.Machine.execSxSub a o s
  | .sxMul a o => Sys2Proof.Machine.execSxMul a o s
  | .sxAnd a o => Sys2Proof.Machine.execSxAnd a o s
  | .sxOr a o => Sys2Proof.Machine.execSxOr a o s
  | .sxXor a o => Sys2Proof.Machine.execSxXor a o s
  | .sxShl a o => Sys2Proof.Machine.execSxShl a o s
  | .sxShr a o => Sys2Proof.Machine.execSxShr a o s
  | .sxSra a o => Sys2Proof.Machine.execSxSra a o s
  | .sxSel a o => Sys2Proof.Machine.execSxSel a o s
  | .sxMov a o => Sys2Proof.Machine.execSxMov a o s
  | .sxLui a o => Sys2Proof.Machine.execSxLui a o s
  | .sxMin a o => Sys2Proof.Machine.execSxMin a o s
  | .sxMax a o => Sys2Proof.Machine.execSxMax a o s
  | .sxCmpeq a o => Sys2Proof.Machine.execSxCmpeq a o s
  | .sxCmpne a o => Sys2Proof.Machine.execSxCmpne a o s
  | .sxCmplt a o => Sys2Proof.Machine.execSxCmplt a o s
  | .sxCmple a o => Sys2Proof.Machine.execSxCmple a o s
  | .sxCmpltu a o => Sys2Proof.Machine.execSxCmpltu a o s
  | .sxCmpleu a o => Sys2Proof.Machine.execSxCmpleu a o s
  | .sxFadd a o => Sys2Proof.Machine.execSxFadd a o s
  | .sxFmul a o => Sys2Proof.Machine.execSxFmul a o s
  | .sxFfma a o => Sys2Proof.Machine.execSxFfma a o s
  | .sxCvtf a o => Sys2Proof.Machine.execSxCvtf a o s
  | .sxCvti a o => Sys2Proof.Machine.execSxCvti a o s
  | .kvcmd a o => Sys2Proof.Machine.execKvcmd a o s
  | .ldl a o => Sys2Proof.Machine.execLdl a o s
  | .ldx a o => Sys2Proof.Machine.execLdx a o s
  | .atom a o => Sys2Proof.Machine.execAtom a o s
  | .stl a o => Sys2Proof.Machine.execStl a o s
  | .stx a o => Sys2Proof.Machine.execStx a o s
  | .ldstRequestIssue a e u => Sys2Proof.Machine.execLdstRequestIssue a e u s
  | .lineLand a req fails failing u => Sys2Proof.Machine.execLineLand a req fails failing u s
  | .storeAck a req => Sys2Proof.Machine.execStoreAck a req s
  | .requestErrorAnswer a req => Sys2Proof.Machine.execRequestErrorAnswer a req s
  | .retryLaterResend a req => Sys2Proof.Machine.execRetryLaterResend a req s
  | .nlSend a o => Sys2Proof.Machine.execNlSend a o s
  | .linkLineLand a d failing => Sys2Proof.Machine.execLinkLineLand a d failing s
  | .linkCreditReturn a d => Sys2Proof.Machine.execLinkCreditReturn a d s
  | .fxWait a flag v gate => Sys2Proof.Machine.execFxWait a flag v gate s
  | .fxWaitc a flag gate => Sys2Proof.Machine.execFxWaitc a flag gate s
  | .fxSet a flag after => Sys2Proof.Machine.execFxSet a flag after s
  | .fxClr a flag after => Sys2Proof.Machine.execFxClr a flag after s
  | .fxSignal a target flag after => Sys2Proof.Machine.execFxSignal a target flag after s
  | .tickEnd a => Sys2Proof.Machine.execTickEnd a s
  | .fxEntryComplete a ix => Sys2Proof.Machine.execFxEntryComplete a ix s
  | .rowFlagTest r => Sys2Proof.Machine.execRowFlagTest r s
  | .signalDeliver a flag => Sys2Proof.Machine.execSignalDeliver a flag s
  | .tickEndComplete a => Sys2Proof.Machine.execTickEndComplete a s
  | .startToken st t => Sys2Proof.Machine.execStartToken st t s
  | .doneToken st t => Sys2Proof.Machine.execDoneToken st t s
  | .goToken st t => Sys2Proof.Machine.execGoToken st t s
  | .abortToken st t => Sys2Proof.Machine.execAbortToken st t s
  | .tickDoneSend st late bad => Sys2Proof.Machine.execTickDoneSend st late bad s
  | .tickStart st m => Sys2Proof.Machine.execTickStart st m s
  | .tickOverrun st => Sys2Proof.Machine.execTickOverrun st s
  | .tickClose st => Sys2Proof.Machine.execTickClose st s
  | .pantryRequestArrive a e t => Sys2Proof.Machine.execPantryRequestArrive a e t s
  | .pantryWindowClose r t => Sys2Proof.Machine.execPantryWindowClose r t s
  | .pantryPortIssue r t => Sys2Proof.Machine.execPantryPortIssue r t s
  | .pantrySlotTake r t => Sys2Proof.Machine.execPantrySlotTake r t s
  | .pantrySubbankGrant st b k u => Sys2Proof.Machine.execPantrySubbankGrant st b k u s
  | .glazeDeliver r fails failing => Sys2Proof.Machine.execGlazeDeliver r fails failing s
  | .vaultRequestArrive p id t => Sys2Proof.Machine.execVaultRequestArrive p id t s
  | .vaultGrant p t u => Sys2Proof.Machine.execVaultGrant p t u s
  | .columnTransferDone p fails failing => Sys2Proof.Machine.execColumnTransferDone p fails failing s
  | .topAccessComplete st a => Sys2Proof.Machine.execTopAccessComplete st a s
  | .rateWindowStart p t => Sys2Proof.Machine.execRateWindowStart p t s
  | .refreshDue p bank layer t => Sys2Proof.Machine.execRefreshDue p bank layer t s
  | .sliceBankGrant a b u => Sys2Proof.Machine.execSliceBankGrant a b u s
  | .softRowRepair p x => Sys2Proof.Machine.execSoftRowRepair p x s
  | .softGroupRepair p x => Sys2Proof.Machine.execSoftGroupRepair p x s
  | .nbuEntryStart p => Sys2Proof.Machine.execNbuEntryStart p s
  | .nbuRowOpComplete p fails failing => Sys2Proof.Machine.execNbuRowOpComplete p fails failing s
  | .nbuMatvec p x => Sys2Proof.Machine.execNbuMatvec p x s
  | .nbuRsum p x => Sys2Proof.Machine.execNbuRsum p x s
  | .nbuRmin p x => Sys2Proof.Machine.execNbuRmin p x s
  | .nbuRmax p x => Sys2Proof.Machine.execNbuRmax p x s
  | .nbuEadd p x => Sys2Proof.Machine.execNbuEadd p x s
  | .nbuEmul p x => Sys2Proof.Machine.execNbuEmul p x s
  | .nbuEmin p x => Sys2Proof.Machine.execNbuEmin p x s
  | .nbuEmax p x => Sys2Proof.Machine.execNbuEmax p x s
  | .nbuEaxpy p x => Sys2Proof.Machine.execNbuEaxpy p x s
  | .nbuEscal p x => Sys2Proof.Machine.execNbuEscal p x s
  | .nbuScatadd p x => Sys2Proof.Machine.execNbuScatadd p x s
  | .nbuCvt p x => Sys2Proof.Machine.execNbuCvt p x s
  | .nbuLoad st c => Sys2Proof.Machine.execNbuLoad st c s
  | .nbuRun st c => Sys2Proof.Machine.execNbuRun st c s
  | .nbuGetState st c => Sys2Proof.Machine.execNbuGetState st c s
  | .kvPoolConfig st src => Sys2Proof.Machine.execKvPoolConfig st src s
  | .kvSeqCreate st src => Sys2Proof.Machine.execKvSeqCreate st src s
  | .kvStepReserve st src => Sys2Proof.Machine.execKvStepReserve st src s
  | .kvFork st src => Sys2Proof.Machine.execKvFork st src s
  | .kvFree st src => Sys2Proof.Machine.execKvFree st src s
  | .kvSetEviction st src => Sys2Proof.Machine.execKvSetEviction st src s
  | .kvAppend st src => Sys2Proof.Machine.execKvAppend st src s
  | .kvCommit st src => Sys2Proof.Machine.execKvCommit st src s
  | .kvGetSeq st src => Sys2Proof.Machine.execKvGetSeq st src s
  | .kvAgentTake r => Sys2Proof.Machine.execKvAgentTake r s
  | .kvPhase st => Sys2Proof.Machine.execKvPhase st s
  | .rd l k => Sys2Proof.Machine.execRd l k s
  | .wr l k => Sys2Proof.Machine.execWr l k s
  | .wrm l k => Sys2Proof.Machine.execWrm l k s
  | .atomPacket l k => Sys2Proof.Machine.execAtomPacket l k s
  | .rdRsp l k => Sys2Proof.Machine.execRdRsp l k s
  | .wrAck l k => Sys2Proof.Machine.execWrAck l k s
  | .atomRsp l k => Sys2Proof.Machine.execAtomRsp l k s
  | .errRsp l k => Sys2Proof.Machine.execErrRsp l k s
  | .cmd l k => Sys2Proof.Machine.execCmd l k s
  | .cmdRpl l k => Sys2Proof.Machine.execCmdRpl l k s
  | .nodeDown l k => Sys2Proof.Machine.execNodeDown l k s
  | .mcWr l k => Sys2Proof.Machine.execMcWr l k s
  | .mcAck l k => Sys2Proof.Machine.execMcAck l k s
  | .mcDrop l k => Sys2Proof.Machine.execMcDrop l k s
  | .mcTimeout l => Sys2Proof.Machine.execMcTimeout l s
  | .collUp l k => Sys2Proof.Machine.execCollUp l k s
  | .collDown l k => Sys2Proof.Machine.execCollDown l k s
  | .packetForward l k => Sys2Proof.Machine.execPacketForward l k s
  | .dataSlotReceive l x => Sys2Proof.Machine.execDataSlotReceive l x s
  | .ack l seq => Sys2Proof.Machine.execAck l seq s
  | .nak l seq => Sys2Proof.Machine.execNak l seq s
  | .credit l cls freed => Sys2Proof.Machine.execCredit l cls freed s
  | .linkDown l => Sys2Proof.Machine.execLinkDown l s
  | .linkLockLoss l => Sys2Proof.Machine.execLinkLockLoss l s
  | .linkAckTimeout l => Sys2Proof.Machine.execLinkAckTimeout l s
  | .reqTimeout st tag => Sys2Proof.Machine.execReqTimeout st tag s
  | .ivtLostWrite st n v => Sys2Proof.Machine.execIvtLostWrite st n v s
  | .ivtRouteWrite st n v => Sys2Proof.Machine.execIvtRouteWrite st n v s
  | .registerWrite st off v => Sys2Proof.Machine.execRegisterWrite st off v s
  | .cmdAssemblyTimeout st src tag => Sys2Proof.Machine.execCmdAssemblyTimeout st src tag s
  | .commandStart st c => Sys2Proof.Machine.execCommandStart st c s
  | .identify st c => Sys2Proof.Machine.execIdentify st c s
  | .getState st c => Sys2Proof.Machine.execGetState st c s
  | .resetDomain st c => Sys2Proof.Machine.execResetDomain st c s
  | .quiesce st c => Sys2Proof.Machine.execQuiesce st c s
  | .write st c => Sys2Proof.Machine.execWrite st c s
  | .read st c => Sys2Proof.Machine.execRead st c s
  | .fill st c => Sys2Proof.Machine.execFill st c s
  | .copy st c => Sys2Proof.Machine.execCopy st c s
  | .scrub st c => Sys2Proof.Machine.execScrub st c s
  | .setRegionTag st c => Sys2Proof.Machine.execSetRegionTag st c s
  | .getRegionTag st c => Sys2Proof.Machine.execGetRegionTag st c s
  | .repairCommit st c => Sys2Proof.Machine.execRepairCommit st c s
  | .loadImem st c => Sys2Proof.Machine.execLoadImem st c s
  | .jobAdmit st c => Sys2Proof.Machine.execJobAdmit st c s
  | .domainJoin st c => Sys2Proof.Machine.execDomainJoin st c s
  | .jobStart st c => Sys2Proof.Machine.execJobStart st c s
  | .jobAbort st c => Sys2Proof.Machine.execJobAbort st c s
  | .partitionSet st c => Sys2Proof.Machine.execPartitionSet st c s
  | .partitionDisable st c => Sys2Proof.Machine.execPartitionDisable st c s
  | .partitionEnable st c => Sys2Proof.Machine.execPartitionEnable st c s
  | .setLatencyTolerance st c => Sys2Proof.Machine.execSetLatencyTolerance st c s
  | .setCap st c => Sys2Proof.Machine.execSetCap st c s
  | .phaseOpp st c => Sys2Proof.Machine.execPhaseOpp st c s
  | .phaseForecast st c => Sys2Proof.Machine.execPhaseForecast st c s
  | .enterCold st c => Sys2Proof.Machine.execEnterCold st c s
  | .faultRead st c => Sys2Proof.Machine.execFaultRead st c s
  | .faultAck st c => Sys2Proof.Machine.execFaultAck st c s
  | .faultInject st c => Sys2Proof.Machine.execFaultInject st c s
  | .attest st c => Sys2Proof.Machine.execAttest st c s
  | .licenceInstall st c => Sys2Proof.Machine.execLicenceInstall st c s
  | .fwStage st c => Sys2Proof.Machine.execFwStage st c s
  | .fwActivate st c => Sys2Proof.Machine.execFwActivate st c s
  | .fwFetch st c => Sys2Proof.Machine.execFwFetch st c s
  | .expectTopology st c => Sys2Proof.Machine.execExpectTopology st c s
  | .getTopology st c => Sys2Proof.Machine.execGetTopology st c s
  | .setNodeId st c => Sys2Proof.Machine.execSetNodeId st c s
  | .faultRecordArrive st => Sys2Proof.Machine.execFaultRecordArrive st s
  | .errorWire st w => Sys2Proof.Machine.execErrorWire st w s
  | .migrationComplete a => Sys2Proof.Machine.execMigrationComplete a s
  | .coilTest p x => Sys2Proof.Machine.execCoilTest p x s
  | .capCheck st draw => Sys2Proof.Machine.execCapCheck st draw s
  | .oppChangeComplete st => Sys2Proof.Machine.execOppChangeComplete st s
  | .meringueAdjust st draw => Sys2Proof.Machine.execMeringueAdjust st draw s
  | .arbiterPeriod vin draws => Sys2Proof.Machine.execArbiterPeriod vin draws s
  | .grantArrive st => Sys2Proof.Machine.execGrantArrive st s
  | .grantWait st => Sys2Proof.Machine.execGrantWait st s
  | .idleChoose st next => Sys2Proof.Machine.execIdleChoose st next s
  | .idleExitComplete st => Sys2Proof.Machine.execIdleExitComplete st s
  | .sensorSample st x => Sys2Proof.Machine.execSensorSample st x s
  | .thermalUpdate st x => Sys2Proof.Machine.execThermalUpdate st x s
  | .governorUpdate st => Sys2Proof.Machine.execGovernorUpdate st s
  | .thermalModelUpdate st die power => Sys2Proof.Machine.execThermalModelUpdate st die power s
  | .thermtrip st => Sys2Proof.Machine.execThermtrip st s
  | .coolantSample x => Sys2Proof.Machine.execCoolantSample x s
  | .coolantMessageRepeat m => Sys2Proof.Machine.execCoolantMessageRepeat m s
  | .coolantDerateLift m => Sys2Proof.Machine.execCoolantDerateLift m s
  | .coolantStopDeadline => Sys2Proof.Machine.execCoolantStopDeadline s
  | .coolantHoldEnd => Sys2Proof.Machine.execCoolantHoldEnd s
  | .romComplete st x => Sys2Proof.Machine.execRomComplete st x s
  | .verifyComplete st x => Sys2Proof.Machine.execVerifyComplete st x s
  | .fwFetchTimeout st => Sys2Proof.Machine.execFwFetchTimeout st s
  | .proofingComplete st x => Sys2Proof.Machine.execProofingComplete st x s
  | .packageRecord l x => Sys2Proof.Machine.execPackageRecord l x s
  | .neighbourProbe l k => Sys2Proof.Machine.execNeighbourProbe l k s
  | .probeTimeout l => Sys2Proof.Machine.execProbeTimeout l s
  | .topologyCompare st => Sys2Proof.Machine.execTopologyCompare st s
  | .baseResetEnd st => Sys2Proof.Machine.execBaseResetEnd st s
  | .resetComplete st d => Sys2Proof.Machine.execResetComplete st d s
  | .watchdogExpiry st => Sys2Proof.Machine.execWatchdogExpiry st s
  | .leafReservation st => Sys2Proof.Machine.execLeafReservation st s
  | .flashImageWrite st => Sys2Proof.Machine.execFlashImageWrite st s
  | .housekeepingStart slotId => Sys2Proof.Machine.execHousekeepingStart slotId s
  | .pwrEnAssert => Sys2Proof.Machine.execPwrEnAssert s
  | .pwrEnDeassert => Sys2Proof.Machine.execPwrEnDeassert s
  | .attnL => Sys2Proof.Machine.execAttnL s
  | .quiesceAbortTimeout => Sys2Proof.Machine.execQuiesceAbortTimeout s
  | .quiesceLinkStop st => Sys2Proof.Machine.execQuiesceLinkStop st s
  | .inputUndervoltage => Sys2Proof.Machine.execInputUndervoltage s
  | .inputOvervoltage => Sys2Proof.Machine.execInputOvervoltage s
  | .inputOvercurrent => Sys2Proof.Machine.execInputOvercurrent s
  | .inputRestore => Sys2Proof.Machine.execInputRestore s
  | .refclkLoss => Sys2Proof.Machine.execRefclkLoss s
  | .refclkReturn => Sys2Proof.Machine.execRefclkReturn s
  | .mctpMessage m => Sys2Proof.Machine.execMctpMessage m s
  | .setEndpointId eid => Sys2Proof.Machine.execSetEndpointId eid s
  | .getEndpointId => Sys2Proof.Machine.execGetEndpointId s
  | .getMctpVersionSupport => Sys2Proof.Machine.execGetMctpVersionSupport s
  | .getMessageTypeSupport => Sys2Proof.Machine.execGetMessageTypeSupport s
  | .pldmBase code body => Sys2Proof.Machine.execPldmBase code body s
  | .pldmSensorRead sensor => Sys2Proof.Machine.execPldmSensorRead sensor s
  | .requestFirmwareData chunk => Sys2Proof.Machine.execRequestFirmwareData chunk s
  | .activateFirmware => Sys2Proof.Machine.execActivateFirmware s
  | .pwrGood => Sys2Proof.Machine.execPwrGood s
  | .removeIndicator => Sys2Proof.Machine.execRemoveIndicator s
  | .aclkRestart st => Sys2Proof.Machine.execAclkRestart st s
  | .linkRetrain l => Sys2Proof.Machine.execLinkRetrain l s
  | .inTileRowOpDone p u => Sys2Proof.Machine.execInTileRowOpDone p u s
  | .fuseBurn st => Sys2Proof.Machine.execFuseBurn st s
  | .tagReuse st tag => Sys2Proof.Machine.execTagReuse st tag s
  | .setdasa addr => Sys2Proof.Machine.execSetdasa addr s
  | .entdaa addr => Sys2Proof.Machine.execEntdaa addr s
  | .eventReceiver eid => Sys2Proof.Machine.execEventReceiver eid s

end Sys2Proof.Machine
end

