-- ==== Sys2Proof/Machine/Step.lean ====
section
/-! DEFINITION. One step of the module: the command at the front of the queue takes effect; with nothing waiting, one
CCLK cycle passes. And the placing of a command that a word spells at the front of the queue. -/

namespace Sys2Proof.Machine
open Sys2Proof

/-- One step: the command at the front of the queue, on the state with the queue's rest; one CCLK cycle of 0.4 ns when
no command waits (log 4, DESIGN CHOICE: the table of commands has no row for a tick of a clock). -/
def step (s : State) : Host.Outcome State Fault Refusal :=
  match s.pending with
  | [] => .next (cycle s)
  | c :: rest => exec c { s with pending := rest }

/-- The state with the command that a word spells at the front of its queue; no row of the table of commands gives
bits, so no word spells one and the state stands as it is (log 1). -/
def State.withFetchWord (s : State) (nbits w : Nat) : State :=
  match decodeTableWord nbits w with
  | some c => { s with pending := c :: s.pending }
  | none => s

end Sys2Proof.Machine
end

