-- ==== Sys2Proof/WellFormed.lean ====
section
/-! DEFINITION. Well-formed commands: the bounds that the manual sets to operands whose types do not carry them. -/

namespace Sys2Proof

/-- Granules that the addresses of a stack reach (48 bits of address, granules of 32 bytes). -/
def upsetsWf (u : Upsets) : Bool := u.all (fun e => decide (e.1 < 2 ^ 43))

/-- Stored bits of a DRAM word: 256 of data, 16 of check (R265). -/
def dramUpsetsWf (u : DramUpsets) : Bool := u.all (fun e => decide (e.1 < 2 ^ 43 ∧ e.2 < 272))

/-- The fields of a packet header within their widths, at most 512 bytes of payload (Table 12.8). -/
def packetWf (k : Packet) : Bool :=
  decide (k.tag < 2 ^ 14 ∧ k.src < 2 ^ 16 ∧ k.dst < 2 ^ 16 ∧ k.status < 2 ^ 16 ∧ k.addr < 2 ^ 48 ∧ k.backoff < 2 ^ 16)
    && decide (k.rlen < 2 ^ 10 ∧ k.atype < 2 ^ 3 ∧ k.hops < 2 ^ 8 ∧ k.domain < 2 ^ 16 ∧ k.tick < 2 ^ 16 ∧ k.entry < 2 ^ 8)
    && decide (k.mlo < 2 ^ 8 ∧ k.mhi < 2 ^ 8 ∧ k.data.length ≤ 512)

/-- An issuer is a node, or the module controller (R427). -/
def refWf (c : CmdRef) : Bool := decide (c.issuer ≤ 0x10000)

def sourceWf (x : KvSource) : Bool := match x with | .issuer c => refWf c | .agent _ => true

/-- A hotspot is sampled once (R468). -/
def samplesWf (x : List SensorSample) : Bool := decide ((x.map (fun e => e.n)).Nodup)

/-- A firmware chunk lies within its image (R549, R582). -/
def chunkWf (c : FwChunk) : Bool := decide (c.offset + c.data.length ≤ c.total)

/-- A site has its spare coils counted once (R489). -/
def proofingWf (x : Proofing) : Bool := decide ((x.spares.map (fun e => e.1)).Nodup)

/-- Energy is charged to logical cores, once each (R450). -/
def measureWf (m : TickMeasure) : Bool := m.activity.all (fun e => decide (e.1 < 168)) && decide ((m.activity.map (fun e => e.1)).Nodup)

/-- A pass has at most 2,048 vectors, a vector at most 512 result columns (R114, R127). -/
def flipsWf (l : List Flip) : Bool := l.all (fun f => decide (f.v < 2048 ∧ f.col < 512))

/-- A flow is no more than its register holds (Table 14.14). -/
def coolantWf (x : Coolant) : Bool := decide (x.flow < 2 ^ 16)

/-- A coil fails once in a test (R533). -/
def coilsWf (x : CoilTest) : Bool := decide x.failing.Nodup

/-- A command whose operands lie within the bounds of the manual. -/
def Instr.wf (i : Instr) : Bool :=
  match i with
  | .seqFetchDispatch _ u => upsetsWf u
  | .nop _ => true
  | .halt _ => true
  | .phase _ _ => true
  | .br _ _ => true
  | .brc _ _ _ _ u => upsetsWf u
  | .loop _ _ _ _ u => upsetsWf u
  | .endloop _ => true
  | .engineOpStart _ _ u => upsetsWf u
  | .engineOpComplete _ _ => true
  | .pass _ _ => true
  | .passStart _ => true
  | .passStepComplete _ flips => flipsWf flips
  | .passReplay _ => true
  | .passRetire _ => true
  | .drain _ _ => true
  | .vxAdd _ _ => true
  | .vxSub _ _ => true
  | .vxMul _ _ => true
  | .vxFma _ _ => true
  | .vxMin _ _ => true
  | .vxMax _ _ => true
  | .vxAbs _ _ => true
  | .vxNeg _ _ => true
  | .vxMov _ _ => true
  | .vxSel _ _ => true
  | .vxAnd _ _ => true
  | .vxOr _ _ => true
  | .vxXor _ _ => true
  | .vxShl _ _ => true
  | .vxShr _ _ => true
  | .vxSra _ _ => true
  | .vxBcast _ _ => true
  | .vxCmpeq _ _ => true
  | .vxCmpne _ _ => true
  | .vxCmplt _ _ => true
  | .vxCmple _ _ => true
  | .vxCmpgt _ _ => true
  | .vxCmpge _ _ => true
  | .vxExp _ _ => true
  | .vxExp2 _ _ => true
  | .vxLn _ _ => true
  | .vxLog2 _ _ => true
  | .vxRcp _ _ => true
  | .vxSqrt _ _ => true
  | .vxRsqrt _ _ => true
  | .vxTanh _ _ => true
  | .vxSigmoid _ _ => true
  | .vxErf _ _ => true
  | .vxCvt _ _ => true
  | .vxCvtmx _ _ => true
  | .vxRsum _ _ => true
  | .vxRmin _ _ => true
  | .vxRmax _ _ => true
  | .vxGath _ _ => true
  | .vxScat _ _ => true
  | .vxScatadd _ _ => true
  | .sxAdd _ _ => true
  | .sxSub _ _ => true
  | .sxMul _ _ => true
  | .sxAnd _ _ => true
  | .sxOr _ _ => true
  | .sxXor _ _ => true
  | .sxShl _ _ => true
  | .sxShr _ _ => true
  | .sxSra _ _ => true
  | .sxSel _ _ => true
  | .sxMov _ _ => true
  | .sxLui _ _ => true
  | .sxMin _ _ => true
  | .sxMax _ _ => true
  | .sxCmpeq _ _ => true
  | .sxCmpne _ _ => true
  | .sxCmplt _ _ => true
  | .sxCmple _ _ => true
  | .sxCmpltu _ _ => true
  | .sxCmpleu _ _ => true
  | .sxFadd _ _ => true
  | .sxFmul _ _ => true
  | .sxFfma _ _ => true
  | .sxCvtf _ _ => true
  | .sxCvti _ _ => true
  | .kvcmd _ _ => true
  | .ldl _ _ => true
  | .ldx _ _ => true
  | .atom _ _ => true
  | .stl _ _ => true
  | .stx _ _ => true
  | .ldstRequestIssue _ _ u => upsetsWf u
  | .lineLand _ _ _ _ u => upsetsWf u
  | .storeAck _ _ => true
  | .requestErrorAnswer _ _ => true
  | .retryLaterResend _ _ => true
  | .nlSend _ _ => true
  | .linkLineLand _ _ _ => true
  | .linkCreditReturn _ _ => true
  | .fxWait _ _ _ _ => true
  | .fxWaitc _ _ _ => true
  | .fxSet _ _ _ => true
  | .fxClr _ _ _ => true
  | .fxSignal _ _ _ _ => true
  | .tickEnd _ => true
  | .fxEntryComplete _ _ => true
  | .rowFlagTest _ => true
  | .signalDeliver _ _ => true
  | .tickEndComplete _ => true
  | .startToken _ _ => true
  | .doneToken _ _ => true
  | .goToken _ _ => true
  | .abortToken _ _ => true
  | .tickDoneSend _ _ _ => true
  | .tickStart _ m => measureWf m
  | .tickOverrun _ => true
  | .tickClose _ => true
  | .pantryRequestArrive _ _ _ => true
  | .pantryWindowClose _ _ => true
  | .pantryPortIssue _ _ => true
  | .pantrySlotTake _ _ => true
  | .pantrySubbankGrant _ _ _ u => upsetsWf u
  | .glazeDeliver _ _ _ => true
  | .vaultRequestArrive _ _ _ => true
  | .vaultGrant _ _ u => dramUpsetsWf u
  | .columnTransferDone _ _ _ => true
  | .topAccessComplete _ _ => true
  | .rateWindowStart _ _ => true
  | .refreshDue _ _ _ _ => true
  | .sliceBankGrant _ _ u => upsetsWf u
  | .softRowRepair _ _ => true
  | .softGroupRepair _ _ => true
  | .nbuEntryStart _ => true
  | .nbuRowOpComplete _ _ _ => true
  | .nbuMatvec _ _ => true
  | .nbuRsum _ _ => true
  | .nbuRmin _ _ => true
  | .nbuRmax _ _ => true
  | .nbuEadd _ _ => true
  | .nbuEmul _ _ => true
  | .nbuEmin _ _ => true
  | .nbuEmax _ _ => true
  | .nbuEaxpy _ _ => true
  | .nbuEscal _ _ => true
  | .nbuScatadd _ _ => true
  | .nbuCvt _ _ => true
  | .nbuLoad _ c => refWf c
  | .nbuRun _ c => refWf c
  | .nbuGetState _ c => refWf c
  | .kvPoolConfig _ src => sourceWf src
  | .kvSeqCreate _ src => sourceWf src
  | .kvStepReserve _ src => sourceWf src
  | .kvFork _ src => sourceWf src
  | .kvFree _ src => sourceWf src
  | .kvSetEviction _ src => sourceWf src
  | .kvAppend _ src => sourceWf src
  | .kvCommit _ src => sourceWf src
  | .kvGetSeq _ src => sourceWf src
  | .kvAgentTake _ => true
  | .kvPhase _ => true
  | .rd _ k => packetWf k
  | .wr _ k => packetWf k
  | .wrm _ k => packetWf k
  | .atomPacket _ k => packetWf k
  | .rdRsp _ k => packetWf k
  | .wrAck _ k => packetWf k
  | .atomRsp _ k => packetWf k
  | .errRsp _ k => packetWf k
  | .cmd _ k => packetWf k
  | .cmdRpl _ k => packetWf k
  | .nodeDown _ k => packetWf k
  | .mcWr _ k => packetWf k
  | .mcAck _ k => packetWf k
  | .mcDrop _ k => packetWf k
  | .mcTimeout _ => true
  | .collUp _ k => packetWf k
  | .collDown _ k => packetWf k
  | .packetForward _ k => packetWf k
  | .dataSlotReceive _ _ => true
  | .ack _ _ => true
  | .nak _ _ => true
  | .credit _ _ _ => true
  | .linkDown _ => true
  | .linkLockLoss _ => true
  | .linkAckTimeout _ => true
  | .reqTimeout _ _ => true
  | .ivtLostWrite _ _ _ => true
  | .ivtRouteWrite _ _ _ => true
  | .registerWrite _ _ _ => true
  | .cmdAssemblyTimeout _ _ _ => true
  | .commandStart _ c => refWf c
  | .identify _ c => refWf c
  | .getState _ c => refWf c
  | .resetDomain _ c => refWf c
  | .quiesce _ c => refWf c
  | .write _ c => refWf c
  | .read _ c => refWf c.ref
  | .fill _ c => refWf c
  | .copy _ c => refWf c.ref
  | .scrub _ c => refWf c
  | .setRegionTag _ c => refWf c
  | .getRegionTag _ c => refWf c
  | .repairCommit _ c => refWf c
  | .loadImem _ c => refWf c
  | .jobAdmit _ c => refWf c
  | .domainJoin _ c => refWf c
  | .jobStart _ c => refWf c
  | .jobAbort _ c => refWf c
  | .partitionSet _ c => refWf c
  | .partitionDisable _ c => refWf c
  | .partitionEnable _ c => refWf c
  | .setLatencyTolerance _ c => refWf c
  | .setCap _ c => refWf c
  | .phaseOpp _ c => refWf c
  | .phaseForecast _ c => refWf c
  | .enterCold _ c => refWf c
  | .faultRead _ c => refWf c
  | .faultAck _ c => refWf c
  | .faultInject _ c => refWf c
  | .attest _ c => refWf c
  | .licenceInstall _ c => refWf c
  | .fwStage _ c => refWf c
  | .fwActivate _ c => refWf c
  | .fwFetch _ c => refWf c
  | .expectTopology _ c => refWf c
  | .getTopology _ c => refWf c
  | .setNodeId _ c => refWf c
  | .faultRecordArrive _ => true
  | .errorWire _ _ => true
  | .migrationComplete _ => true
  | .coilTest _ x => coilsWf x
  | .capCheck _ _ => true
  | .oppChangeComplete _ => true
  | .meringueAdjust _ _ => true
  | .arbiterPeriod _ _ => true
  | .grantArrive _ => true
  | .grantWait _ => true
  | .idleChoose _ _ => true
  | .idleExitComplete _ => true
  | .sensorSample _ x => samplesWf x
  | .thermalUpdate _ _ => true
  | .governorUpdate _ => true
  | .thermalModelUpdate _ _ _ => true
  | .thermtrip _ => true
  | .coolantSample x => coolantWf x
  | .coolantMessageRepeat _ => true
  | .coolantDerateLift _ => true
  | .coolantStopDeadline => true
  | .coolantHoldEnd => true
  | .romComplete _ _ => true
  | .verifyComplete _ _ => true
  | .fwFetchTimeout _ => true
  | .proofingComplete _ x => proofingWf x
  | .packageRecord _ _ => true
  | .neighbourProbe _ k => packetWf k
  | .probeTimeout _ => true
  | .topologyCompare _ => true
  | .baseResetEnd _ => true
  | .resetComplete _ _ => true
  | .watchdogExpiry _ => true
  | .leafReservation _ => true
  | .flashImageWrite _ => true
  | .housekeepingStart _ => true
  | .pwrEnAssert => true
  | .pwrEnDeassert => true
  | .attnL => true
  | .quiesceAbortTimeout => true
  | .quiesceLinkStop _ => true
  | .inputUndervoltage => true
  | .inputOvervoltage => true
  | .inputOvercurrent => true
  | .inputRestore => true
  | .refclkLoss => true
  | .refclkReturn => true
  | .mctpMessage m => decide (m.length ≤ 4236)
  | .setEndpointId _ => true
  | .getEndpointId => true
  | .getMctpVersionSupport => true
  | .getMessageTypeSupport => true
  | .pldmBase _ body => decide (body.length ≤ 4096)
  | .pldmSensorRead sensor => decide (sensor < 65536)
  | .requestFirmwareData chunk => chunkWf chunk
  | .activateFirmware => true
  | .pwrGood => true
  | .removeIndicator => true
  | .aclkRestart _ => true
  | .linkRetrain _ => true
  | .inTileRowOpDone _ u => dramUpsetsWf u
  | .fuseBurn _ => true
  | .tagReuse _ _ => true
  | .setdasa _ => true
  | .entdaa _ => true
  | .eventReceiver _ => true

end Sys2Proof
end

