-- ==== Sys2Proof/Safety.lean ====
section
/-! DEFINITION. What counts as a safe run of the module, and the words that statements about it use: the canonical form
of every memory, the bound of the record copies, the command of an operation, and an engine's acts one by one. -/

namespace Sys2Proof.Machine
open Sys2Proof

/-! ### Parts of the module -/

/-- Core `a` of the module. -/
def State.coreAt (s : State) (a : CoreAt) : Core := (s.stack a.st).core a.c.val

/-- The module with core `a` changed. -/
def State.onCoreAt (s : State) (a : CoreAt) (f : Core → Core) : State := s.onStack a.st (fun x => x.onCore a.c.val f)

/-! ### Invariants -/

/-- The memory of every stack is in its canonical form. -/
def State.memWf (s : State) : Bool := allStacks.all (fun i => Memory.wf (s.stack i).mem)

/-- The module controller keeps at most 256 record copies per stack (R525). -/
def State.copiesBounded (s : State) : Prop := ∀ i : StackIx, (s.mc.copies.get i).length ≤ 256

/-! ### The command of an operation -/

/-- The row of a VX operation. -/
def vxCommand (k : VxK) (a : CoreAt) (o : VxOp) : Instr :=
  match k with
  | .add => .vxAdd a o
  | .sub => .vxSub a o
  | .mul => .vxMul a o
  | .fma => .vxFma a o
  | .min => .vxMin a o
  | .max => .vxMax a o
  | .abs => .vxAbs a o
  | .neg => .vxNeg a o
  | .mov => .vxMov a o
  | .sel => .vxSel a o
  | .and => .vxAnd a o
  | .or => .vxOr a o
  | .xor => .vxXor a o
  | .shl => .vxShl a o
  | .shr => .vxShr a o
  | .sra => .vxSra a o
  | .bcast => .vxBcast a o
  | .cmpeq => .vxCmpeq a o
  | .cmpne => .vxCmpne a o
  | .cmplt => .vxCmplt a o
  | .cmple => .vxCmple a o
  | .cmpgt => .vxCmpgt a o
  | .cmpge => .vxCmpge a o
  | .exp => .vxExp a o
  | .exp2 => .vxExp2 a o
  | .ln => .vxLn a o
  | .log2 => .vxLog2 a o
  | .rcp => .vxRcp a o
  | .sqrt => .vxSqrt a o
  | .rsqrt => .vxRsqrt a o
  | .tanh => .vxTanh a o
  | .sigmoid => .vxSigmoid a o
  | .erf => .vxErf a o
  | .cvt => .vxCvt a o
  | .cvtmx => .vxCvtmx a o
  | .rsum => .vxRsum a o
  | .rmin => .vxRmin a o
  | .rmax => .vxRmax a o
  | .gath => .vxGath a o
  | .scat => .vxScat a o
  | .scatadd => .vxScatadd a o

/-- The row of an SX operation. -/
def sxCommand (k : SxK) (a : CoreAt) (o : SxOp) : Instr :=
  match k with
  | .add => .sxAdd a o
  | .sub => .sxSub a o
  | .mul => .sxMul a o
  | .and => .sxAnd a o
  | .or => .sxOr a o
  | .xor => .sxXor a o
  | .shl => .sxShl a o
  | .shr => .sxShr a o
  | .sra => .sxSra a o
  | .sel => .sxSel a o
  | .mov => .sxMov a o
  | .lui => .sxLui a o
  | .min => .sxMin a o
  | .max => .sxMax a o
  | .cmpeq => .sxCmpeq a o
  | .cmpne => .sxCmpne a o
  | .cmplt => .sxCmplt a o
  | .cmple => .sxCmple a o
  | .cmpltu => .sxCmpltu a o
  | .cmpleu => .sxCmpleu a o
  | .fadd => .sxFadd a o
  | .fmul => .sxFmul a o
  | .ffma => .sxFfma a o
  | .cvtf => .sxCvtf a o
  | .cvti => .sxCvti a o
  | .kvcmd => .kvcmd a o

/-- The row that carries on an operation of an engine which works line by line or scalar by scalar; none for PASS, whose steps
have rows of their own, and for the sequencer and FX. -/
def opCommand (o : CoreOp) (a : CoreAt) : Option Instr :=
  match o with
  | .drain o => some (.drain a o)
  | .vx k o => some (vxCommand k a o)
  | .sx k o => some (sxCommand k a o)
  | .ldl o => some (.ldl a o)
  | .ldx o => some (.ldx a o)
  | .atom o => some (.atom a o)
  | .stl o => some (.stl a o)
  | .stx o => some (.stx a o)
  | .send o => some (.nlSend a o)
  | .pass _ => none
  | .fx _ => none
  | .seq _ => none

/-- The row of a near-bank operation by its code (Table 10.4). -/
def nbuCommand (op : Nat) (p : SiteAt) (x : NbuEntry) : Option Instr :=
  match op with
  | 0x01 => some (.nbuMatvec p x)
  | 0x02 => some (.nbuRsum p x)
  | 0x03 => some (.nbuRmin p x)
  | 0x04 => some (.nbuRmax p x)
  | 0x08 => some (.nbuEadd p x)
  | 0x09 => some (.nbuEmul p x)
  | 0x0A => some (.nbuEmin p x)
  | 0x0B => some (.nbuEmax p x)
  | 0x0C => some (.nbuEaxpy p x)
  | 0x0D => some (.nbuEscal p x)
  | 0x10 => some (.nbuScatadd p x)
  | 0x18 => some (.nbuCvt p x)
  | _ => none

/-- The row of a KV command by its opcode (Table 11.4), KV_POOL_CONFIG apart. -/
def kvCommand (op : Nat) (st : StackIx) (src : KvSource) : Option Instr :=
  match op with
  | 0x0301 => some (.kvSeqCreate st src)
  | 0x0302 => some (.kvStepReserve st src)
  | 0x0303 => some (.kvFork st src)
  | 0x0304 => some (.kvFree st src)
  | 0x0305 => some (.kvSetEviction st src)
  | 0x0306 => some (.kvAppend st src)
  | 0x0307 => some (.kvCommit st src)
  | 0x0308 => some (.kvGetSeq st src)
  | _ => none

/-- Command `r` of opcode `op` has started at stack `st`, has not begun work whose end it waits for, and is `k`. -/
def CmdStarted (s : State) (st : StackIx) (r : CmdRef) (op : Nat) (k : Cmd) : Prop :=
  startedCmd (s.stack st) r = some k ∧ k.op = op ∧ k.begun = false

/-! ### An engine's acts -/

/-- The stack and the entry after `n` acts of an engine on an operation; none where one of them waits or nothing is left. -/
def actsAfter (now c : Nat) (op : CoreOp) : Nat → Stack → QEntry → Option (Stack × QEntry)
  | 0, s, x => some (s, x)
  | n + 1, s, x =>
    match engineAct now s c op x with
    | .go s x => actsAfter now c op n s x
    | _ => none

/-- The lines that ends give, read in order as line `j` of each, with the stack after them; none where one waits. -/
def readAll (c j : Nat) : List EndSpec → Stack → Option (List Line × Stack)
  | [], s => some ([], s)
  | e :: r, s =>
    match readEnd s c e j with
    | .go l s => (readAll c j r s).map (fun p => (l :: p.1, p.2))
    | .wait _ _ => none

/-- The scalars that ends give, read in order, with the stack after them; none where one waits. -/
def readScalars (c : Nat) (imm : BitVec 32) : List EndSpec → Stack → Option (List (Word × Bool) × Stack)
  | [], s => some ([], s)
  | e :: r, s =>
    match readScalar s c e imm with
    | .go v s => (readScalars c imm r s).map (fun p => (v :: p.1, p.2))
    | .wait _ _ => none

/-- Elements written through an end as lines of format `f`, line by line from line `j` on, the last one perhaps in part; none where it waits, or
where more than `n` lines would be written. -/
def writeLines (c : Nat) (e : EndSpec) (f : Fmt) : Nat → Nat → List (Nat × Bool) → Stack → Option Stack
  | _, 0, els, s => if els = [] then some s else none
  | j, n + 1, els, s =>
    if els = [] then some s
    else
      match writeEnd s c e j (packLine f (els.take (fmtPerLine f))) with
      | .go _ s => writeLines c e f (j + 1) n (els.drop (fmtPerLine f)) s
      | .wait _ _ => none

end Sys2Proof.Machine
end

