-- ==== Sys2Proof/Certificates/Slice0/Obligations.lean ====
section
/-! DEFINITION. The statements about the module, each a proposition for the provers: what a step is, what every step keeps, and for
every row of the table of commands what its command makes of the state. -/

open Sys2Proof Sys2Proof.Machine

/-- The instructions that the sequencer of a running core holds and runs itself (Table 7.3, R202, R214, R216, Table 6.8): NOP has no
effect, PHASE names the tag of the next tick, BR redirects fetch; an ENDLOOP returns to the body while the count has turns left and closes
the loop at its end, and raises SEQ_LOOP and stops the sequencer with no loop open; a LOOP opens a loop of its count, or skips past END for a
count of 0, and raises SEQ_LOOP with four loops open. Each is done when it leaves the sequencer; nothing else changes.
HALT of a running core (Table 6.8): the sequencer dispatches nothing more, and the core is HALTED at once where every operation
dispatched earlier has completed, later otherwise: then an ENGINE_OP_COMPLETE of the last of them does it. -/
def Obligations.SequencerRunsItsOwn : Prop :=
    (∀ (s : State) (a : CoreAt), (s.coreAt a).run = .running →
      ((s.coreAt a).seqCur = some (.seq .nop) →
        exec (.nop a) s = .next (s.onCoreAt a (fun k => { k with seqCur := none })))
      ∧ (∀ tag : Fin 256, (s.coreAt a).seqCur = some (.seq (.phase (bv 8 tag.val))) →
        exec (.phase a tag) s = .next (s.onCoreAt a (fun k => { k with seqCur := none, nextPhase := bv 8 tag.val })))
      ∧ (∀ t : ImOff, (s.coreAt a).seqCur = some (.seq (.br t)) →
        exec (.br a t) s = .next (s.onCoreAt a (fun k => { k with seqCur := none, pc := t.toNat })))
      ∧ ((s.coreAt a).seqCur = some (.seq .endloop) →
        (∀ l r, (s.coreAt a).loops = l :: r → 1 < l.left →
          exec (.endloop a) s = .next (s.onCoreAt a (fun k =>
            { k with seqCur := none, pc := l.body, loops := { l with left := l.left - 1 } :: r })))
        ∧ (∀ l r, (s.coreAt a).loops = l :: r → l.left ≤ 1 →
          exec (.endloop a) s = .next (s.onCoreAt a (fun k => { k with seqCur := none, loops := r })))
        ∧ ((s.coreAt a).loops = [] →
          exec (.endloop a) s = .next (s.onStack a.st (fun x =>
            (raiseCore x a.c.val .seq 0 fSeqLoop).onCore a.c.val (fun k => { k with seqStopped := true, seqCur := none, seqStall := false })))))
      ∧ (∀ (n : BitVec 32) (stop : ImOff) (u : Upsets), (s.coreAt a).seqCur = some (.seq (.loop .none n stop)) →
        ((s.coreAt a).loops.length < 4 → n ≠ 0 →
          exec (.loop a .none n stop u) s = .next (s.onCoreAt a (fun k =>
            { k with seqCur := none, loops := ⟨k.pc, stop.toNat, n.toNat⟩ :: k.loops })))
        ∧ ((s.coreAt a).loops.length < 4 → n = 0 →
          exec (.loop a .none n stop u) s = .next (s.onCoreAt a (fun k => { k with seqCur := none, pc := stop.toNat + 16 })))
        ∧ (4 ≤ (s.coreAt a).loops.length →
          exec (.loop a .none n stop u) s = .next (s.onStack a.st (fun x =>
            (raiseCore x a.c.val .seq 0 fSeqLoop).onCore a.c.val (fun k => { k with seqStopped := true, seqCur := none, seqStall := false }))))))
  ∧ (∀ (s : State) (a : CoreAt), (s.coreAt a).run = .running → (s.coreAt a).seqCur = some (.seq .halt) →
      exec (.halt a) s = .next ((s.onCoreAt a (fun k => { k with seqCur := none, halting := true })).onCoreAt a
        (fun k => if coreIdle k then { k with run := .halted } else k)))

/-- A BRC or LOOP of a running core whose value comes from a data queue (R170, R214, R216): bytes 0 to 7 of the head line, as an INT64, and the
line is popped. A poisoned value bites, and the sequencer stops; a BRC goes to TARGET where the value is zero (Z = 1) or non-zero (Z = 0); a
LOOP opens, skips past END for a count of 0, and raises SEQ_LOOP for a count below 0 or above 0xFFFF_FFFF. With an empty queue
the instruction waits: the parity failures of its read take effect and nothing else changes. -/
def Obligations.SequencerPopsAValue : Prop :=
  ∀ (s : State) (a : CoreAt) (q : Fin 16) (t : ImOff) (u : Upsets), (s.coreAt a).run = .running →
    let x := applyUpsets (s.stack a.st) u
    let l := dqPeek x a.c.val q.val 0
    let v : Word := l.data.setWidth 64
    let y := dqDrop x a.c.val q.val
    let stop := fun (z : Stack) => z.onCore a.c.val (fun k => { k with seqStopped := true, seqCur := none, seqStall := false })
    (∀ z : Bool, (s.coreAt a).seqCur = some (.seq (.brc (.pop q) t z)) →
      exec (.brc a (.pop q) t z u) s = .next (s.setStack a.st (
        if dqReady x a.c.val q.val 0 = false then x
        else if l.marks.getLsbD 0 then stop (biteCore y a.c.val .seq 0 biteControl)
        else y.onCore a.c.val (fun k => { k with seqCur := none, pc := if (z = true ↔ v = 0) then t.toNat else k.pc }))))
    ∧ (∀ n : BitVec 32, (s.coreAt a).seqCur = some (.seq (.loop (.pop q) n t)) → (s.coreAt a).loops.length < 4 →
      exec (.loop a (.pop q) n t u) s = .next (s.setStack a.st (
        if dqReady x a.c.val q.val 0 = false then x
        else if l.marks.getLsbD 0 then stop (biteCore y a.c.val .seq 0 biteControl)
        else if v.toInt < 0 ∨ 0xFFFFFFFF < v.toInt then stop (raiseCore y a.c.val .seq 0 fSeqLoop)
        else if v = 0 then y.onCore a.c.val (fun k => { k with seqCur := none, pc := t.toNat + 16 })
        else y.onCore a.c.val (fun k => { k with seqCur := none, loops := ⟨k.pc, t.toNat, v.toNat⟩ :: k.loops }))))

/-- SEQ_FETCH_DISPATCH at a free sequencer (R170, R171, R200): outside the code or from an invalid line IMEM_FETCH is raised and nothing is
fetched; a poisoned word bites at a control decision; both stop the sequencer for the job. With no free entry in a queue that the instruction needs it stalls.
Otherwise an instruction of the sequencer or of FX is held for its own row, and an operation of an engine joins the tail of that engine's
instruction queue under the core's next dispatch number, with the tick of its dispatch and its ordinal among stochastic operations; fetch
moves on by one word of 16 bytes. -/
def Obligations.FetchAndDispatch : Prop :=
  ∀ (s : State) (a : CoreAt) (u : Upsets), seqFree (s.coreAt a) = true → (s.stack a.st).tick.phase ≠ .starting →
    let x := s.stack a.st
    let c := a.c.val
    let k := s.coreAt a
    let stop := fun (z : Stack) => z.onCore c (fun k => { k with seqStopped := true, seqCur := none, seqStall := false })
    let g := imemAddr c k.pc / 32
    let y := injectSram (applyUpsets x u) (haSite (coreSite (applyUpsets x u) c)) 1 g
    (fetchable x c k.pc = false →
      exec (.seqFetchDispatch a u) s = .next (s.setStack a.st (stop (raiseCore x c .seq 0 fImemFetch))))
    ∧ (fetchable x c k.pc = true → markOf y g ≠ 0 →
      exec (.seqFetchDispatch a u) s = .next (s.setStack a.st (stop (biteCore y c .seq 0 biteControl))))
    ∧ (∀ o, fetchable x c k.pc = true → markOf y g = 0 → decodeCore (imemWord y c k.pc) = some o → dispatchRoom k o = false →
      exec (.seqFetchDispatch a u) s = .next (s.setStack a.st (y.onCore c (fun k => { k with seqStall := true }))))
    ∧ (∀ o, fetchable x c k.pc = true → markOf y g = 0 → decodeCore (imemWord y c k.pc) = some o → dispatchRoom k o = true →
      (opEngine o = .seq ∨ opEngine o = .fx) →
      exec (.seqFetchDispatch a u) s = .next (s.setStack a.st (y.onCore c (fun k =>
        { k with seqCur := some o, pc := k.pc + 16, seqStall := false }))))
    ∧ (∀ o, fetchable x c k.pc = true → markOf y g = 0 → decodeCore (imemWord y c k.pc) = some o → dispatchRoom k o = true →
      opEngine o ≠ .seq → opEngine o ≠ .fx →
      ∃ z, exec (.seqFetchDispatch a u) s = .next (s.setStack a.st z)
        ∧ z = y.onCore c (fun k => { k.setQueue (opEngine o) (k.queue (opEngine o) ++
            [⟨k.uid, some o, false, false, tickOf y, k.stoch, {}, none⟩]) with
            uid := k.uid + 1, pc := k.pc + 16, seqStall := false
            stoch := if isStochastic y c o then (k.stoch + 1) % 65536 else k.stoch }))

/-- ENGINE_OP_START at a running core (R172, R178, R180, R184, R64): the next operation of the queue that no gate marker holds back, that order
and the exchange gate let start, and whose first act its operands and room allow is started; one whose LINE end names queue storage raises
DQ_ALIAS, makes no access, and is done. Where one of these does not let it start, nothing changes.
ENGINE_OP_COMPLETE at a running core (R172, R230, Table 6.2, Table 6.8): the oldest operation of the queue that has completed frees
its entry; a multicast store whose completions missed members raises MC_PARTIAL with the bitmap of those members and the operation's place in its queue; and a core that has executed HALT is
HALTED once nothing that was dispatched is left. Where no operation has completed, nothing changes. -/
def Obligations.EngineStartsAndFreesInOrder : Prop :=
    (∀ (s : State) (a : CoreAt) (e : Engine) (u : Upsets),
      let x := s.stack a.st
      let c := a.c.val
      (∀ q op before, nextOp ((s.coreAt a).queue e) = some (q, op, before) → (s.coreAt a).run = .running →
        mayOverlap op before = true → passHolds x c before = false → (ldstX op = true → goReceived x q.tick = true) →
        (opAliases x c op = true → exec (.engineOpStart a e u) s = .next (s.setStack a.st
            (putOp (raiseCore x c e (qposOf ((s.coreAt a).queue e) q.uid) fDqAlias) c e { q with started := true, done := true })))
        ∧ (opAliases x c op = false → firstActReady s.now x c op q = true →
            exec (.engineOpStart a e u) s = .next (s.setStack a.st (putOp
              (match firstLine (applyUpsets x u) c op with
               | some l => injectSram (applyUpsets x u) (haSite (coreSite (applyUpsets x u) c)) 0 (scratchAddr c l / 32)
               | none => applyUpsets x u) c e { q with started := true })))
        ∧ (opAliases x c op = false → firstActReady s.now x c op q = false → exec (.engineOpStart a e u) s = .next s))
      ∧ (∀ q, ((s.coreAt a).queue e).find? (fun y => !y.started) = some q → q.op = none → exec (.engineOpStart a e u) s = .next s)
      ∧ (∀ q op before, nextOp ((s.coreAt a).queue e) = some (q, op, before) →
          ((s.coreAt a).run ≠ .running ∨ mayOverlap op before = false ∨ passHolds x c before = true ∨ (ldstX op = true ∧ goReceived x q.tick = false)) →
          exec (.engineOpStart a e u) s = .next s))
  ∧ (∀ (s : State) (a : CoreAt) (e : Engine), (s.coreAt a).run = .running →
      let c := a.c.val
      let halted := fun (x : Stack) => x.onCore c (fun k => if k.halting = true ∧ k.run = .running ∧ coreIdle k = true then { k with run := .halted } else k)
      (∀ q, ((s.coreAt a).queue e).find? entryComplete = some q →
        let x := (s.stack a.st).onCore c (fun k => k.setQueue e ((k.queue e).filter (fun y => y.uid ≠ q.uid)))
        let pos := qposOf ((s.coreAt a).queue e) q.uid
        exec (.engineOpComplete a e) s = .next (s.setStack a.st (halted (if q.prog.missed = 0 then x
          else raise x { source := fMcPartial, addr := haSite (coreSite x c), core := some c, detail0 := q.prog.report,
                         detail1 := q.prog.missed.setWidth 64, attributed := true, qpos := pos }))))
      ∧ (((s.coreAt a).queue e).find? entryComplete = none → exec (.engineOpComplete a e) s = .next s))


/-- The row of an operation that an engine works line by line or scalar by scalar (DRAIN, every VX and SX operation, LDL, LDX, ATOM, STL, STX, SEND)
takes the started operation of a running core as far as its operands and room allow (R172, R178): after the acts that it can do, either its work is
done, or it waits with its progress kept. Nothing changes where the operation has not been started, or the core does not run. -/
def Obligations.EngineWorksUntilItWaits : Prop :=
  ∀ (s : State) (a : CoreAt) (op : CoreOp) (i : Instr), opCommand op a = some i →
    (∀ q y q' n, startedOp (s.stack a.st) a.c.val op = some q → (s.coreAt a).run = .running → n < actFuel →
      actsAfter s.now a.c.val op n (s.stack a.st) q = some (y, q') →
      (engineAct s.now y a.c.val op q' = .done →
        exec i s = .next (s.setStack a.st (putOp y a.c.val (opEngine op) { q' with done := true })))
      ∧ (∀ kind object, engineAct s.now y a.c.val op q' = .wait kind object →
        exec i s = .next (s.setStack a.st (putOp y a.c.val (opEngine op) q'))))
    ∧ (startedOp (s.stack a.st) a.c.val op = none ∨ (s.coreAt a).run ≠ .running → exec i s = .next s)

/-- PASS and PASS_START at a running core (R114, R117, R217). The oldest started PASS operation without a pass, which the command names, takes descriptor DESC, with
WOFF, AOFF and COFF added to its weight, activation and accumulator lines, and has no result yet. The oldest pass that has not started, once it is named,
starts where R117 lets it; before it is named no later one starts (R118); otherwise MX_DESC is raised and its operation is done without a pass. -/
def Obligations.PassNamesAndStarts : Prop :=
  ∀ (s : State) (a : CoreAt), (s.coreAt a).run = .running →
    let x := s.stack a.st
    let c := a.c.val
    (∀ (o : PassOp) q, (s.coreAt a).mx.find? (fun y => y.started && !y.done && isPass y && y.pass.isNone) = some q → q.op = some (.pass o) →
      ∃ p : PassRun, exec (.pass a o) s = .next (s.setStack a.st (putOp x c .mx { q with pass := some p }))
        ∧ p.started = false ∧ p.res = [] ∧ p.wrote = 0 ∧ p.pushed = 0 ∧ p.replay = false ∧ p.broken = false
        ∧ p.tick = q.tick ∧ p.d.idx = o.desc.toNat
        ∧ p.d.m = fld (descWord x c o.desc.toNat 0) 45 11 + 1
        ∧ p.d.wline = fld (descWord x c o.desc.toNat 1) 32 12 + o.woff.toNat
        ∧ p.d.aline = fld (descWord x c o.desc.toNat 2) 32 12 + o.aoff.toNat
        ∧ p.d.accin = fld (descWord x c o.desc.toNat 3) 32 12 + o.coff.toNat
        ∧ p.d.accout = fld (descWord x c o.desc.toNat 3) 16 12 + o.coff.toNat)
    ∧ (∀ q p, (s.coreAt a).mx.find? (fun y => !y.done && isPass y && (match y.pass with | some p => !p.started | none => true)) = some q →
      (q.pass = none → exec (.passStart a) s = .next s) ∧ (q.pass = some p →
      exec (.passStart a) s = .next (s.setStack a.st (
        if passValid x c q.uid p.d then putOp x c .mx { q with pass := some { p with started := true } }
        else putOp (raiseCore x c .mx (qposOf (s.coreAt a).mx q.uid) fMxDesc) c .mx { q with done := true, pass := none }))))

/-- PASS_STEP_COMPLETE at a running core (R121, R129, R134): with the operands of the next step there, its results leave the array. Where every
column check passes they join the pass's results and the writes and pushes due are made; where one fails for the first time the pass
keeps none of them and waits for its replay; where one fails in the replay they are kept and the pass is marked for CELL_FAULT. What the
checks count, bite and record is `crustEffects` of R132 to R138, what the pass keeps of a mismatch `noteMiss`. With no step to complete, or operands missing, nothing changes. -/
def Obligations.PassStepLeavesTheArray : Prop :=
  ∀ (s : State) (a : CoreAt) (flips : List Flip), (s.coreAt a).run = .running →
    let x := s.stack a.st
    let c := a.c.val
    (∀ q p, stepPass x c = some (q, p) → operandsReady x c q.uid p.d = true → p.broken = false →
      let outs := stepOuts x c q p flips
      let y := crustEffects (stepChecks x c q p outs).1 c q p 0 (stepChecks x c q p outs).2
      let failed := (stepChecks x c q p outs).2.failed.isSome
      let n := noteMiss (stepChecks x c q p outs).1 c p 0 (stepChecks x c q p outs).2
      exec (.passStepComplete a flips) s = .next (s.setStack a.st (flushOldest (putOp y c .mx { q with pass := some {
          n with
                 res := if failed = true ∧ p.replay = false then p.res else p.res ++ outs.map (fun e => e.2)
                 cell := if failed = true ∧ p.replay = true then true else p.cell
                 broken := failed && !p.replay } }) c)))
    ∧ ((stepPass x c = none ∨ (∃ q p, stepPass x c = some (q, p) ∧ operandsReady x c q.uid p.d = false)) →
      exec (.passStepComplete a flips) s = .next s)

/-- PASS_REPLAY at a running core (R134): the pass whose check failed and every later operation of the MX queue that has a pass start again from
step 0: none of their results, writes or pushes counts any more, the places that lines pushed hold in their queues stay theirs, and only the pass that
failed is a replay.
PASS_RETIRE at a running core (R118, R120, R129, R134): the oldest pass, with every step done and every write and push made, has its row checks. Where
they pass it retires: the lines of its queue operands are popped, its drained lines become visible, its FLAG is written, its operation is done, and the
writes due of the next pass are made. Where one fails for the first time, the pass waits for its replay. A pass that still has work is left as it is. -/
def Obligations.PassReplaysAndRetires : Prop :=
    (∀ (s : State) (a : CoreAt) b, (s.coreAt a).run = .running →
      (s.coreAt a).mx.find? (fun y => !y.done && (match y.pass with | some p => p.broken | none => false)) = some b →
      exec (.passReplay a) s = .next (s.setStack a.st
        (((s.coreAt a).mx.dropWhile (fun y => decide (y.uid ≠ b.uid))).foldl (fun x y =>
          match y.pass with
          | some p => putOp x a.c.val .mx { y with pass := some {
              p with
                res := [], wrote := 0, pushed := 0, cell := false, broken := false, replay := p.replay || y.uid == b.uid } }
          | none => x) (s.stack a.st))))
  ∧ (∀ (s : State) (a : CoreAt) q p, (s.coreAt a).run = .running →
      let c := a.c.val
      let x := flushOldest (s.stack a.st) c
      oldestPass x c = some (q, p) → p.broken = false →
      let y := crustEffects (rowChecks x c q p).1 c q p 1 (rowChecks x c q p).2
      (flushed p = true → (rowChecks x c q p).2.failed = none → p.cell = false →
        let y1 := match p.d.wq with | some i => dqDropN y c i (passWLines p.d) | none => y
        let y2 := match p.d.aq with | some i => dqDropN y1 c i (passALines p.d) | none => y1
        let y3 := if passDrain p.d then showHeld y2 c p.d.dq q.uid else y2
        exec (.passRetire a) s = .next (s.setStack a.st
          (flushOldest (putOp (writeFlag s.now y3 c p.d.flag true) c .mx { q with done := true, pass := some p }) c)))
      ∧ (flushed p = true → (rowChecks x c q p).2.failed ≠ none → p.replay = false →
        let n := noteMiss (rowChecks x c q p).1 c p 1 (rowChecks x c q p).2
        exec (.passRetire a) s = .next (s.setStack a.st (putOp y c .mx { q with pass := some { n with broken := true } })))
      ∧ (flushed p = false → exec (.passRetire a) s = .next (s.setStack a.st x)))


/-- DRAIN of one accumulator line (R218, R100): a started DRAIN with N = 1 reads the line of A, converts its 128 FP32 or INT32 elements to OFMT
in order, writes or pushes them as one packed line through D, and is done. -/
def Obligations.DrainConvertsALine : Prop :=
  ∀ (s : State) (a : CoreAt) (o : DrainOp) (q : QEntry) (l : Line) (y z : Stack), (s.coreAt a).run = .running →
    startedOp (s.stack a.st) a.c.val (.drain o) = some q → q.prog = {} → o.n = 0 →
    readEnd (s.stack a.st) a.c.val o.a 0 = .go l y →
    let src : Fmt := if o.t then .int32 else .fp32
    let tgt := (fmtOf o.ofmt.toNat).getD .fp32
    writeEnd y a.c.val o.d 0 (packLine tgt (cvtEls (srOf y a.c.val o.rnd q) src tgt o.sat 0 (lineEls src l))) = .go () z →
    ∃ pr : Prog, exec (.drain a o) s = .next (s.setStack a.st (putOp z a.c.val .mx { q with prog := pr, done := true }))

/-- A VX operation on one line of each operand (R219 to R223): started, with N = 1, it reads what it reads in the order A, B, C (a reduction
first its carried pair or the identity), works on it, and writes its output elements through D and its scales through C in as many lines as they
fill; then it is done. It holds for every operation of Table 7.5. -/
def Obligations.VxOperationOnOneLine : Prop :=
  ∀ (s : State) (a : CoreAt) (k : VxK) (o : VxOp) (q : QEntry) (pair ls : List Line) (x y w z1 z : Stack) (q1 : QEntry),
    (s.coreAt a).run = .running →
    startedOp (s.stack a.st) a.c.val (.vx k o) = some q → q.prog = {} → o.n = 0 →
    (if vxShape k = .reduce ∧ o.b ≠ .none then
      ∃ l0 l1 x0, readEnd (s.stack a.st) a.c.val o.b 0 = .go l0 x0 ∧ readEnd x0 a.c.val o.b 1 = .go l1 x ∧ pair = [l0, l1]
     else x = s.stack a.st ∧ pair = []) →
    readAll a.c.val 0 (vxReads k o) x = some (ls, y) →
    vxWork y a.c.val k o { q with prog := { got := ls, lanes := if vxShape k = .reduce then vxLanes k o pair else [] } } = (w, q1) →
    writeLines a.c.val o.d (vxOutFmt k o) 0 8 (if vxShape k = .reduce then vxReduced k o q1.prog.lanes else q1.prog.buf) w = some z1 →
    writeLines a.c.val o.c .int8 0 1 q1.prog.sbuf z1 = some z →
    ∃ pr : Prog, exec (vxCommand k a o) s = .next (s.setStack a.st (putOp z a.c.val .vx { q with prog := pr, done := true }))

/-- The element results of the VX operations on INT32 (Table 7.5, R219, R220): addition, subtraction and multiplication wrap; minimum, maximum,
absolute value and negation are signed; a shift takes its count from B[4:0]; SEL takes A where C is not 0; a comparison gives 1 where it holds and 0
where it does not; AND, OR, XOR and MOV work on the bits.
The results of SX (Table 7.6): 64-bit arithmetic wraps, shifts take their count from B[5:0], minimum, maximum and the signed comparisons order INT64,
CMPLTU and CMPLEU order unsigned numbers, SEL takes A where C is not 0, LUI puts the immediate into the upper half, and the FP32 operations leave bits
63 to 32 at 0. -/
def Obligations.VxInt32AndSxResults : Prop :=
    (∀ a b c : BitVec 32,
      (vxElem .add true a b c).toNat = (a.toNat + b.toNat) % 2 ^ 32
      ∧ (vxElem .sub true a b c).toInt = (a.toInt - b.toInt).bmod (2 ^ 32)
      ∧ (vxElem .mul true a b c).toNat = (a.toNat * b.toNat) % 2 ^ 32
      ∧ (vxElem .fma true a b c).toNat = (a.toNat * b.toNat + c.toNat) % 2 ^ 32
      ∧ (vxElem .min true a b c).toInt = min a.toInt b.toInt
      ∧ (vxElem .max true a b c).toInt = max a.toInt b.toInt
      ∧ (vxElem .abs true a b c).toNat = a.toInt.natAbs
      ∧ (vxElem .neg true a b c).toInt = (-a.toInt).bmod (2 ^ 32)
      ∧ vxElem .mov true a b c = a
      ∧ (c = 0 → vxElem .sel true a b c = b) ∧ (c ≠ 0 → vxElem .sel true a b c = a)
      ∧ (∀ i : Nat, i < 32 →
          (vxElem .and true a b c).getLsbD i = (a.getLsbD i && b.getLsbD i)
          ∧ (vxElem .or true a b c).getLsbD i = (a.getLsbD i || b.getLsbD i)
          ∧ (vxElem .xor true a b c).getLsbD i = (a.getLsbD i != b.getLsbD i))
      ∧ (vxElem .shl true a b c).toNat = (a.toNat * 2 ^ (b.toNat % 32)) % 2 ^ 32
      ∧ (vxElem .shr true a b c).toNat = a.toNat / 2 ^ (b.toNat % 32)
      ∧ (vxElem .sra true a b c).toInt = a.toInt / 2 ^ (b.toNat % 32)
      ∧ vxElem .cmpeq true a b c = (if a.toInt = b.toInt then 1#32 else 0#32)
      ∧ vxElem .cmpne true a b c = (if a.toInt = b.toInt then 0#32 else 1#32)
      ∧ vxElem .cmplt true a b c = (if a.toInt < b.toInt then 1#32 else 0#32)
      ∧ vxElem .cmple true a b c = (if a.toInt ≤ b.toInt then 1#32 else 0#32)
      ∧ vxElem .cmpgt true a b c = (if b.toInt < a.toInt then 1#32 else 0#32)
      ∧ vxElem .cmpge true a b c = (if b.toInt ≤ a.toInt then 1#32 else 0#32))
  ∧ (∀ (imm : BitVec 32) (a b c : Word),
      let r := fun k => sxResult k imm a b c
      (r .add).toNat = (a.toNat + b.toNat) % 2 ^ 64
      ∧ (r .sub).toInt = (a.toInt - b.toInt).bmod (2 ^ 64)
      ∧ (r .mul).toNat = (a.toNat * b.toNat) % 2 ^ 64
      ∧ (∀ i : Nat, i < 64 →
          (r .and).getLsbD i = (a.getLsbD i && b.getLsbD i)
          ∧ (r .or).getLsbD i = (a.getLsbD i || b.getLsbD i)
          ∧ (r .xor).getLsbD i = (a.getLsbD i != b.getLsbD i))
      ∧ (r .shl).toNat = (a.toNat * 2 ^ (b.toNat % 64)) % 2 ^ 64
      ∧ (r .shr).toNat = a.toNat / 2 ^ (b.toNat % 64)
      ∧ (r .sra).toInt = a.toInt / 2 ^ (b.toNat % 64)
      ∧ (c = 0 → r .sel = b) ∧ (c ≠ 0 → r .sel = a)
      ∧ r .mov = a
      ∧ (r .lui).toNat = imm.toNat * 2 ^ 32
      ∧ (r .min).toInt = min a.toInt b.toInt
      ∧ (r .max).toInt = max a.toInt b.toInt
      ∧ r .cmpeq = (if a.toNat = b.toNat then 1#64 else 0#64)
      ∧ r .cmpne = (if a.toNat = b.toNat then 0#64 else 1#64)
      ∧ r .cmplt = (if a.toInt < b.toInt then 1#64 else 0#64)
      ∧ r .cmple = (if a.toInt ≤ b.toInt then 1#64 else 0#64)
      ∧ r .cmpltu = (if a.toNat < b.toNat then 1#64 else 0#64)
      ∧ r .cmpleu = (if a.toNat ≤ b.toNat then 1#64 else 0#64)
      ∧ (∀ k : SxK, k = .fadd ∨ k = .fmul ∨ k = .ffma ∨ k = .cvtf → (r k).toNat < 2 ^ 32))

/-- The line that an element operation of VX makes (R89, R99, R146): element i of the result is the operation on element i of each operand, and a
32-byte word of it is poisoned exactly where a word of an operand that the operation uses is. -/
def Obligations.VxLineIsElementByElement : Prop :=
  ∀ (k : VxK) (t : Bool) (a b c : Line) (i : Nat), i < 128 →
    lineEl 32 (vxLine k t a b c) i
      = (vxElem k t (bv 32 (lineEl 32 a i)) (bv 32 (lineEl 32 b i)) (bv 32 (lineEl 32 c i))).toNat
    ∧ elPoison 32 (vxLine k t a b c) i
      = (elPoison 32 a i || (vxUsesB k && elPoison 32 b i) || (vxUsesC k && elPoison 32 c i))

/-- The rows of SX but KVCMD (R179, R224, Table 7.6): a started operation reads its scalars in the order A, B, C, computes its result, pushes it through D, marked
poisoned where a scalar it read was, with LED ending the tail line, and with LES drops what is left of the head lines it popped from; then
it is done.
KVCMD (R149, R225): a started KVCMD pops eight scalars. A poisoned one bites at a control decision and nothing is sent. Otherwise the record of
64 bytes, the scalars in order, joins the command queue of the core's row where the queue holds fewer than eight, and the operation is done; with eight it waits. -/
def Obligations.SxComputesAndPushes : Prop :=
    (∀ (s : State) (a : CoreAt) (k : SxK) (o : SxOp) (q : QEntry) (vs : List (Word × Bool)) (y z : Stack) (d : Fin 16),
      (s.coreAt a).run = .running → k ≠ .kvcmd → o.d = .push d →
      startedOp (s.stack a.st) a.c.val (.sx k o) = some q → q.prog = {} →
      readScalars a.c.val o.imm (sxReads k o) (s.stack a.st) = some (vs, y) →
      let v := fun (i : Nat) => (vs.getD i (0, false)).1
      pushScalar y a.c.val d.val (sxResult k o.imm (v 0) (v 1) (v 2), vs.any (fun e => e.2)) o.led = .go () z →
      exec (sxCommand k a o) s = .next (s.setStack a.st (putOp
        (if o.les then (sxReads k o).foldl (fun x e => endHead x a.c.val e) z else z)
        a.c.val .sx { q with prog := { scal := vs, i := 1 }, done := true })))
  ∧ (∀ (s : State) (a : CoreAt) (o : SxOp) (q : QEntry) (vs : List (Word × Bool)) (y : Stack),
      (s.coreAt a).run = .running →
      startedOp (s.stack a.st) a.c.val (.sx .kvcmd o) = some q → q.prog = {} →
      readScalars a.c.val o.imm (List.replicate 8 o.a) (s.stack a.st) = some (vs, y) →
      let r := coreRow a.c.val
      let y' := if o.les then (List.replicate 8 o.a).foldl (fun x e => endHead x a.c.val e) y else y
      (vs.any (fun e => e.2) = true → exec (.kvcmd a o) s = .next (s.setStack a.st (putOp
        (biteCore y' a.c.val .sx (qposOf (y.core a.c.val).sx q.uid) biteControl) a.c.val .sx { q with prog := { scal := vs, i := 1 }, done := true })))
      ∧ (vs.any (fun e => e.2) = false → (y.row r).kvq.length < 8 → exec (.kvcmd a o) s = .next (s.setStack a.st (putOp
        (y'.setRow r { y'.row r with kvq := (y'.row r).kvq ++ [vs.flatMap (fun v => natBytes 8 v.1.toNat)] })
        a.c.val .sx { q with prog := { scal := vs, i := 1 }, done := true })))
      ∧ (vs.any (fun e => e.2) = false → 8 ≤ (y.row r).kvq.length → exec (.kvcmd a o) s = .next (s.setStack a.st (putOp y
        a.c.val .sx { q with prog := { scal := vs } }))))

/-- LDL and LDX at their last line (R226, R227, R228, R231): the landing line is reserved where DATA is a PUSH end, and a request for the
line's address, STRIDE apart for LDL and BASE plus the next address element of the address line held for LDX, read where none is held and popped
with its last address, with the slot offset of R63 under X, joins the core's requests and
takes the path of its address; a poisoned address bites instead and its line lands as zeros, every word poisoned. The operation then waits for what it asked for. -/
def Obligations.LoadsIssueTheirLines : Prop :=
  ∀ (s : State) (a : CoreAt) (q : QEntry) (y w z : Stack) (v : Word) (bad : Bool) (i : Nat), (s.coreAt a).run = .running →
    (s.coreAt a).reqs.length < 256 → portWaiting (s.coreAt a) .ld = false → q.prog.i = i → q.prog.fin ≤ i →
    let x := s.stack a.st
    let c := a.c.val
    let req := fun (l : Bool) (ad : Word) => sendAccess s.now (addReq y c
      { newReq y.nextId .ld q (fld ad 0 48) false Line.zero 0 1 with
        node := match routeOf y c l .read 512 ad with | .remote n => some n | _ => none }) c y.nextId 0
      (routeOf y c l .read 512 ad) (fld ad 0 48) .read Line.zero 0
    let asked := { q with prog := { q.prog with i := i + 1 } }
    let lost := fun (data : EndSpec) => landLine (biteCore y c .ld (qposOf (y.core c).ld q.uid) biteAddress) c data q.uid i Line.lost
    (∀ o : LdlOp, startedOp x c (.ldl o) = some q → i = o.n.toNat →
      reserveLanding x c o.data q.uid i = .go () y →
      req o.l (exchAddr x false o.x q.tick (o.addr + bv 64 (i * o.stride.toNat * 512))) = some z →
      exec (.ldl a o) s = .next (s.setStack a.st (putOp z c .ld asked)))
    ∧ (∀ (o : IdxOp) (r : QEntry), startedOp x c (.ldx o) = some q → i = o.n.toNat →
      ((q.prog.buf ≠ [] ∧ w = x ∧ r = q) ∨ (q.prog.buf = [] ∧ ∃ l, addressLine x c o.data o.addr (i / 64) = .go l w ∧ r = holdAddresses q l)) →
      (w.core c).reqs.length < 256 → portWaiting (w.core c) .ld = false → addressAt r = (v, bad) → reserveLanding w c o.data q.uid i = .go () y →
      let used := fun (z : Stack) => match o.addr with | .pop p => if sharedPop o.data o.addr then z else dqDrop z c p.val | _ => z
      (bad = false → req o.l (exchAddr w false o.x q.tick (o.base + v)) = some z →
        exec (.ldx a o) s = .next (s.setStack a.st (putOp (used z) c .ld { q with prog := { q.prog with i := i + 1, buf := [] } })))
      ∧ (bad = true →
        exec (.ldx a o) s = .next (s.setStack a.st (putOp (used (lost o.data)) c .ld
          { q with prog := { q.prog with i := i + 1, fin := q.prog.fin + 1, buf := [] }, done := decide (q.prog.fin = i) }))))

/-- STL and STX at their last line (R226, R227, R230, R231): the line of DATA, with the bytes that MASK writes (all of them for NONE), makes a store
request that takes the path of its address; a mask of no byte makes none, and the line counts as acknowledged. A poisoned mask word or a poisoned address
bites, and nothing is stored for that line. With MC = 1 the masked line goes out under one request as the multicast packets (of a byte mask, log 96) of the group in the address's top
bits, each a run of its own replicated on the group's links; a misaligned address is answered ADDR_INVALID and sends nothing. STX reads its DATA line first; where DATA and ADDR pop one queue, each of the two pops a line of its own (DEDUCED, log 90). -/
def Obligations.StoresIssueTheirLines : Prop :=
  ∀ (s : State) (a : CoreAt) (q : QEntry) (y z : Stack) (d m : Line) (i : Nat), (s.coreAt a).run = .running →
    (s.coreAt a).reqs.length < 256 → portWaiting (s.coreAt a) .st = false → q.prog.i = i → q.prog.fin ≤ i → q.prog.got = [] →
    let x := s.stack a.st
    let c := a.c.val
    let req := fun (y : Stack) (l : Bool) (ad : Word) (mask : BitVec 512) =>
      let rt := routeOf y c l .write 512 ad
      sendAccess s.now (addReq y c
        { newReq y.nextId .st { q with prog := { q.prog with got := [] } } (fld ad 0 48) true d mask (partsOf rt .write d mask) with
          node := match rt with | .remote n => some n | _ => none }) c y.nextId 0 rt (fld ad 0 48) .write d mask
    let asked := { q with prog := { q.prog with i := i + 1 } }
    let past := { q with prog := { q.prog with i := i + 1, fin := q.prog.fin + 1 }, done := decide (q.prog.fin = i) }
    let bitten := fun (y : Stack) => biteCore y c .st (qposOf (y.core c).st q.uid) biteAddress
    (∀ o : StlOp, startedOp x c (.stl o) = some q → i = o.n.toNat →
      readAll c i ([o.data] ++ if o.mask = .none then [] else [o.mask]) x = some (if o.mask = .none then [d] else [d, m], y) →
      (y.core c).reqs.length < 256 → portWaiting (y.core c) .st = false →
      let mask : BitVec 512 := if o.mask = .none then fullMask else m.data.setWidth 512
      let ad := exchAddr y true o.x q.tick (o.addr + bv 64 (i * 512))
      (o.mask ≠ .none ∧ m.marks &&& 3#16 ≠ 0 → exec (.stl a o) s = .next (s.setStack a.st (putOp (bitten y) c .st past)))
      ∧ (o.mask = .none ∨ m.marks &&& 3#16 = 0 → mask = 0 → exec (.stl a o) s = .next (s.setStack a.st (putOp y c .st past)))
      ∧ (o.mask = .none ∨ m.marks &&& 3#16 = 0 → mask ≠ 0 → o.mc = false → req y o.l ad mask = some z →
        exec (.stl a o) s = .next (s.setStack a.st (putOp z c .st asked)))
      ∧ (o.mask = .none ∨ m.marks &&& 3#16 = 0 → mask ≠ 0 → o.mc = true → fld ad 0 48 % 512 ≠ 0 →
        exec (.stl a o) s = .next (s.setStack a.st (putOp (answerCore (addReq y c (newReq y.nextId .st q (fld ad 0 48) true d mask 1)) c y.nextId 0 (.error stAddrInvalid))
          c .st asked)))
      ∧ (o.mask = .none ∨ m.marks &&& 3#16 = 0 → mask ≠ 0 → o.mc = true → fld ad 0 48 % 512 = 0 → remoteHeld y = false →
        let ks := mcPackets (nodeId y) (fld ad 48 12) (fld ad 0 48) d mask
        openMcs s.now (fun n x k => mcSettle (mcReplicate n x k 8) k.tag) c y.nextId (fld (reg y (rIvtMcgrpB (fld ad 48 12))) 15 9) ks
          (addReq y c { newReq y.nextId .st q (fld ad 0 48) true d mask ks.length with node := some 0x10000 }) = some z →
        exec (.stl a o) s = .next (s.setStack a.st (putOp z c .st asked))))
    ∧ (∀ (o : IdxOp) (v : Word) (bad : Bool) (w : Stack) (r : QEntry), startedOp x c (.stx o) = some q → i = o.n.toNat →
      readEnd x c o.data i = .go d y → (y.core c).reqs.length < 256 → portWaiting (y.core c) .st = false →
      ((q.prog.buf ≠ [] ∧ w = y ∧ r = q) ∨ (q.prog.buf = [] ∧ ∃ l, addressLine y c o.data o.addr (i / 64) = .go l w ∧ r = holdAddresses q l)) →
      (w.core c).reqs.length < 256 → portWaiting (w.core c) .st = false → addressAt r = (v, bad) →
      let used := fun (z : Stack) => match o.addr with | .pop p => if sharedPop o.data o.addr then z else dqDrop z c p.val | _ => z
      (bad = true → exec (.stx a o) s = .next (s.setStack a.st (putOp (used (bitten w)) c .st
        { past with prog := { past.prog with buf := [] } })))
      ∧ (bad = false → req w o.l (exchAddr w true o.x q.tick (o.base + v)) fullMask = some z →
        exec (.stx a o) s = .next (s.setStack a.st (putOp (used z) c .st { asked with prog := { asked.prog with buf := [] } }))))

/-- ATOM at its last line of records (R229, R231): sixteen records of 32 bytes, each an address to add to BASE, an operand and a compare value, make up to
sixteen atomics under one request; a poisoned record bites, makes no access, and its result record is zeros, poisoned. -/
def Obligations.AtomIssuesSixteenRecords : Prop :=
  ∀ (s : State) (a : CoreAt) (o : AtomOp) (q : QEntry) (rl : Line) (w y z : Stack) (i : Nat), (s.coreAt a).run = .running →
    (s.coreAt a).reqs.length < 256 → portWaiting (s.coreAt a) .ld = false → q.prog.i = i → q.prog.fin ≤ i → q.prog.got = [] →
    startedOp (s.stack a.st) a.c.val (.atom o) = some q → i = o.n.toNat →
    readEnd (s.stack a.st) a.c.val o.addr i = .go rl w → (w.core a.c.val).reqs.length < 256 → portWaiting (w.core a.c.val) .ld = false →
    reserveLanding w a.c.val o.data q.uid i = .go () y →
    issueRecords s.now a.c.val y.nextId { q with prog := { q.prog with got := [rl] } } o.atype.toNat o.l (exchAddr y false o.x q.tick o.base) rl 16 0
      (addReq y a.c.val (newReq y.nextId .ld { q with prog := { q.prog with got := [rl] } } 0 false Line.zero 0 16)) = some z →
    exec (.atom a o) s = .next (s.setStack a.st (putOp z a.c.val .ld { q with prog := { q.prog with i := i + 1 } }))

/-- LDST_REQUEST_ISSUE (R228): of the oldest started operation of the queue with lines left, exactly the next line request is issued, with the acts that
come before it; where nothing is left to issue, or the core does not run, nothing changes. -/
def Obligations.OneLineRequestAtATime : Prop :=
  ∀ (s : State) (a : CoreAt) (e : Engine) (u : Upsets),
    let x := s.stack a.st
    let c := a.c.val
    (∀ q op n y q' z q'', issuing x c e = some (q, op) → (s.coreAt a).run = .running → n + 1 < actFuel →
      (∀ m, m ≤ n → ∀ w r, actsAfter s.now c op m (applyUpsets x u) q = some (w, r) → r.prog.i = q.prog.i) →
      actsAfter s.now c op n (applyUpsets x u) q = some (y, q') → engineAct s.now y c op q' = .go z q'' → q.prog.i < q''.prog.i →
      exec (.ldstRequestIssue a e u) s = .next (s.setStack a.st (putOp z c (opEngine op) q'')))
    ∧ (issuing x c e = none ∨ (s.coreAt a).run ≠ .running → exec (.ldstRequestIssue a e u) s = .next s)

/-- How a request of a core is answered (R228, R231, R232, R277). LINE_LAND: after `fails` failed transfers over the bond, one BOND_REPLAY for each that was sent
again and BOND_FAULT, the site failed and the failing words poisoned after the fourth, the line lands through the operation's DATA end and
the request is gone; its line counts as completed. STORE_ACK: an acknowledged store is gone and counts. REQUEST_ERROR_ANSWER: a load's line lands as zeros,
every word poisoned, a store stores nothing, and REMOTE_LOST for a lost node or MEM_ADDR for anything else is raised.
RETRY_LATER_RESEND (R228, R393): a refused access inside the stack whose back-off has passed goes to its vault controller again; a refused packet is sent again, with RESEND, on
the link of its route, and its tag is outstanding again; where no link can carry it, it completes as NODE_LOST (R369). -/
def Obligations.RequestsAreAnsweredOrSentAgain : Prop :=
    (∀ (s : State) (a : CoreAt) (id : Nat) (r : CoreReq) (op : CoreOp), findReq (s.stack a.st) a.c.val id = some r →
      (s.coreAt a).run = .running → reqOp (s.stack a.st) a.c.val r = some op →
      let x := s.stack a.st
      let c := a.c.val
      (∀ (l : Line) (fails : Fin 5) (failing : BitVec 16), r.answer = .line l →
        tget (fun _ => 0) x.inject (checkerKey (haSlice (coreSite x c)) 1) = 0 →
        let u := haSlice (coreSite x c)
        let bond := (List.range (min fails.val 3)).foldl (fun y _ => raise y { source := fBondReplay, addr := u, core := some c }) x
        let y := if fails.val = 4 then siteFailed (raise bond { source := fBondFault, addr := u, core := some c }) (coreSite x c) else bond
        let l' : Line := if fails.val = 4 then { l with marks := l.marks ||| failing } else l
        exec (.lineLand a id fails failing []) s = .next (s.setStack a.st
          (settleFaulted (finishReq (landLine y c (ldstData op) r.uid r.i l') c r) c)))
      ∧ (r.answer = .acked → exec (.storeAck a id) s = .next (s.setStack a.st (settleFaulted (finishReq x c r) c)))
      ∧ (∀ status, r.answer = .error status → r.parts = 0 →
        let y := if r.write then x else landLine x c (ldstData op) r.uid r.i Line.lost
        exec (.requestErrorAnswer a id) s = .next (s.setStack a.st (settleFaulted (finishReq
          (raiseCore y c r.e (qposOf ((y.core c).queue r.e) r.uid) (if status = stNodeLost then fRemoteLost else fMemAddr)) c r) c))))
  ∧ (∀ (s : State) (a : CoreAt) (id : Nat),
      let x := s.stack a.st
      let again := fun (y : Stack) => { y with entering := y.entering.map (fun r =>
        match r.origin, r.refused with
        | .core c i _, some t => if c = a.c.val ∧ i = id ∧ t ≤ s.now then { r with refused := none } else r
        | _, _ => r) }
      (resendable s.now x a.c.val id = [] → exec (.retryLaterResend a id) s = .next (s.setStack a.st (again x)))
      ∧ (∀ tag txn l, resendable s.now x a.c.val id = [(tag, txn)] → egressLink x txn.pkt.dst = some l →
        let k := { txn.pkt with resend := true }
        exec (.retryLaterResend a id) s = .next (s.setStack a.st (again (sendOn s.now
          { x with router := { x.router with tags := tput x.router.tags tag { txn with pkt := k, link := l, state := .open_ } } } l k))))
      ∧ (∀ tag txn, resendable s.now x a.c.val id = [(tag, txn)] → egressLink x txn.pkt.dst = none →
        exec (.retryLaterResend a id) s = .next (s.setStack a.st (again (failTxn x tag stNodeLost)))))


/-- The neighbour links (R154, R155, R158, R159). SEND of one line: for one free credit the line of SRC sets out for the receiver's queue RQ in the
operation's direction. LINK_LINE_LAND: the oldest line in flight that arrives without a parity error lands behind those that landed before; with one it is sent again
and raises LINK_REPLAY up to three times; then what has landed joins its queues while they have room. LINK_CREDIT_RETURN: one credit on
its way back reaches the sender. -/
def Obligations.NeighbourLinksMoveLines : Prop :=
  ∀ (s : State) (a : CoreAt) (d : Dir),
    let x := s.stack a.st
    let c := a.c.val
    (∀ (o : NlOp) q t line y, o.dir = d → o.n = 0 → (s.coreAt a).run = .running → startedOp x c (.send o) = some q → q.prog = {} →
      neighbour x c d = some t → 0 < (linkIn x t (incoming d)).credits → readEnd x c o.src 0 = .go line y →
      let l := linkIn x t (incoming d)
      exec (.nlSend a o) s = .next (s.setStack a.st (putOp
        (setLinkIn y t (incoming d) { l with credits := l.credits - 1, flight := l.flight ++ [⟨q.uid, o.rq.val, line, 1⟩] })
        c .nl { q with prog := { i := 1 } })))
    ∧ (∀ m r (failing : BitVec 16), (linkIn x c d).flight = m :: r → tget (fun _ => 0) x.inject (checkerKey (segmentOf x c d).1 0) = 0 →
      let l := linkIn x c d
      (failing = 0 → exec (.linkLineLand a d failing) s = .next (s.setStack a.st
        (pushLanded c d 8 (setLinkIn x c d { l with flight := r, landed := l.landed ++ [m] }))))
      ∧ (failing ≠ 0 → m.sent < 4 → exec (.linkLineLand a d failing) s = .next (s.setStack a.st (
        let y := setLinkIn x c d { l with flight := { m with sent := m.sent + 1 } :: r }
        raise (setReg y (rNlStat c) (addSat (reg y (rNlStat c)) 0 32 1))
          { source := fLinkReplay, addr := haSite (coreSite (setReg y (rNlStat c) (addSat (reg y (rNlStat c)) 0 32 1)) c), core := some c }))))
    ∧ (let l := linkIn x c d
      (0 < l.returning → exec (.linkCreditReturn a d) s = .next (s.setStack a.st
        (setLinkIn x c d { l with returning := l.returning - 1, credits := l.credits + 1 })))
      ∧ (l.returning = 0 → exec (.linkCreditReturn a d) s = .next s))

/-- WAIT, WAITC, SET, CLR, SIGNAL and TICK_END (R183, R184, R188): an FX instruction that the sequencer of a running core holds joins the FX queue under the
core's next dispatch number, where the queues it needs have room. A WAIT or WAITC places its gate marker at the tail of the queue of the engine that it gates, or with the
sequencer itself; TICK_END makes the sequencer hold until the next tick. Where a queue is full, nothing changes.
FX_ENTRY_COMPLETE and TICK_END_COMPLETE at a running core (R183, R186, R187, R188, Table 6.6). An entry whose condition holds takes its effect and leaves the
FX queue: a WAIT whose flag reads v and a WAITC that is granted release their gate marker, a WAITC on a local flag clearing it; SET and CLR write
their flag once their after-mask is satisfied; a SIGNAL also waits for the core's earlier stores, and then sets out, or raises SIGNAL_TARGET where its target takes none; TICK_END is
executed once every operation dispatched before it has completed. Where the condition does not hold, nothing changes. -/
def Obligations.FxEntriesJoinAndComplete : Prop :=
    (∀ (s : State) (a : CoreAt), (s.coreAt a).run = .running →
      let held := fun (o : FxOp) => (s.coreAt a).seqCur = some (.fx o)
      let room := decide ((s.coreAt a).fx.length < 32)
      let free := fun (g : Engine) => decide (g = .seq) || decide (g ≠ .fx ∧ ((s.coreAt a).queue g).length < 32)
      let placed := fun (o : FxOp) (k : Core) => { k with seqCur := none, fx := k.fx ++ [⟨k.uid, o, false⟩], uid := k.uid + 1 }
      let marked := fun (g : Engine) (k : Core) =>
        if g = .seq then { k with seqGate := some (k.uid - 1) }
        else k.setQueue g (k.queue g ++ [⟨k.uid - 1, none, false, false, tickOf (s.stack a.st), 0, {}, none⟩])
      (∀ f v g, held (.wait f v g) → room = true → free g = true →
        exec (.fxWait a f v g) s = .next (s.onCoreAt a (fun k => marked g (placed (.wait f v g) k))))
      ∧ (∀ f g, held (.waitc f g) → room = true → free g = true →
        exec (.fxWaitc a f g) s = .next (s.onCoreAt a (fun k => marked g (placed (.waitc f g) k))))
      ∧ (∀ f m, held (.set f m) → room = true → exec (.fxSet a f m) s = .next (s.onCoreAt a (placed (.set f m))))
      ∧ (∀ f m, held (.clr f m) → room = true → exec (.fxClr a f m) s = .next (s.onCoreAt a (placed (.clr f m))))
      ∧ (∀ (t : Fin 256) f m, held (.signal t.val f m) → room = true →
        exec (.fxSignal a t f m) s = .next (s.onCoreAt a (placed (.signal t.val f m))))
      ∧ (held .tickEnd → room = true →
        exec (.tickEnd a) s = .next (s.onCoreAt a (fun k => { placed .tickEnd k with seqHold := true })))
      ∧ (∀ f m, held (.set f m) → room = false → exec (.fxSet a f m) s = .next s))
  ∧ (∀ (s : State) (a : CoreAt) (i : Fin 32) (e : FxEntry), (s.coreAt a).run = .running → (s.coreAt a).fx[i.val]? = some e →
      let x := s.stack a.st
      let c := a.c.val
      let k := s.coreAt a
      let gone := fun (y : Stack) => tryHalt (y.onCore c (fun k => { k with fx := k.fx.filter (fun r => r.uid ≠ e.uid) })) c
      (∀ f v g, e.op = .wait f v g →
        (flagSeen s.now x c f.val = v → exec (.fxEntryComplete a i) s = .next (s.setStack a.st (gone (x.onCore c (fun k => releaseGate k g e.uid)))))
        ∧ (flagSeen s.now x c f.val ≠ v → exec (.fxEntryComplete a i) s = .next s))
      ∧ (∀ f g, e.op = .waitc f g → f.val < 64 → flagSeen s.now x c f.val = true → waitcBeaten k e f.val g = false →
        (flagTaken s.now f.val k = false →
          exec (.fxEntryComplete a i) s = .next (s.setStack a.st (gone ((x.onCore c (takeLocal s.now f.val)).onCore c (fun k => releaseGate k g e.uid)))))
        ∧ (flagTaken s.now f.val k = true → exec (.fxEntryComplete a i) s = .next s))
      ∧ (∀ f g, e.op = .waitc f g → 64 ≤ f.val → e.granted = true →
        exec (.fxEntryComplete a i) s = .next (s.setStack a.st (gone (x.onCore c (fun k => releaseGate k g e.uid)))))
      ∧ (∀ f m, e.op = .set f m → afterDone k m e.uid = true →
        exec (.fxEntryComplete a i) s = .next (s.setStack a.st (gone (writeFlag s.now x c f.val true))))
      ∧ (∀ f m, e.op = .clr f m → afterDone k m e.uid = true →
        exec (.fxEntryComplete a i) s = .next (s.setStack a.st (gone (writeFlag s.now x c f.val false))))
      ∧ (∀ f m, (e.op = .set f m ∨ e.op = .clr f m) → afterDone k m e.uid = false → exec (.fxEntryComplete a i) s = .next s)
      ∧ (∀ t g m, e.op = .signal t g m → afterDone k m e.uid = true → storesDone k e.uid = true →
        (signalTaken x t = true → exec (.fxEntryComplete a i) s = .next (s.setStack a.st
          (gone (x.onCore c (fun k => { k with signals := k.signals ++ [(t, g.val)] })))))
        ∧ (signalTaken x t = false → exec (.fxEntryComplete a i) s = .next (s.setStack a.st
          (gone (raiseCore x c .fx (k.fx.findIdx (fun y => y.uid = e.uid)) fSignalTarget)))))
      ∧ (e.op = .tickEnd → k.fx.find? (fun y => decide (y.op = .tickEnd)) = some e →
        (allDone k e.uid = true → exec (.tickEndComplete a) s = .next (s.setStack a.st (gone (x.onCore c (fun k => { k with tickEnd := true })))))
        ∧ (allDone k e.uid = false → exec (.tickEndComplete a) s = .next s)))


/-- SIGNAL_DELIVER and ROW_FLAG_TEST (R148, R186, R187). A signal on its way sets its flag at the target core, but not at one that is FAULTED (the model's reading of R192, log 103), and is gone; with none on its way nothing changes. At the S-core each
row flag is applied in the order: the clear of a granted test, then the writes of earlier cycles, in the order of their cycles, where a CLR gives way to a SET of the same flag
and cycle. The last write that stands therefore gives the flag; without one, a flag that reads 1 and grants a waiting WAITC reads 0 and any other stays. It happens once in a cycle. -/
def Obligations.FlagsAreApplied : Prop :=
  ∀ (s : State),
    (∀ (a : CoreAt) (f : Fin 64),
      (∀ c, (List.range 168).find? (fun c => ((s.stack a.st).core c).signals.contains (a.c.val, f.val)) = some c →
        let y := (s.stack a.st).onCore c (fun k => { k with signals := k.signals.erase (a.c.val, f.val) })
        exec (.signalDeliver a f) s = .next (s.setStack a.st (if (y.core a.c.val).run = .faulted then y else setLocalFlag s.now y a.c.val f.val true)))
      ∧ ((List.range 168).find? (fun c => ((s.stack a.st).core c).signals.contains (a.c.val, f.val)) = none →
        exec (.signalDeliver a f) s = .next s))
    ∧ (∀ r : RowAt, ((s.stack r.st).row r.r.val).flagTest = some s.now → exec (.rowFlagTest r) s = .next s)
    ∧ (∀ r : RowAt, ((s.stack r.st).row r.r.val).flagTest ≠ some s.now → ∃ (z : Stack) (fl : BitVec 64),
      let x := (s.stack r.st).row r.r.val
      exec (.rowFlagTest r) s = .next (s.setStack r.st (z.setRow r.r.val { x with
        flags := fl, flagOps := x.flagOps.filter (fun o => decide (s.now ≤ o.1)), flagTest := some s.now }))
      ∧ z.rows = (s.stack r.st).rows ∧ z.mem = (s.stack r.st).mem ∧ z.regs = (s.stack r.st).regs
      ∧ (∀ f : Nat, f < 64 →
        fl.getLsbD f =
          match ((standingOps (x.flagOps.filter (fun o => decide (o.1 < s.now)))).filter (fun o => decide (o.2.2 = f))).getLast? with
          | some o => o.2.1
          | none => x.flags.getLsbD f && (rowGrant (s.stack r.st) r.r.val f).isNone))

/-- The row ports (R161 to R164). PANTRY_REQUEST_ARRIVE in ACLK cycle t: behind a request that waits since an earlier cycle it waits. Otherwise a read joins the open window of its line, of
which the lowest core of its first cycle is the opener, or opens one where a window slot is free; a write takes a slot and closes the window of its line after the present cycle; with no slot free it
waits, but a read takes the window slot of the highest later opener of its own cycle, whose members then wait.
PANTRY_WINDOW_CLOSE closes the windows that have been open for four cycles. PANTRY_SLOT_TAKE: where only one request waits and a slot is free, it takes the slot.
Issue, the sub-banks and the glaze bus (R160, R164, R165, R252, R253, R277). PANTRY_PORT_ISSUE: where none has issued in cycle `t`, the only operation of a port that is eligible in it
goes to its sub-bank and its slot is free. PANTRY_SUBBANK_GRANT: where the first operation that the sub-bank can grant is a window's, the sub-bank is held four ACLK cycles from then, and the line is read once and takes its place on the glaze
bus of its row, later by the cycles that it has waited. GLAZE_DELIVER: the line of the earliest cycle is taken off the bus, with one GLAZE_REPLAY for each time it was sent again and GLAZE_FAULT and its failing words
poisoned after the fourth failure, and lands in every core of its window, in their order. -/
def Obligations.RowPortsAndPantryReads : Prop :=
    (∀ (s : State) (a : CoreAt) (e : Engine) (t : Nat) (acc : Access),
      let x := seenAclk (s.stack a.st) t
      let row := coreRow a.c.val
      let r := closeWindows (x.row row) t
      let wait := Host.Outcome.next (s.setStack a.st (x.setRow row { x.row row with waiting := (x.row row).waiting ++ [(t, a.c.val, acc.id)] }))
      let first := r.waiting.any (fun w => decide (w.1 < t)) = false
      let joins := r.windows.any (fun w => decide (w.addr = acc.addr) && w.closed.isNone)
      (pantryAccess x a.c.val e = some acc →
        (¬ first → exec (.pantryRequestArrive a e t) s = wait)
        ∧ (first → portTake x row a.c.val acc t true = none → (accessWrites acc = true ∨ laterWindow r a.c.val t = none) →
          exec (.pantryRequestArrive a e t) s = wait)
        ∧ (first → accessWrites acc = true → r.writes.length < 16 →
          exec (.pantryRequestArrive a e t) s = .next (s.setStack a.st (markArrived (x.setRow row { r with
            writes := r.writes ++ [⟨a.c.val, acc.id, acc.addr, t, 0⟩]
            windows := r.windows.map (fun w => if w.addr = acc.addr ∧ w.closed.isNone then { w with closed := some (t + 1) } else w) }) acc)))
        ∧ (first → accessWrites acc = false → joins = true →
          exec (.pantryRequestArrive a e t) s = .next (s.setStack a.st (markArrived (x.setRow row { r with windows := r.windows.map (fun w =>
            if w.addr = acc.addr ∧ w.closed.isNone then
              { w with members := w.members ++ [(a.c.val, acc.id)], opener := if w.opened = t then min w.opener a.c.val else w.opener }
            else w) }) acc)))
        ∧ (first → accessWrites acc = false → joins = false → r.windows.length < 16 →
          exec (.pantryRequestArrive a e t) s = .next (s.setStack a.st (markArrived (x.setRow row { r with
            windows := r.windows ++ [⟨acc.addr, t, a.c.val, [(a.c.val, acc.id)], none, 0, true⟩] }) acc)))
        ∧ (∀ w z, first → accessWrites acc = false → joins = false → 16 ≤ r.windows.length → laterWindow r a.c.val t = some w →
          portTake (giveUpWindow (x.setRow row r) row t w) row a.c.val acc t true = some z →
          exec (.pantryRequestArrive a e t) s = .next (s.setStack a.st z)))
      ∧ (∀ ro : RowAt,
          let y := seenAclk (s.stack ro.st) t
          exec (.pantryWindowClose ro t) s = .next (s.setStack ro.st (y.setRow ro.r.val
          { y.row ro.r.val with windows := (y.row ro.r.val).windows.map (fun w =>
            if w.closed.isNone ∧ w.opened + 4 ≤ t then { w with closed := some (w.opened + 4) } else w) })))
      ∧ (∀ (ro : RowAt) (since : Nat),
          let y := seenAclk (s.stack ro.st) t
          (y.row ro.r.val).waiting = [(since, a.c.val, acc.id)] → y.entering.find? (fun y => y.id = acc.id) = some acc →
          let gone := y.setRow ro.r.val { y.row ro.r.val with waiting := [] }
          (∀ z, portTake gone ro.r.val a.c.val acc t false = some z → exec (.pantrySlotTake ro t) s = .next (s.setStack ro.st z))
          ∧ (portTake gone ro.r.val a.c.val acc t false = none → exec (.pantrySlotTake ro t) s = .next (s.setStack ro.st y))))
  ∧ (∀ (s : State) (r : RowAt) (t : Nat),
      let x := seenAclk (s.stack r.st) t
      let row := x.row r.r.val
      (row.lastIssue = some t → exec (.pantryPortIssue r t) s = .next (s.setStack r.st (x.setRow r.r.val (closeWindows row t))))
      ∧ (∀ key w, row.lastIssue ≠ some t → portEligible (closeWindows row t) t = [(key, Sum.inl w)] →
        exec (.pantryPortIssue r t) s = .next (s.setStack r.st (
          let y := x.setRow r.r.val { closeWindows row t with windows := (closeWindows row t).windows.filter (fun v => v ≠ w), lastIssue := some t }
          { y with subbanks := setListAt y.subbanks (subbankKey w.addr) (listAt y.subbanks (subbankKey w.addr) ++ [.window r.r.val { w with issued := t }]) })))
      ∧ (∀ key w, row.lastIssue ≠ some t → portEligible (closeWindows row t) t = [(key, Sum.inr w)] →
        exec (.pantryPortIssue r t) s = .next (s.setStack r.st (
          let y := x.setRow r.r.val { closeWindows row t with writes := (closeWindows row t).writes.filter (fun v => v ≠ w), lastIssue := some t }
          { y with subbanks := setListAt y.subbanks (subbankKey w.addr) (listAt y.subbanks (subbankKey w.addr) ++ [.write r.r.val { w with issued := t }]) }))))
  ∧ (∀ (s : State) (r : RowAt),
      let x := s.stack r.st
      let row := x.row r.r.val
      (∀ (k : Fin 16) (u : Upsets) c w g o n, leastOf (subbankKeys x r.r.val k.val) = some ((g, o, n), .window c w) →
        exec (.pantrySubbankGrant r.st r.r k u) s = .next (s.setStack r.st (
          let key := r.r.val * 16 + k.val
          let y := injectSram (applyUpsets { x with
            subbanks := setListAt x.subbanks key ((listAt x.subbanks key).erase (.window c w))
            subfree := tset (fun _ => 0) x.subfree key (g + 4) } u) (haPantry r.r.val) 0 (w.addr / 32)
          y.setRow c (placeGlaze (y.row c) w (readLine y w.addr) (w.issued + 12 + 2 * Machine.dist c r.r.val + (g - (w.issued + 4)))))))
      ∧ (∀ (k : Fin 16) (u : Upsets), listAt x.subbanks (r.r.val * 16 + k.val) = [] → exec (.pantrySubbankGrant r.st r.r k u) s = .next s)
      ∧ (∀ (fails : Fin 5) (failing : BitVec 16) w l n, nextGlaze row.glaze = some (w, l, n) →
        tget (fun _ => 0) x.inject (checkerKey (haGlaze r.r.val) 0) = 0 →
        let y := (List.range (min fails.val 3)).foldl (fun y _ => raise y { source := fGlazeReplay, addr := haGlaze r.r.val })
          (x.setRow r.r.val { row with glaze := row.glaze.erase (w, l, n), lastGlaze := some n })
        exec (.glazeDeliver r fails failing) s = .next (s.setStack r.st (w.members.foldl
          (glazeLand (if fails.val = 4 then { l with marks := l.marks ||| failing } else l))
          (if fails.val = 4 then raise y { source := fGlazeFault, addr := haGlaze r.r.val } else y))))
      ∧ (nextGlaze row.glaze = none → ∀ (fails : Fin 5) (failing : BitVec 16), exec (.glazeDeliver r fails failing) s = .next s))


/-- Vault controllers (R237, R240, R241, R242, R247, R248, R592). VAULT_REQUEST_ARRIVE: an access of the site's own core enters the top-end queue, with the cycle of its arrival, while it
holds fewer than 64; one of the router enters the base-end queue of the site that serves it while that holds fewer than 256, and one of a core inside the stack is
refused for its back-off otherwise. RATE_WINDOW_START begins a window of 1,024 cycles with no row counted. REFRESH_DUE holds its bank for 100 cycles more from when it is free, or is owed to it until the write of an RMW has been granted there, and is counted;
a layer in self-refresh takes none. Time goes on to the cycle that the command names. Accesses of one source to one line arrive in
their order (R392), and a pantry access of a core takes its row's port, not a column (Table 8.2).
VAULT_GRANT (R240, R241, R242, R245, R261, R271). In a cycle in which no request of an RMW waits for its write, and the coils of the column are not under test (R533): the eligible request of the highest rank leaves its queue, is counted, and a line of DRAM is read or
written as the code of its region has it; its bank is busy for as long as the access holds it, its data slot is given, and it joins the transfers in flight. At most one row command is granted in a cycle; with none
eligible nothing is granted. The stored bits that upsets have flipped stand flipped in each case. -/
def Obligations.VaultControllersTakeAndGrant : Prop :=
    (∀ (s : State) (p : SiteAt) (id t : Nat),
      let x := s.stack p.st
      let v := x.vault p.s.val
      let T := s.atCycle t
      let now := T.now
      let now_ := fun (y : Stack) => Host.Outcome.next (T.setStack p.st y)
      (∀ a, columnsHeld x = false → v.entering.find? (fun a => a.id = id) = some a → v.top.length < 64 → firstOfLine x v.entering a = true →
        exec (.vaultRequestArrive p id t) s = now_ (x.setVault p.s.val { v with
          entering := v.entering.filter (fun y => y.id ≠ id), top := v.top ++ [{ a with arrived := now }] }))
      ∧ (∀ a, columnsHeld x = false → v.entering.find? (fun a => a.id = id) = none →
        x.entering.find? (fun a => decide (a.id = id) && a.refused.isNone) = some a → routerSite x a.addr = some p.s.val →
        takesColumn a = true → firstOfLine x x.entering a = true →
        (v.base.length < 256 → exec (.vaultRequestArrive p id t) s = now_
          { x.setVault p.s.val { v with base := v.base ++ [{ a with arrived := now }] } with entering := x.entering.filter (fun y => y.id ≠ id) })
        ∧ (∀ c req sub, 256 ≤ v.base.length → a.origin = .core c req sub → exec (.vaultRequestArrive p id t) s = now_
          { x with entering := x.entering.map (fun y => if y.id = id then { y with refused := some (now + backoffCycles (creditBackoff x)) } else y) }))
      ∧ exec (.rateWindowStart p t) s = now_ (x.setVault p.s.val { v with
          window := now / 1024, rows := 0, slots := v.slots.filter (fun y => now ≤ y.cycle + y.len + 4) })
      ∧ (∀ (bank : Fin 16) (layer : Fin 8),
        (v.selfRefresh.getLsbD layer.val = true → exec (.refreshDue p bank layer t) s = now_ x)
        ∧ (v.selfRefresh.getLsbD layer.val = false →
          let k := layer.val * 16 + bank.val
          let waits := v.rmw.any (fun r => decide (r.1 = k))
          let counted := tset (fun _ => 0) v.refreshes k (tget (fun _ => 0) v.refreshes k + 1)
          (waits = false → exec (.refreshDue p bank layer t) s = now_ (x.setVault p.s.val { v with
            busy := tset (fun _ => 0) v.busy k (max now (tget (fun _ => 0) v.busy k) + 100), refreshes := counted }))
          ∧ (waits = true → exec (.refreshDue p bank layer t) s = now_ (x.setVault p.s.val { v with
            owed := tset (fun _ => 0) v.owed k (tget (fun _ => 0) v.owed k + 1), refreshes := counted })))))
  ∧ (∀ (s : State) (p : SiteAt) (t : Nat) (u : DramUpsets),
      let T := s.atCycle t
      let now := T.now
      let x := flipDram (s.stack p.st) u
      let v := x.vault p.s.val
      let now_ := fun (y : Stack) => Host.Outcome.next (T.setStack p.st y)
      (v.lastGrant = some now ∨ testing x p.s.val = true → exec (.vaultGrant p t u) s = now_ x)
      ∧ (v.lastGrant ≠ some now → testing x p.s.val = false → v.rmw = [] → pickGrant x p.s.val now = none → exec (.vaultGrant p t u) s = now_ x)
      ∧ (∀ kind a k, v.lastGrant ≠ some now → testing x p.s.val = false → v.rmw = [] → pickGrant x p.s.val now = some (kind, a) → nbuProtected (dequeue x p.s.val a.id) a = false →
        bankKey a.addr = some k → (a.kind = .read ∨ a.kind = .write ∨ (∃ i j o c, a.kind = .atomic i j o c) ∨ ∃ w, a.kind = .row w) →
        let y := countGrant (dequeue x p.s.val a.id) p.s.val now a
        let done := perform y p.s.val { a with granted := now }
        let w := done.1.vault p.s.val
        exec (.vaultGrant p t u) s = now_ (done.1.setVault p.s.val { w with
          busy := tset (fun _ => 0) w.busy k (now + bankHold y a)
          slots := match slotOf (y.vault p.s.val).path (decide (kind = 0)) a now with | some sl => w.slots ++ [sl] | none => w.slots
          flight := w.flight ++ [done.2] })))


/-- COLUMN_TRANSFER_DONE, TOP_ACCESS_COMPLETE and SLICE_BANK_GRANT (R195, R241, R250, R277, R278, R593). The oldest transfer of a core or of Ivton leaves the column: with `fails` failed transmissions COL_REPLAY is raised for each
that was sent again and COL_FAULT after the fourth, the events of its row's decode are counted and raised, and it is answered. The highest-ranked access of a slice bank is performed; one of Ivton is marked
as performed at the top of its column and is answered when that completes, a read in the data slot that it then takes, any other is answered at once. That read crosses the column in one transfer more, which may fail. -/
def Obligations.AccessesAreDelivered : Prop :=
  ∀ (s : State) (p : SiteAt),
    let x := s.stack p.st
    let v := x.vault p.s.val
    (∀ (fails : Fin 5) (failing : BitVec 16) a, v.flight.find? (fun a => match a.origin with | .nbu _ _ => false | _ => true) = some a →
      let y := x.setVault p.s.val { v with flight := v.flight.filter (fun y => y.id ≠ a.id) }
      let d := columnTransfer s.now y p.s.val a fails.val failing
      exec (.columnTransferDone p fails failing) s = .next (s.setStack p.st (answerAccess s.now d.1 d.2))
      ∧ d.2.id = a.id ∧ d.2.origin = a.origin
      ∧ (fails.val < 4 → tget (fun _ => 0) x.inject (checkerKey (haColumn p.s.val) (columnChecker (y.vault p.s.val).path (receivesTop y p.s.val a))) = 0 →
        d.2.result = a.result))
    ∧ (∀ (c : CoreIx) (b : Fin 16) (u : Upsets) a,
      (listAt x.slices c.val).filter (fun a => decide (a.addr / 512 % 16 = b.val)) = [a] →
      let y := injectSram (applyUpsets { x with slices := setListAt x.slices c.val ((listAt x.slices c.val).filter (fun r => r.id ≠ a.id)) } u)
        (haSlice (coreSite x c.val)) 0 (a.addr / 32)
      let d := perform y (coreSite x c.val) a
      exec (.sliceBankGrant ⟨p.st, c⟩ b u) s = .next (s.setStack p.st (
        if sliceRank c.val a = 2 then { d.1 with topside := d.1.topside.map (fun r => if r.id = d.2.id then d.2 else r) }
        else answerAccess s.now d.1 d.2)))
    ∧ (∀ id a t q (u : Upsets) (fails : Fin 5) (failing : BitVec 16), x.topside.find? (fun a => a.id = id) = some a → firstOfLine x x.topside a = true →
      topSlot s.now x a = some t → a.done = true →
      let gone := { t with topside := t.topside.filter (fun y => y.id ≠ id) }
      routerSite gone a.addr = some q →
      let d := columnTransfer s.now gone q a fails.val failing
      exec (.topAccessComplete p.st ⟨id, u, fails, failing⟩) s = .next (settleControl (s.setStack p.st (answerAccess s.now d.1 d.2)) p.st))

/-- SOFT_ROW_REPAIR and SOFT_GROUP_REPAIR (R240, R247, R281, R282, R283, R285). A repair that firmware is to make, with a spare and a soft entry free, is made by row operations in the tile, each of which
is granted as one of rank 5 is, else waits; one that is granted holds its bank, 200 cycles for a row. A row repair is one: the row is read and decoded, its words are copied, and the first free soft entry of the
vault is taken, VALID, with the layer, bank, row and lowest free spare, and VLT_SPARES reads what is left. A group repair goes through every row of the tile, one for each presentation: the word of the row
that holds the group is copied and the pointer moves on; after the last row the entry is taken. With no spare or entry free REPAIR_EXHAUSTED is raised and the repair is no longer to be made. A repair that is not to be made changes nothing. -/
def Obligations.SoftRepairsTakeASpare : Prop :=
  ∀ (s : State) (p : SiteAt),
    let x := s.stack p.st
    let v := x.vault p.s.val
    let taken := fun (r : Repair) => x.setVault p.s.val { v with wanted := v.wanted.erase r }
    let exhausted := fun (r : Repair) => raise (taken r)
      { source := fRepairExhausted, addr := haVault p.s.val, vault := siteCore (taken r) p.s.val }
    let spared := fun (r : Repair) => { r with spare := freeSpare (taken r) p.s.val r (if r.group then 4 else 32) }
    (∀ f : RowFail,
      let r : Repair := ⟨false, f.layer.val, f.bank.val, f.row.val, 0, 0⟩
      let a := rowLine (taken r) p.s.val f.layer.val f.bank.val f.row.val
      let op := tileRow s.now (taken r) p.s.val a 200 (repairSince s.now x p.s.val)
      (v.wanted.contains r = false → exec (.softRowRepair p f) s = .next s)
      ∧ (v.wanted.contains r = true → repairRoom (taken r) p.s.val r = false → exec (.softRowRepair p f) s = .next (s.setStack p.st (exhausted r)))
      ∧ (v.wanted.contains r = true → repairRoom (taken r) p.s.val r = true → op = none →
        exec (.softRowRepair p f) s = .next (s.setStack p.st (waitRepair s.now x p.s.val)))
      ∧ (∀ y n, v.wanted.contains r = true → repairRoom (taken r) p.s.val r = true → op = some y →
        let y := y.setVault p.s.val { y.vault p.s.val with repairAt := none }
        let z := if f.row.val < 12288 then copyRow y p.s.val a (fun _ => true) else y
        freeSoft z p.s.val = some n →
        exec (.softRowRepair p f) s = .next (s.setStack p.st (updateSpares (setReg z (rVltSoftRepair p.s.val n) (softWord (spared r))) p.s.val))))
    ∧ (∀ f : TileFail,
      let r : Repair := ⟨true, f.layer.val, 0, 0, f.group.val, 0⟩
      (∀ g, groupRunOf v f.layer.val f.group.val = some g → exec (.softGroupRepair p f) s = .next (s.setStack p.st (groupStep s.now x p.s.val g)))
      ∧ (groupRunOf v f.layer.val f.group.val = none →
        (v.wanted.contains r = false → exec (.softGroupRepair p f) s = .next s)
        ∧ (v.wanted.contains r = true → repairRoom (taken r) p.s.val r = false → exec (.softGroupRepair p f) s = .next (s.setStack p.st (exhausted r)))
        ∧ (v.wanted.contains r = true → repairRoom (taken r) p.s.val r = true →
          let y := taken r
          exec (.softGroupRepair p f) s = .next (s.setStack p.st (groupStep s.now
            (y.setVault p.s.val { y.vault p.s.val with groups := (y.vault p.s.val).groups ++ [⟨spared r, 0⟩] }) p.s.val ⟨spared r, 0⟩)))))
    ∧ (∀ (y : Stack) (g : GroupRun),
      let a := rowLine y p.s.val g.r.layer (g.ptr % 16) (g.ptr / 16)
      let op := tileRow s.now y p.s.val a 180 (repairSince s.now y p.s.val)
      (op = none → groupStep s.now y p.s.val g = waitRepair s.now y p.s.val)
      ∧ (∀ z, op = some z →
        let w := if g.ptr / 16 < 12288 then copyRow z p.s.val a (fun i => i = g.r.grp / 4) else z
        let u := { w.vault p.s.val with repairAt := none }
        (g.ptr + 1 < groupOps → groupStep s.now y p.s.val g = w.setVault p.s.val { u with
          groups := u.groups.map (fun h => if h = g then { g with ptr := g.ptr + 1 } else h) })
        ∧ (groupOps ≤ g.ptr + 1 → groupStep s.now y p.s.val g = enableRepair (w.setVault p.s.val { u with groups := u.groups.erase g }) p.s.val g.r)))
    ∧ (∀ (y z : Stack) (a k hold since : Nat), bankKey a = some k → tileRow s.now y p.s.val a hold since = some z →
      tget (fun _ => 0) (z.vault p.s.val).busy k = s.now + hold ∧ (z.vault p.s.val).lastGrant = some s.now)


/-- The tokens of the tick tree at a member (R54, R55, R57, R59, R70, R375, R381). The second copy of a token, which follows it within the cycles of one turn of the control slots, is
dropped; what counts as a copy is log 99. A token for another node is sent on over the link of its route, or counted in IVT_HOPS_CNT where no
link can carry it. A START of a child, before every START and the member's own JOB_START are in, is kept with the configuration that it carries. A DONE of a child, while
the member's own work is not done, counts the child's ticks. A GO of a later tick reaches a member without children that runs: its gates see it. An ABORT
at a member that runs makes it end its job at the next tick boundary, and goes to no edge where there is no other. -/
def Obligations.TokensAtAMember : Prop :=
  ∀ (s : State) (st : StackIx) (t : Token),
    let held := (s.stack st).router.tokens.filter (fun e => decide (s.now ≤ e.2.2 + copyCycles))
    let copy := fun (ty : TokenTy) => held.any (fun e => decide (e.1 = ty ∧ e.2.1 = t))
    let came := fun (ty : TokenTy) => { s.stack st with router := { (s.stack st).router with tokens := held ++ [(ty, t, s.now)] } }
    let gone := fun (ty : TokenTy) => { s.stack st with router := { (s.stack st).router with
      tokens := held.eraseP (fun e => decide (e.1 = ty ∧ e.2.1 = t)) } }
    let away := fun (ty : TokenTy) => match egressLink (came ty) t.dest.toNat with
      | some l => putToken (came ty) l ty t
      | none => setReg (came ty) rIvtHopsCnt (addSat (reg (came ty) rIvtHopsCnt) 0 32 1)
    ((copy .start = true → exec (.startToken st t) s = .next (onMember s st (fun _ => gone .start)))
      ∧ (copy .done = true → exec (.doneToken st t) s = .next (onMember s st (fun _ => gone .done)))
      ∧ (copy .go = true → exec (.goToken st t) s = .next (onMember s st (fun _ => gone .go)))
      ∧ (copy .abort = true → exec (.abortToken st t) s = .next (onMember s st (fun _ => gone .abort))))
    ∧ (t.dest.toNat ≠ nodeId (s.stack st) →
      (copy .start = false → exec (.startToken st t) s = .next (onMember s st (fun _ => away .start)))
      ∧ (copy .done = false → exec (.doneToken st t) s = .next (onMember s st (fun _ => away .done)))
      ∧ (copy .go = false → exec (.goToken st t) s = .next (onMember s st (fun _ => away .go)))
      ∧ (copy .abort = false → exec (.abortToken st t) s = .next (onMember s st (fun _ => away .abort))))
    ∧ (∀ w, w = wakeSimmer s.now (came .start) → copy .start = false → t.dest.toNat = nodeId (s.stack st) → tokenMine w t = true →
      (treeKids w).contains t.member.toNat = true → w.pstate = .admitted → w.tick.ownStart = false →
        exec (.startToken st t) s = .next (onMember s st (fun _ => { w with tick := { w.tick with
          starts := w.tick.starts.filter (fun e => e.1 ≠ t.member.toNat) ++ [(t.member.toNat, t.tick)] } })))
    ∧ (∀ w, w = wakeSimmer s.now (came .done) → copy .done = false → t.dest.toNat = nodeId (s.stack st) → tokenMine w t = true →
      (treeKids w).contains t.member.toNat = true → jobOn w = true → w.tick.doneSent ≤ w.tick.upSent →
        exec (.doneToken st t) s = .next (onMember s st (fun _ => { w with tick := { w.tick with
          doneRecv := tset (fun _ => 0) w.tick.doneRecv t.member.toNat
            (max (tget (fun _ => 0) w.tick.doneRecv t.member.toNat) (fullTick w t.tick.toNat + 1)) } })))
    ∧ (∀ w, w = wakeSimmer s.now (came .go) → copy .go = false → t.dest.toNat = nodeId (s.stack st) → tokenMine w t = true →
      (treeParent w).isSome = true → w.tick.phase = .run → treeKids w = [] → w.tick.goRecv ≤ fullTick w t.tick.toNat →
        exec (.goToken st t) s = .next (onMember s st (fun _ => { w with tick := { w.tick with goRecv := fullTick w t.tick.toNat + 1 } })))
    ∧ (∀ w, w = wakeSimmer s.now (came .abort) → copy .abort = false → t.dest.toNat = nodeId (s.stack st) → tokenMine (came .abort) t = true → w.tick.phase = .run → w.tick.aborted = false → w.tick.hold = false → treeEdges w = [t.member.toNat] → gateWaiting w = false →
        exec (.abortToken st t) s = .next (onMember s st (fun _ => { w with tick := { w.tick with ending := true, aborted := true, endSource := 0 } })))

/-- TICK_DONE_SEND, TICK_START and TICK_OVERRUN (R50, R59, R60, R67, R70, R439). With its work done, a member in a tick sends done of that tick, once, notes by how much an overrun tick was late, and begins the coil tests that are due. At E(t) of a tick
whose done it has sent, the member ends its job at the last tick once go past it is in, or where the job is to end; else it starts tick t + 1 where the go that its credit asks for and the grant let it, and else it waits at the barrier. Where the
work is not done at E(t), which recedes while an exchange access waits at its gate (R48), TICK_OVERRUN is raised, once in the tick, and counted. A member that is to end its job, with an access that
waits at the gate, ends it at once.
TICK_CLOSE (R68, R69, R190, R204), in an overrun with nothing at the gate and with one core of the partition running. A core that waits has its pending waits logged in the free TCK_STALL_LOG registers, in the order of R69, raises SYNC_STALL, once for
each, and is FAULTED; one that neither has executed TICK_END nor waits raises TICK_RUNAWAY and is FAULTED. CORE_FAULT takes the report while its VALID is 0. The tick is closed, and collective entries that stall
are dealt with. A tick that is not running, is not overrun, or has closed before, is left as it is. -/
def Obligations.TicksBeginAndEnd : Prop :=
    (∀ (s : State) (st : StackIx),
      let x := s.stack st
      let t := tickOf x
      (∀ late bad, x.tick.phase = .run → x.tick.hold = false → x.tick.doneSent = t → workDone x t = true →
        let w := reg x rTckOverrun
        let y := if x.tick.overrun then setReg x rTckOverrun (setFld w 32 32 (max (fld w 32 32) (min 0xFFFFFFFF late))) else x
        exec (.tickDoneSend st late bad) s = .next (onMember s st (fun _ =>
          beginTest (sendUp s.now 4 (collBegin s.now { y with tick := { x.tick with doneSent := t + 1, overrun := false } } t bad)))))
      ∧ (∀ m, (x.tick.phase = .run ∨ x.tick.phase = .barrier) → x.tick.hold = false → x.tick.aborted = false → x.tick.doneSent = t + 1 →
        let w := if x.tick.phase = .run then learnTick s.now x m else x
        let y := { w with tick := { w.tick with phase := .barrier } }
        (t = x.tick.lastTick → t + 1 < x.tick.goRecv → w.tick.lastTick = x.tick.lastTick → w.tick.goRecv = x.tick.goRecv →
          exec (.tickStart st m) s = .next (onMember s st (fun _ => endMember s.now { y with tick := { y.tick with aborted := false } })))
        ∧ (t ≠ y.tick.lastTick → y.tick.ending = true → exec (.tickStart st m) s = .next (onMember s st (fun _ => endMember s.now y)))
        ∧ (t ≠ y.tick.lastTick → y.tick.ending = false → goLets y (t + 1) = true → grantLets y = true →
          exec (.tickStart st m) s = .next (onMember s st (fun _ => beginTick s.now y (t + 1))))
        ∧ (t ≠ y.tick.lastTick → y.tick.ending = false → goLets y (t + 1) = false →
          exec (.tickStart st m) s = .next (onMember s st (fun _ => y))))
      ∧ ((x.tick.phase = .run ∨ x.tick.phase = .barrier) → x.tick.hold = false → x.tick.aborted = true → gateWaiting x = true →
        ∀ m, exec (.tickStart st m) s = .next (onMember s st (fun _ => endMember s.now x)))
      ∧ (x.tick.phase = .run → x.tick.hold = false → x.tick.doneSent = t → x.tick.overrun = false → gateWaiting x = false → workDone x t = false →
        exec (.tickOverrun st) s = .next (s.setStack st (raise (setReg { x with tick := { x.tick with overrun := true } } rTckOverrun
          (addSat (reg x rTckOverrun) 0 32 1)) { source := fTickOverrun, addr := haController })))
      ∧ ((x.tick.phase ≠ .run ∨ x.tick.overrun = true ∨ gateWaiting x = true ∨ workDone x t = true) → exec (.tickOverrun st) s = .next s))
  ∧ (∀ (s : State) (st : StackIx) (c : Nat),
      let x := s.stack st
      let t := tickOf x
      let sev := fld (reg x rTckConfig) 16 3
      let y := { x with tick := { x.tick with closed := true } }
      ((x.tick.phase = .run ∧ x.tick.hold = false ∧ x.tick.doneSent = t ∧ x.tick.closed = false ∧ x.tick.overrun = true ∧ gateWaiting x = false) →
        (partCores x).filter (fun c => decide ((x.core c).run = .running)) = [c] →
        (coreWaits s.now x c = [] → (y.core c).tickEnd = false →
          let w := setFld (coreReport y fTickRunaway .seq 0) 8 3 sev
          exec (.tickClose st) s = .next (s.setStack st (collStall (faultCore (raise y
            { source := fTickRunaway, addr := haSite (coreSite y c), core := some c, detail0 := w }) c w sev) t)))
        ∧ (∀ w ws, coreWaits s.now x c = w :: ws →
          let words := (w :: ws).map (stallWord t c)
          let log := fun (z : Stack) (n : Nat) => match words[n]? with
            | some v => if fld (reg z (rTckStallLog n)) 63 1 = 1 then z else setReg z (rTckStallLog n) v
            | none => z
          let z := log (log y 0) 1
          let r : Raise := { source := fSyncStall, addr := haSite (coreSite z c), core := some c, detail0 := stallWord t c w, detail1 := reg z (rTckStallLog 1) }
          exec (.tickClose st) s = .next (s.setStack st (collStall (faultCore ((w :: ws).foldl (fun z _ => raise z r) z) c
            (bv 64 (2 ^ 63 + t % 65536 * 2 ^ 32 + fSyncStall * 2 ^ 20 + w.1 * 2 ^ 16 + w.2.1 % 32 * 2 ^ 11)) sev) t))))
      ∧ ((x.tick.phase ≠ .run ∨ x.tick.closed = true ∨ x.tick.overrun = false ∨ gateWaiting x = true) → exec (.tickClose st) s = .next s))


/-- The rows of the near-bank operations (R304, R306, R312): the started entry of the unit of the vault that a site serves places its reads and writes, in order, while the unit has fewer
than 64 row operations outstanding, 16 read-modify-writes among them, so that never more than these are outstanding; a row of another operation or entry, or with no entry started,
changes nothing. -/
def Obligations.NbuOperationsPlaceRowOps : Prop :=
  ∀ (s : State) (p : SiteAt) (op : Nat) (e : NbuEntry) (i : Instr) (v : Nat) (r : NbuRun) (j : NbuJob), nbuCommand op p e = some i →
    let x := s.stack p.st
    columnsHeld x = false → siteCore x p.s.val = some v → (x.nbu v).run = some r → r.job = some j →
    (j.e = e → e.op = op →
      let d := nbuPlace s.now p.s.val v 65 x j
      exec i s = .next (s.setStack p.st (d.1.setNbu v { d.1.nbu v with run := some { r with job := some d.2 } }))
      ∧ ((nbuOut x p.s.val).length ≤ 64 → (nbuOut d.1 p.s.val).length ≤ 64)
      ∧ (((nbuOut x p.s.val).filter (fun a => isRmw a.kind)).length ≤ 16 → ((nbuOut d.1 p.s.val).filter (fun a => isRmw a.kind)).length ≤ 16))
    ∧ (j.e ≠ e ∨ e.op ≠ op → exec i s = .next s)

/-- NBU_ENTRY_START (R310, R317, R318, R320, R321, R322). With the parameter line there, nothing outstanding and the exchange gate open, the next entry of the run is looked at; NBU_STATUS names it as the unit's last one. A selected parameter that is
poisoned bites, an N or a range of lines out of bounds raises NBU_ADDR, and in both cases the entry ends before any access; otherwise it starts with its lines selected and nothing read. A
stochastic entry counts among the ordinals of its tick in each case (log 98).
NBU_ROW_OP_COMPLETE (R306, R310, R319), with no transmission failed and none injected. The oldest granted row operation of the unit leaves the column and is counted. With no entry started and no parameters read, its line is the
parameter line; for a started entry a read's line waits for its turn and the lines whose turn has come are consumed; an entry with nothing left to ask, to consume or to write ends, and the next one of its run is due. -/
def Obligations.NbuEntriesStartAndComplete : Prop :=
    (∀ (s : State) (p : SiteAt) (v i : Nat) (rest : List Nat) (r : NbuRun) (l : Line) (e : NbuEntry),
      let x := s.stack p.st
      let r' : NbuRun := { r with stoch := if nbuStochastic e then r.stoch + 1 else r.stoch }
      let y := (x.setVault p.s.val { x.vault p.s.val with nbuEntry := i }).setNbu v { x.nbu v with ran := true, run := some r' }
      columnsHeld x = false → siteCore x p.s.val = some v → (x.nbu v).run = some r → r.params = some l → r.job = none → r.todo = i :: rest →
      (x.nbu v).sched[i]? = some e →
      (nbuOut x p.s.val ≠ [] ∨ (e.x = true ∧ r.cmd = none ∧ goReceived x r.tick = false) → exec (.nbuEntryStart p) s = .next s)
      ∧ (nbuOut x p.s.val = [] → (e.x = true → r.cmd = none → goReceived x r.tick = true) →
        (selPoison l e = true → exec (.nbuEntryStart p) s = .next (s.setStack p.st
          (nbuNext s.now (nbuFault y p.s.val v 4 fPoisonBite 0 (bv 64 biteAddress)) v false)))
        ∧ (selPoison l e = false →
          let n : Int := if selOn e.nsel then (nbuParam l (e.nsel - 64)).1.toInt else (e.n : Int)
          let xo : Nat := if e.x then (r.tick + 1) % 2 * 2 ^ fld (reg y rTckXchg) 0 6 / 512 else 0
          let a := selLine l e.asel e.a
          let b := selLine l e.bsel e.b + (xo : Int)
          let d := selLine l e.dsel e.d
          let spans := nbuSpans e n.toNat
          let out := (outLine a spans.1).orElse (fun _ => (outLine b spans.2.1).orElse (fun _ => (outLine d spans.2.2.1).orElse (fun _ => outLine (e.s : Int) spans.2.2.2)))
          (n < 1 ∨ nbuNOk e n.toNat = false → ∃ line, exec (.nbuEntryStart p) s = .next (s.setStack p.st
            (nbuNext s.now (nbuFault y p.s.val v 1 fNbuAddr line 0) v false)))
          ∧ (1 ≤ n → nbuNOk e n.toNat = true → ∀ line, out = some line → exec (.nbuEntryStart p) s = .next (s.setStack p.st
            (nbuNext s.now (nbuFault y p.s.val v 1 fNbuAddr line 0) v false)))
          ∧ (1 ≤ n → nbuNOk e n.toNat = true → out = none → ∃ j : NbuJob, exec (.nbuEntryStart p) s = .next (s.setStack p.st
            (y.setNbu v { y.nbu v with run := some { r' with job := some j } }))
            ∧ j.idx = i ∧ j.e = e ∧ (j.n : Int) = n ∧ j.a = a.toNat ∧ j.b = b.toNat ∧ j.d = d.toNat ∧ j.rd = 0 ∧ j.used = 0 ∧ j.pend = [] ∧ j.out = 0 ∧ j.ord = r.stoch))))
  ∧ (∀ (s : State) (p : SiteAt) (a : Access) (v tag : Nat) (r : NbuRun),
      let x := s.stack p.st
      let w := x.vault p.s.val
      let y := x.setVault p.s.val { w with flight := w.flight.filter (fun b => b.id ≠ a.id) }
      let d := columnTransfer s.now y p.s.val a 0 0
      let z := setReg d.1 (rNbuCount p.s.val) (addSat (reg d.1 (rNbuCount p.s.val)) 32 32 1)
      w.flight.find? isNbu = some a → a.origin = .nbu v tag → a.granted ≠ 0 → (z.nbu v).run = some r →
      (r.params = none → r.job = none → exec (.nbuRowOpComplete p 0 0) s = .next (s.setStack p.st
        (z.setNbu v { z.nbu v with run := some { r with params := some d.2.result } })))
      ∧ (∀ j, r.job = some j →
        let c := nbuDrain p.s.val v r 64 z (if tag = 0 then j else { j with ready := j.ready ++ [(tag - 1, d.2.result)] })
        let run := match (c.2.nbu v).run with | some q => q | none => r
        let after := c.2.setNbu v { c.2.nbu v with run := some { run with job := some c.1 } }
        exec (.nbuRowOpComplete p 0 0) s = .next (s.setStack p.st
          (if nbuSpent c.1 = true ∧ nbuOut after p.s.val = [] then nbuNext s.now after v true else after))))


/-- NBU_LOAD, NBU_RUN and NBU_GET_STATE (R309, R325, R326, Table 10.8), commands that have started. NBU_LOAD with no job admitted or running replaces the schedule of vault V, or of every vault whose row is
not retired, by its entries, and the parameter line, and answers OK; otherwise STATE. NBU_RUN of a unit that runs nothing begins its one entry with tick 0, member 0 and the seed of the command; with a job it
answers STATE, and INVALID_PARAM for an entry that is not there, not valid or, without its licence, of ZL8. NBU_GET_STATE answers configuration, status, counts and log. -/
def Obligations.NbuCommands : Prop :=
  ∀ (s : State) (st : StackIx) (c : CmdRef) (k : Cmd),
    let x := s.stack st
    let v := (k.arg 0).toNat
    let done := fun (y : Stack) (status : Nat) => Host.Outcome.next (s.setStack st (answerCmd s.now y k status))
    (CmdStarted s st c 0x0400 k →
      let es := nbuPayload k.data
      let load := fun (y : Stack) (u : Nat) => setReg (y.setNbu u { y.nbu u with sched := es }) (rNbuCfg (coreSite y u))
        (bv 64 (es.length * 2 ^ 32 + (k.arg 1).toNat))
      (jobHeld x = true → exec (.nbuLoad st c) s = done x stState)
      ∧ (jobHeld x = false → v ≤ 167 → rowRetired x (coreRow v) = false → exec (.nbuLoad st c) s = done (load x v) stOk)
      ∧ (jobHeld x = false → v = 0xFF →
        exec (.nbuLoad st c) s = done (((List.range 168).filter (fun u => !rowRetired x (coreRow u))).foldl load x) stOk)
      ∧ (jobHeld x = false → v ≤ 167 → rowRetired x (coreRow v) = true → exec (.nbuLoad st c) s = done x stState))
    ∧ (CmdStarted s st c 0x0401 k → (x.nbu v).run = none →
      (jobHeld x = true ∨ rowRetired x (coreRow v) = true → exec (.nbuRun st c) s = done x stState)
      ∧ (jobHeld x = false → rowRetired x (coreRow v) = false →
        ((x.nbu v).sched[(k.arg 1).toNat]? = none → exec (.nbuRun st c) s = done x stInvalidParam)
        ∧ (∀ e, (x.nbu v).sched[(k.arg 1).toNat]? = some e → (nbuInvalid x e = true ∨ (nbuZl8 e = true ∧ fld (reg x rSecLicence) 1 1 = 0)) →
          exec (.nbuRun st c) s = done x stInvalidParam)
        ∧ (∀ e, (x.nbu v).sched[(k.arg 1).toNat]? = some e → nbuInvalid x e = false → (nbuZl8 e = true → fld (reg x rSecLicence) 1 1 ≠ 0) →
          exec (.nbuRun st c) s = .next (s.setStack st (nbuBegin s.now x v
            { tick := 0, member := 0, seed := k.arg 2, cmd := some c, todo := [(k.arg 1).toNat], params := none, job := none, stoch := 0, failed := false })))))
    ∧ (CmdStarted s st c 0x0402 k →
      let p := coreSite x v
      exec (.nbuGetState st c) s = .next (s.setStack st
        (reply s.now x k stOk [reg x (rNbuCfg p), nbuStatus x p, reg x (rNbuCount p), reg x (rNbuLog p)] [])))

/-- What the near-bank unit computes in place (Table 10.4, R305, R312): element i of the line that an element operation writes is the operation on element i of the row it read and of the line it carries, poisoned where a
word of them that it uses is; on INT32, EADD, EMUL, EAXPY and ESCAL wrap, EMIN and EMAX are signed. -/
def Obligations.NbuElementResults : Prop :=
  (∀ (op : Nat) (t : Bool) (imm : BitVec 32) (old b : Line) (i : Nat), i < 128 →
    lineEl 32 (rmwLine (.rmwElem op t imm) old b) i = (nbuElem op t imm (bv 32 (lineEl 32 old i)) (bv 32 (lineEl 32 b i))).toNat
    ∧ elPoison 32 (rmwLine (.rmwElem op t imm) old b) i = (elPoison 32 old i || (nbuUsesB op && elPoison 32 b i)))
  ∧ (∀ imm d b : BitVec 32,
    (nbuElem 0x08 true imm d b).toNat = (d.toNat + b.toNat) % 2 ^ 32
    ∧ (nbuElem 0x09 true imm d b).toNat = (d.toNat * b.toNat) % 2 ^ 32
    ∧ (nbuElem 0x0A true imm d b).toInt = min d.toInt b.toInt
    ∧ (nbuElem 0x0B true imm d b).toInt = max d.toInt b.toInt
    ∧ (nbuElem 0x0C true imm d b).toNat = (imm.toNat * b.toNat + d.toNat) % 2 ^ 32
    ∧ (nbuElem 0x0D true imm d b).toNat = (d.toNat * imm.toNat) % 2 ^ 32)

/-- The rows of the KV commands (R342 to R347, R357): KV_SEQ_CREATE, KV_STEP_RESERVE, KV_FORK, KV_FREE, KV_SET_EVICTION, KV_APPEND, KV_COMMIT and KV_GET_SEQ. An issuer's command that has started is acted on and answered with the status and the
results of `kvRun` once every row command and sub-bank access of its lines has been performed: before, those it lacks are asked for, and what it is acted on is the memory as those accesses saw it (log 42); while a job runs, one of the phase commands of a configured engine answers STATE where it names no later tick, and waits for its tick
otherwise. The record that a row's agent has taken is acted on in the same way, and its reply, the words of R343, goes to the data queue of the row's S-core that it names. In a base non-transit reset both wait. -/
def Obligations.KvCommandsAct : Prop :=
  ∀ (s : State) (st : StackIx),
    let x := s.stack st
    -- what an exec answers where the engine, asked by `src`, would make `f` of the stack
    let acted := fun (src : Option KvSource) (row : Nat) (f : Stack → Stack) (out : Host.Outcome State Fault Refusal) =>
      let y := f (kvSees x (kvAskedBy x src))
      (kvReady x y src = true → out = .next (s.setStack st (kvDone x y src)))
      ∧ (kvReady x y src = false → out = .next (s.setStack st ((kvMissing x y src).foldl (kvAsk s.now src row) x)))
    let issuer := fun (op : Nat) (i : CmdRef → Instr) => ∀ (r : CmdRef) (k : Cmd), startedCmd x r = some k → k.op = op →
      (columnsHeld x = true → exec (i r) s = .next s)
      ∧ (columnsHeld x = false → ¬ (op ≤ 0x0305 ∧ jobRuns x = true ∧ kvConfigured x = true) →
        acted (some (.issuer r)) 0 (fun z =>
          let d := kvRun z none op k.arg
          sendReply s.now (dropCmd d.2.2 k.ref) k (replyBytes s.now (actTick d.2.2) k d.1 d.2.1 [] false)) (exec (i r) s))
      ∧ (columnsHeld x = false → op ≤ 0x0305 → jobRuns x = true → kvConfigured x = true →
        (k.arg 7 = 0 ∨ (k.arg 7).toNat ≤ x.kv.phaseTick → exec (i r) s = .next (s.setStack st (answerCmd s.now x k stState)))
        ∧ (k.arg 7 ≠ 0 → x.kv.phaseTick < (k.arg 7).toNat → exec (i r) s = .next (s.setStack st
          { dropCmd x r with kv := { x.kv with waiting := x.kv.waiting ++ [k] } })))
    let agent := fun (op : Nat) (i : RowIx → Instr) => ∀ (r : RowIx) (id : Nat) (rec : List Byte), columnsHeld x = false →
      (x.row r.val).kvTaken = some (id, rec) →
      (fld (recWord rec 0) 0 16 = op →
        acted (some (.agent r)) r.val (fun z =>
          let d := kvRun (z.setRow r.val { z.row r.val with kvTaken := none }) (some r.val) op (fun n => recWord rec (n + 1))
          setReply d.2.2 r.val id (replyLine rec d.1 d.2.1)) (exec (i r) s))
      ∧ (fld (recWord rec 0) 0 16 ≠ op → exec (i r) s = .next s)
    (issuer 0x0301 (fun r => .kvSeqCreate st (.issuer r)) ∧ agent 0x0301 (fun r => .kvSeqCreate st (.agent r)))
    ∧ (issuer 0x0302 (fun r => .kvStepReserve st (.issuer r)) ∧ agent 0x0302 (fun r => .kvStepReserve st (.agent r)))
    ∧ (issuer 0x0303 (fun r => .kvFork st (.issuer r)) ∧ agent 0x0303 (fun r => .kvFork st (.agent r)))
    ∧ (issuer 0x0304 (fun r => .kvFree st (.issuer r)) ∧ agent 0x0304 (fun r => .kvFree st (.agent r)))
    ∧ (issuer 0x0305 (fun r => .kvSetEviction st (.issuer r)) ∧ agent 0x0305 (fun r => .kvSetEviction st (.agent r)))
    ∧ (issuer 0x0306 (fun r => .kvAppend st (.issuer r)) ∧ agent 0x0306 (fun r => .kvAppend st (.agent r)))
    ∧ (issuer 0x0307 (fun r => .kvCommit st (.issuer r)) ∧ agent 0x0307 (fun r => .kvCommit st (.agent r)))
    ∧ (issuer 0x0308 (fun r => .kvGetSeq st (.issuer r)) ∧ agent 0x0308 (fun r => .kvGetSeq st (.agent r)))

/-- What KV commands make of a configured pool (R342, R348, R350 to R353, R355), where what they read is not poisoned. KV_SEQ_CREATE of a class with pages, of a sequence that is not live, takes the lowest free tray and writes its descriptor.
KV_STEP_RESERVE, outside ring mode, of no more entries than the free slots of a sequence that shares no page takes no page, evicts and copies nothing, backs the unbacked entries by the lowest free slots and sets RES. KV_FORK of a sequence with no page copies none,
and gives the child the lowest free tray and the parent's descriptor with the committed entries staged and unbacked. KV_FREE of a sequence with no page reclaims none, and leaves it not live, its tray free. KV_APPEND of
the owner's agent stages N entries where the tray has room, backs as many as are reserved by the next slots, and answers STAGED, the backed count and APPENDED as they were; with no room the answer is PAGE_EXHAUSTED. KV_COMMIT beyond what is
staged is INVALID_PARAM. KV_SET_EVICTION writes the eviction bit and the window. KV_GET_SEQ answers the 52 bytes of the descriptor and changes nothing. KV_APPEND and KV_COMMIT of an issuer answer STATE. -/
def Obligations.KvCommandEffects : Prop :=
  ∀ (x : Stack) (row : Option Nat) (p : Nat → Word), kvConfigured x = true →
    let q := (p 0).toNat
    (∀ d t, q ≤ 4095 → fld (p 1) 0 4 ≤ 8 → kvPages x (fld (p 1) 0 4) ≠ 0 → fld (p 1) 8 1 = 0 → fld (p 1) 16 32 = 0 →
      kvDesc x q = .ok d → d.live = false → freeTray x = some t →
      ∃ y, kvDo x row 0x0301 p = .ok ([bv 64 t], y) ∧ y.kv.trays = tput x.kv.trays q t ∧ y.mem = (putDesc x q
        { live := true, cls := fld (p 1) 0 4, ring := false, evict := false, owner := fld (p 2) 0 3, tray := t, npages := 0, ringPages := 0,
          window := fld (p 3) 0 32, appended := 0, res := 0, staged := 0, committed := 0, unbacked := 0, high := 0 }).mem)
    ∧ (∀ d, q ≤ 4095 → kvDesc x q = .ok d → d.live = true →
      let n := (p 1).toNat
      (∀ r slots, 1 ≤ n → n ≤ 64 → d.owner = r → d.staged + n ≤ kvT d.cls → (if min n d.res = 0 then slots = [] else kvNextSlots x q d (min n d.res) = .ok slots) →
        kvDo x (some r) 0x0306 p = .ok ([bv 64 d.staged, bv 64 (min n d.res), bv 64 d.appended],
          putDesc (setBacking x q (kvBacking x q ++ slots)) q { d with
            staged := d.staged + n, appended := d.appended + n, res := d.res - min n d.res, unbacked := d.unbacked + (n - min n d.res) }))
      ∧ (∀ r, 1 ≤ n → n ≤ 64 → d.owner = r → kvT d.cls < d.staged + n → kvDo x (some r) 0x0306 p = .error ⟨stPageExhausted, 0⟩)
      ∧ (∀ r, d.owner ≠ r → 1 ≤ n → n ≤ 64 → kvDo x (some r) 0x0306 p = .error ⟨stState, 0⟩ ∧ kvDo x (some r) 0x0307 p = .error ⟨stState, 0⟩)
      ∧ (∀ r, 1 ≤ n → n ≤ 64 → d.owner = r → d.staged - d.committed < n → kvDo x (some r) 0x0307 p = .error ⟨stInvalidParam, 0⟩)
      ∧ (¬ (fld (p 1) 0 1 = 1 ∧ d.ring = true) → kvDo x row 0x0305 p = .ok ([], putDesc x q { d with
          evict := decide (fld (p 1) 0 1 = 1), window := fld (p 2) 0 32 }))
      ∧ (∀ tab free slots, d.ring = false → n ≤ 65536 → fld (p 2) 0 1 = 0 → kvTable x q d.npages = .ok tab → kvFreePages x d.cls = .ok free →
          kvFreeSlots x q d = .ok slots → d.unbacked + n ≤ slots.length → kvSharedOf x d.cls tab (slots.take (d.unbacked + n)) = .ok [] →
          kvDo x row 0x0302 p = .ok ([0, 0, 0], putDesc (setBacking x q (kvBacking x q ++ slots.take d.unbacked)) q { d with unbacked := 0, res := n }))
      ∧ (∀ c t free, n ≤ 4095 → q ≠ n → kvDesc x n = .ok c → c.live = false → freeTray x = some t → d.npages = 0 → kvFreePages x d.cls = .ok free →
          ∃ y, kvDo x row 0x0303 p = .ok ([bv 64 t, 0], { putDesc y n { d with
              owner := fld (p 2) 0 3, evict := false, res := 0, tray := t, staged := d.committed, unbacked := d.committed } with kv :=
                { (putDesc y n { d with owner := fld (p 2) 0 3, evict := false, res := 0, tray := t, staged := d.committed, unbacked := d.committed }).kv with
                  trays := tput y.kv.trays n t } })
            ∧ y.kv.trays = x.kv.trays ∧ y.kv.backing = x.kv.backing)
      ∧ (d.npages = 0 → ∃ y, kvDo x row 0x0304 p = .ok ([0], y) ∧ y.kv.trays = tdel x.kv.trays q ∧ y.kv.backing = tset (fun _ => []) x.kv.backing q []
          ∧ y.mem = (putDesc x q { d with live := false, npages := 0, staged := 0, committed := 0, unbacked := 0, res := 0 }).mem))
    ∧ (∀ v, q ≤ 4095 → kvRead 2 x (descAddr x q) 52 = .ok v →
      kvDo x row 0x0308 p = .ok ((List.range 7).map (fun i => bv 64 (v / 2 ^ (64 * i))), x))
    ∧ kvDo x none 0x0306 p = .error ⟨stState, 0⟩ ∧ kvDo x none 0x0307 p = .error ⟨stState, 0⟩
    ∧ (∀ op, kvConfigured x = true → (op < 0x0301 ∨ 0x0308 < op) → kvDo x row op p = .error ⟨stInvalidOpcode, 0⟩)

/-- KV_POOL_CONFIG, KV_AGENT_TAKE and KV_PHASE (R149, R189, R334, R343, R345, R347). KV_POOL_CONFIG with no job loads the pool's registers, VALID set and reserved bits 0, and leaves no sequence, tray or pin, or refuses the payload; with a job it answers STATE. An agent with room for a
reply and nothing taken takes the next record of its row: an opcode outside the engine's is answered at once, a phase command of a configured engine waits for its phase while a job runs, any other is taken. The phase of the next tick is carried out once every participating
core has executed TICK_END or is HALTED or FAULTED, no record of an S-core waits for which its agent has room and none is taken, and not before. KV_POOL_CONFIG and the phase wait until their row commands and sub-bank accesses are performed. -/
def Obligations.KvPoolAgentsAndPhases : Prop :=
  ∀ (s : State) (st : StackIx),
    let x := s.stack st
    -- what an exec answers where the engine, asked by `src`, would make `f` of the stack
    let acted := fun (src : Option KvSource) (f : Stack → Stack) (out : Host.Outcome State Fault Refusal) =>
      let y := f (kvSees x (kvAskedBy x src))
      (kvReady x y src = true → out = .next (s.setStack st (kvDone x y src)))
      ∧ (kvReady x y src = false → out = .next (s.setStack st ((kvMissing x y src).foldl (kvAsk s.now src 0) x)))
    (∀ (r : CmdRef) (k : Cmd), startedCmd x r = some k → k.op = 0x0300 →
      let w := fun i => word64At k.data (8 * i)
      let cls := (List.range 9).map (fun i => w (2 + i))
      let held := x.pstate = .admitted ∨ x.pstate = .running ∨ x.pstate = .disabling
      (held → exec (.kvPoolConfig st (.issuer r)) s = .next (s.setStack st (answerCmd s.now x k stState)))
      ∧ (¬ held → poolBad (w 0) (w 1) cls = true → exec (.kvPoolConfig st (.issuer r)) s = .next (s.setStack st (answerCmd s.now x k stInvalidParam)))
      ∧ (¬ held → poolBad (w 0) (w 1) cls = false → ∃ f : Stack → Stack,
        acted (some (.issuer k.ref)) f (exec (.kvPoolConfig st (.issuer r)) s)
        ∧ ∀ z, ∃ y, f z = answerCmd s.now y k stOk ∧ y.kv.trays = [] ∧ y.kv.backing = [] ∧ y.kv.pins = [] ∧ y.cores = z.cores
          ∧ y.regs = ((List.range 9).foldl (fun z i => setReg z (rKveClass i) (setFld (cls.getD i 0) 37 3 0))
            (setReg (setReg z rKvePool (setFld (setFld (w 0) 63 1 1) 42 6 0)) rKveSeqtab (setFld (w 1) 29 35 0))).regs))
    ∧ (∀ r : RowIx,
      let y := pushReplies x r.val 64
      let row := y.row r.val
      (row.kvq = [] ∨ row.kvTaken ≠ none ∨ 64 ≤ row.kvReplies.length → exec (.kvAgentTake ⟨st, r⟩) s = .next (s.setStack st y))
      ∧ (∀ rec rest, row.kvq = rec :: rest → row.kvTaken = none → row.kvReplies.length < 64 →
        let w := recWord rec 0
        let op := fld w 0 16
        let z := { y.setRow r.val { row with kvq := rest, kvReplies := row.kvReplies ++ [⟨y.nextId, fld w 16 4, none⟩] } with nextId := y.nextId + 1 }
        let waits := op ≤ 0x0305 ∧ jobRuns z = true ∧ kvConfigured z = true
        (op < 0x0301 ∨ 0x0308 < op → exec (.kvAgentTake ⟨st, r⟩) s = .next (s.setStack st (setReply z r.val y.nextId (replyLine rec stInvalidOpcode []))))
        ∧ (0x0301 ≤ op → waits → exec (.kvAgentTake ⟨st, r⟩) s = .next (s.setStack st
          { z with kv := { z.kv with queued := z.kv.queued ++ [(r.val, y.nextId, rec)] } }))
        ∧ (0x0301 ≤ op → op ≤ 0x0308 → ¬ waits → exec (.kvAgentTake ⟨st, r⟩) s = .next (s.setStack st
          (z.setRow r.val { z.row r.val with kvTaken := some (y.nextId, rec) })))))
    ∧ (let due := columnsHeld x = false ∧ jobRuns x = true ∧ x.tick.phase = .run ∧ x.kv.phaseTick < tickOf x + 1
        ∧ (∀ e ∈ x.cores, e.2.participating = true → e.2.tickEnd = true ∨ e.2.run ≠ .running)
        ∧ (∀ e ∈ x.rows, (e.2.kvq = [] ∨ 64 ≤ e.2.kvReplies.length) ∧ e.2.kvTaken = none)
      (due → acted none (fun z => kvPhaseFor s.now z (tickOf x + 1)) (exec (.kvPhase st) s))
      ∧ (¬ due → exec (.kvPhase st) s = .next s))


/-- The rows RD, WR, WRM and ATOM as packets (R367, R374, R385, R386, R391 to R394, R405, R461, R470, R530). Such a packet for the stack itself over a link that is up has its receive buffer freed, and carries the marks that its slots gave it. It is answered RETRY_LATER while the router turns requests away, while the stack is
BANKED (its exit beginning), for an address of a core that migrates, before an earlier refusal's back-off has run out, and where the source's window, the total or the table of sources is full; ADDR_INVALID where it breaks R11, R367, R385 or R386; and is accepted as a responder
transaction otherwise. What it asks of the control window is done at once. Any other packet changes nothing else. -/
def Obligations.RequestsOfOtherNodes : Prop :=
  ∀ (s : State) (l : LinkAt) (k0 : Packet),
    let k := (received (s.stack l.st) l.l.val k0).1
    let x := (received (s.stack l.st) l.l.val k0).2
    let request := fun (ty : PktType) (i : Instr) =>
    let is := fun (y : Stack) => exec i s = .next (settleControl (s.setStack l.st y) l.st)
    let hold := fld (reg x rIvtCredit) 48 16
    (arrives (s.stack l.st) l.l.val k0 ty = false → exec i s = .next (settleControl s l.st))
    ∧ (arrives (s.stack l.st) l.l.val k0 ty = true →
      (routerHolds x = true → is (txPacket s.now (noteBackoff s.now x k.src hold) (errPacket x k stRetryLater hold)).2)
      ∧ (routerHolds x = false → x.power.idle = 2 → ∃ b, b ≤ 0xFFFF ∧ is (retryLater s.now (wake s.now x) k b))
      ∧ (routerHolds x = false → x.power.idle ≠ 2 →
        let y := wake s.now x
        let full := fld (reg y rIvtCredit) 0 15 ≤ rspsFrom y k.src ∨ 16384 ≤ (y.router.rsps.filter (fun r => !r.multicast)).length
          ∨ (rspsFrom y k.src = 0 ∧ 4096 ≤ (sources y).length)
        let early := y.router.backoff.any (fun e => decide (e.1 = k.src ∧ s.now < e.2)) = true
        let units := min 0xFFFF (fld (reg y rIvtCredit) 32 16 * (sources y).length)
        (atMigrating y k.addr = true → is (retryLater s.now y k hold))
        ∧ (atMigrating y k.addr = false → early ∨ full → is (retryLater s.now y k units))
        ∧ (atMigrating y k.addr = false → ¬ early → ¬ full → requestBad y k = true → is (txPacket s.now y (errPacket y k stAddrInvalid 0)).2)
        ∧ (atMigrating y k.addr = false → ¬ early → ¬ full → requestBad y k = false → is (openRsp y k l.l.val false))))
    request .rd (.rd l k0) ∧ request .wr (.wr l k0) ∧ request .wrm (.wrm l k0) ∧ request .atom (.atomPacket l k0)

/-- The rows RD_RSP, WR_ACK, ATOM_RSP, ERR_RSP, REQ_TIMEOUT and TAG_REUSE (R228, R389, R390, R393, R398, R405). A response that arrives for an open transaction frees its tag and answers its request: with the line, as acknowledged, with the old value, or with the status
of the error. RETRY_LATER keeps the tag and makes the transaction wait for its back-off of units of 8 ns. A response for a freed tag, or in a base non-transit reset, is discarded. A request that times out is answered NODE_LOST, raises IVT_TIMEOUT and keeps its tag taken until
TAG_REUSE frees it; a multicast that times out counts every uncovered member as dropped. -/
def Obligations.ResponsesEndTransactions : Prop :=
  ∀ (s : State),
    (∀ (l : LinkAt) (k0 : Packet),
      let k := (received (s.stack l.st) l.l.val k0).1
      let x := (received (s.stack l.st) l.l.val k0).2
      let part := (s.stack l.st).part
      let response := fun (ty : PktType) (i : Instr) (a : PartAnswer) =>
      (arrives (s.stack l.st) l.l.val k0 ty = false → exec i s = .next (settleJob s part))
      ∧ (arrives (s.stack l.st) l.l.val k0 ty = true →
        (columnsHeld x = true ∨ openTag x k.tag = none → exec i s = .next (settleJob (s.setStack l.st x) part))
        ∧ (∀ t, columnsHeld x = false → openTag x k.tag = some t →
          (ty ≠ .errRsp ∨ k.status ≠ stRetryLater → exec i s = .next (settleJob (s.setStack l.st
            (answerCore { x with router := { x.router with tags := tdel x.router.tags k.tag } } t.for_.core t.for_.req t.for_.sub a)) part))
          ∧ (ty = .errRsp → k.status = stRetryLater → exec i s = .next (settleJob (s.setStack l.st { x with router := { x.router with
              tags := tput x.router.tags k.tag { t with state := .refused (s.now + k.backoff * 20) } } }) part))))
      response .rdRsp (.rdRsp l k0) (.line (packetWriteLine k)) ∧ response .wrAck (.wrAck l k0) .ack
      ∧ response .atomRsp (.atomRsp l k0) (.old (word64At k.data 0) (k.poison.getLsbD 0)) ∧ response .errRsp (.errRsp l k0) (.error k.status))
    ∧ (∀ (st : StackIx) (tag : BitVec 14),
      let x := s.stack st
      (x.router.mcs.any (fun m => decide (m.tag = tag.toNat)) = true →
        exec (.reqTimeout st tag) s = .next (onMember s st (fun _ => mcCover x tag.toNat 0 255 true)))
      ∧ (∀ t, x.router.mcs.any (fun m => decide (m.tag = tag.toNat)) = false → openTag x tag.toNat = some t →
        exec (.reqTimeout st tag) s = .next (onMember s st (fun _ => raise (answerCore { x with router := { x.router with
          tags := tput x.router.tags tag.toNat { t with state := .timedOut s.now } } } t.for_.core t.for_.req t.for_.sub (.error stNodeLost))
          { source := fIvtTimeout, addr := haRouter })))
      ∧ (∀ t w, tfind x.router.tags tag.toNat = some t → t.state = .timedOut w →
        exec (.tagReuse st tag) s = .next (s.setStack st { x with router := { x.router with tags := tdel x.router.tags tag.toNat } }))
      ∧ (tfind x.router.tags tag.toNat = none → exec (.tagReuse st tag) s = .next s))

/-- The rows DATA_SLOT_RECEIVE, ACK, NAK and CREDIT on a link that is up (R373 to R379, R382). The awaited data slot, where its bits pass, is taken and acknowledged and the next one awaited; in error it is refused with NAK until its fourth failure, when a payload slot is
accepted with its word poisoned and IVT_LINK_FAULT and a header slot takes the link down; a slot out of order is discarded, its codewords counted; one with the number of a link-control slot changes nothing. A slot of TYPE 0 is acknowledged and carries nothing (log 101). A beat of a bridge passes with the parity of its words. A header slot without payload is a packet received; after the last
payload slot of a packet it is received with its payload and its marks. ACK takes every slot up to the one named out of the retry buffer. NAK has the slots from the one named on sent again, none a fifth time, counts them in REPLAYS and raises IVT_REPLAY. CREDIT gives back the slots freed since the last of
its class, modulo 2^16, and what waits for credit is sent. On a link that is down nothing changes. -/
def Obligations.LinkSlotsAndSymbols : Prop :=
  ∀ (s : State) (l : LinkAt),
    let x := s.stack l.st
    let n := l.l.val
    let k := x.link n
    let is := fun (i : Instr) (y : Stack) => exec i s = .next (s.setStack l.st y)
    let at_ := fun (i : Instr) (y : Stack) => exec i s = .next (onMember s l.st (fun _ => y))
    (linkUp x n = true →
      (∀ w : WireSlot,
        let b := (slotBits x n w).1
        let good := (slotBits x n w).2.1
        let signal := (slotBits x n w).2.2.1
        let y := (slotBits x n w).2.2.2
        let quiet := tget (fun _ => 0) x.inject (checkerKey (haLink n) 0) = 0
        (w.n % 48 = 47 → at_ (.dataSlotReceive l w) x)
        ∧ (w.seq.toNat ≠ k.rxSeq → w.n % 48 ≠ 47 → at_ (.dataSlotReceive l w) y)
        ∧ (w.seq.toNat = k.rxSeq → w.n % 48 ≠ 47 → good = true → quiet →
          at_ (.dataSlotReceive l w) (acceptSlot y n w.n b false signal))
        ∧ (w.seq.toNat = k.rxSeq → w.n % 48 ≠ 47 → good = false → quiet →
          (k.fails < 3 → at_ (.dataSlotReceive l w) (sendSymbol (y.setLink n { y.link n with fails := k.fails + 1, rxSlot := w.n + 1 }) n 3 (bv 64 k.rxSeq)))
          ∧ (3 ≤ k.fails → k.asm = none → at_ (.dataSlotReceive l w) (linkLost s.now y n))
          ∧ (3 ≤ k.fails → k.asm ≠ none →
            let z := raise (setReg y (rIvtLinkCnt n) (addSat (reg y (rIvtLinkCnt n)) 16 16 1)) { source := fIvtLinkFault, addr := haLink n }
            at_ (.dataSlotReceive l w) (acceptSlot z n w.n b true signal))))
      ∧ (4 ≤ n → ∀ b p q m seq, (slotBits x n ⟨m, seq, .beat b p q⟩) = (b, decide (slotParity b = p), some q, x))
      ∧ (∀ m b signal, let next := { k with rxSeq := (k.rxSeq + 1) % 2 ^ 24, rxSlot := m + 1, fails := 0 }
        (∀ h, k.asm = none → headerPacket (slotWords b) = some h → fld ((slotWords b).getD 0 0) 59 5 ≠ 0 → fld ((slotWords b).getD 0 0) 32 10 = 0 →
          acceptSlot x n m b false signal = sendSymbol (x.setLink n { next with inbox := k.inbox ++ [h] }) n 2 (bv 64 k.rxSeq))
        ∧ (k.asm = none → fld ((slotWords b).getD 0 0) 59 5 = 0 → acceptSlot x n m b false signal = sendSymbol (x.setLink n next) n 2 (bv 64 k.rxSeq))
        ∧ (∀ a h, k.asm = some a → a.head = some h → signal = none ∨ signal = some (h.poison.getLsbD a.got) → a.left ≤ 32 * (a.got + 1) →
          acceptSlot x n m b false signal = sendSymbol (x.setLink n { next with
            asm := none, inbox := k.inbox ++ [{ h with poison := h.poison ||| a.marks, data := (a.body ++ natBytes 32 b.toNat).take a.left }] }) n 2 (bv 64 k.rxSeq)))
      ∧ (∀ q : BitVec 24,
        let j := k.retry.findIdx (fun e => e.seq = q.toNat)
        let again := (k.retry.drop j).takeWhile (fun e => decide (e.sends < 4))
        (k.retry.any (fun e => decide (e.seq = q.toNat)) = true →
          is (.ack l q) (drainLink s.now (x.setLink n { k with retry := k.retry.drop (j + 1), lastAck := s.now }) n)
          ∧ (again = [] → exec (.nak l q) s = .next s)
          ∧ (again ≠ [] →
            let y := again.foldl (fun (s : Stack) e => dataSlot { s with sent := .slot n e.seq e.bits :: s.sent } n e.bits e.parity) (x.setLink n { k with
              retry := k.retry.take j ++ again.map (fun e => { e with at_ := s.now, sends := e.sends + 1 }) ++ k.retry.drop (j + again.length) })
            is (.nak l q) (raise (setReg y (rIvtLink n) (addSat (reg y (rIvtLink n)) 32 32 again.length)) { source := fIvtReplay, addr := haLink n })))
        ∧ (k.retry.any (fun e => decide (e.seq = q.toNat)) = false → exec (.ack l q) s = .next s ∧ exec (.nak l q) s = .next s))
      ∧ (∀ (c : Fin 4) (freed : BitVec 16),
        is (.credit l c freed) (drainLink s.now (x.setLink n { k with
          credits := k.credits.set c.val (k.credits.getD c.val 0 + (freed.toNat + 65536 - k.seen.getD c.val 0) % 65536)
          seen := k.seen.set c.val freed.toNat }) n)))
    ∧ (linkUp x n = false → ∀ w q (c : Fin 4) f, at_ (.dataSlotReceive l w) x ∧ exec (.ack l q) s = .next s ∧ exec (.nak l q) s = .next s
        ∧ exec (.credit l c f) s = .next s)

/-- The rows LINK_DOWN, LINK_LOCK_LOSS, LINK_ACK_TIMEOUT, NODE_DOWN and PACKET_FORWARD (R365, R368 to R370, R374, R383, R403, R404). A link that runs is lost by each of the first two, and by the third while data slots are outstanding; one that does not run changes nothing, so a second
LINK_DOWN has no effect. A link lost with nothing on it and no known partner sends LINK_DOWN, reads DOWN, is counted, raises IVT_LINK_DOWN and forgets what it held. NODE_DOWN for the stack itself loses every node that it names. A packet for another node leaves with HOPS lowered by one, and stands in the receive buffer of its link until it leaves; with HOPS 0 it is
dropped, counted and raises IVT_HOPS; where no link can carry it R369 says what becomes of it. -/
def Obligations.LinksAndNodesAreLost : Prop :=
  ∀ (s : State) (l : LinkAt),
    let x := s.stack l.st
    let n := l.l.val
    (linkRuns x n = true → exec (.linkDown l) s = .next (onMember s l.st (fun _ => linkLost s.now x n))
      ∧ exec (.linkLockLoss l) s = .next (onMember s l.st (fun _ => linkLost s.now x n)))
    ∧ (linkRuns x n = false → exec (.linkDown l) s = .next (onMember s l.st (fun _ => x)) ∧ exec (.linkLockLoss l) s = .next (onMember s l.st (fun _ => x)))
    ∧ ((x.link n).retry ≠ [] → exec (.linkAckTimeout l) s = .next (onMember s l.st (fun _ => linkLost s.now x n)))
    ∧ ((x.link n).retry = [] → exec (.linkAckTimeout l) s = .next (onMember s l.st (fun _ => x)))
    ∧ (let z := sendLinkDown s.now x n
      let y := raise (setReg (setReg z (rIvtLink n) (setFld (reg x (rIvtLink n)) 0 3 3)) (rIvtLinkCnt n)
          (addSat (reg (setReg x (rIvtLink n) (setFld (reg x (rIvtLink n)) 0 3 3)) (rIvtLinkCnt n)) 0 16 1)) { source := fIvtLinkDown, addr := haLink n }
      let w := (forgetFrom y n).setLink n Link.reset
      linkRuns x n = true → x.router.tags = [] → (x.link n).waiting = [] → (x.link n).branch = [] → partnerOf w n = none →
        linkLost s.now x n = w)
    ∧ (∀ k0 : Packet, arrives x n k0 .nodeDown = true →
      exec (.nodeDown l k0) s = .next (settleJob (s.setStack l.st
        ((downNodes (received x n k0).1).foldl (nodeDown s.now) (received x n k0).2)) x.part))
    ∧ (∀ k0 : Packet, k0.ty ≠ .mcWr → linkUp x n = true → k0.dst ≠ nodeId x → nodeId x ≠ 0xFFFF →
      let k := (takeReceived x n k0).1
      let y := (takeReceived x n k0).2
      let z := freeSlots y n k
      let k' := { k with hops := k.hops - 1 }
      (k.hops = 0 → exec (.packetForward l k0) s = .next (s.setStack l.st
        (raise (setReg z rIvtHopsCnt (addSat (reg y rIvtHopsCnt) 0 32 1)) { source := fIvtHops, addr := haRouter })))
      ∧ (k.hops ≠ 0 → ∀ m, egressOf y k.dst = .link m →
        (linkUp y m = true → exec (.packetForward l k0) s = .next (s.setStack l.st (sendWaiting s.now y m ⟨k', n, none⟩)))
        ∧ (linkUp y m = false → exec (.packetForward l k0) s = .next (s.setStack l.st (undeliverable s.now z n (.link m) k'))))
      ∧ (k.hops ≠ 0 → egressOf y k.dst = .unreachable →
        exec (.packetForward l k0) s = .next (s.setStack l.st (undeliverable s.now z n .unreachable k'))))

/-- The rows MC_WR, MC_ACK, MC_DROP, MC_TIMEOUT, COLL_UP and COLL_DOWN (R395 to R398, R400 to R402, R405). A copy is replicated on the links of its group, unless the stack is a member whose receive buffer is full: then it waits. An acknowledgement covers one member, a drop a range of
members, as missing unless the status is OK. The oldest copy of a branch that is held too long is dropped and its range told to the source. A partial from a child or a result from the parent for a joined domain is taken by the collective engine. In a base non-transit reset answers are
discarded and the collective engine takes nothing. -/
def Obligations.MulticastsAndCollectives : Prop :=
  ∀ (s : State) (l : LinkAt) (k0 : Packet),
    let x := s.stack l.st
    let n := l.l.val
    let k := (received x n k0).1
    let y := (received x n k0).2
    (k0.ty = .mcWr → linkUp x n = true → nodeId x ≠ 0xFFFF → k0.dst < 4096 →
      (groupLocal x k0.dst = false ∨ (x.router.rsps.filter (fun r => r.multicast)).length < 64 →
        exec (.mcWr l k0) s = .next (s.setStack l.st (mcReplicate s.now y k n)))
      ∧ (groupLocal x k0.dst = true → 64 ≤ (x.router.rsps.filter (fun r => r.multicast)).length → exec (.mcWr l k0) s = .next s))
    ∧ (arrives x n k0 .mcAck = true → exec (.mcAck l k0) s = .next (settleJob (s.setStack l.st
      (if columnsHeld y then y else mcCover y k.tag k.mlo k.mlo (decide (k.status ≠ stOk)))) x.part))
    ∧ (arrives x n k0 .mcDrop = true → exec (.mcDrop l k0) s = .next (settleJob (s.setStack l.st
      (if columnsHeld y then y else mcCover y k.tag k.mlo k.mhi true)) x.part))
    ∧ ((x.link n).branch = [] → exec (.mcTimeout l) s = .next s)
    ∧ (∀ c t rest e, (x.link n).branch = (c, t) :: rest → (groupEgress x c.dst).find? (fun e => e.1 = n) = some e →
      exec (.mcTimeout l) s = .next (s.setStack l.st (mcDropTo s.now (x.setLink n { x.link n with branch := rest }) c e.2.1 e.2.2)))
    ∧ (columnsHeld x = true → exec (.collUp l k0) s = .next s ∧ exec (.collDown l k0) s = .next s)
    ∧ (columnsHeld x = false → arrives x n k0 .collUp = true → exec (.collUp l k0) s = .next (s.setStack l.st (collUpArrive s.now y k)))
    ∧ (columnsHeld x = false → arrives x n k0 .collDown = true → exec (.collDown l k0) s = .next (s.setStack l.st (collDownArrive s.now y k)))
    ∧ (∀ e c t, y.tick.joined = true → k.domain = domainId y → y.tick.phase ≠ .idle → (treeKids y).find? (fun c => decide (memberNode y c = k.src)) = some c →
      y.tick.entries[k.entry]? = some e → t = fullTick y k.tick → findRun y k.entry t = none → k.addr < collN e →
      collUpArrive s.now y k = collAdvance s.now (putRun y { newRun k.entry t with got := [(c, k.addr, packetLine k)] }) e k.entry t)
    ∧ (∀ c, y.tick.joined = true → k.domain = domainId y → y.tick.phase ≠ .idle → (treeKids y).find? (fun c => decide (memberNode y c = k.src)) = some c →
      y.tick.entries[k.entry]? = none → collUpArrive s.now y k = raise y { source := fCollMismatch, addr := haCollective })

/-- The rows REGISTER_WRITE, IVT_LOST_WRITE and IVT_ROUTE_WRITE at a stack with power (R12, R14, R15, R404, R416, R417, R524, R591). A field that is RW takes the written value where its description allows it and stays otherwise; a bit that is W1C is cleared by a 1, unless the hardware has set it in the same cycle, and stays under a 0; every
bit in no such field stays; nothing else of the stack changes, but for FAULT_L under a new FLT_CFG. So IVT_ROUTEn takes the written word and a 1 written to IVT_LOSTn clears its bit in the same way. -/
def Obligations.RegisterWritesChangeTheirFields : Prop :=
  ∀ (s : State) (st : StackIx), (s.stack st).boot ≠ .off →
    let x := s.stack st
    (∀ (off : BitVec 24) (v : Word), ∃ w : Word,
      let o := off.toNat
      exec (.registerWrite st off v) s = .next (let t := s.setStack st (setReg x o w); if o = rFltCfg then updateFaultL t else t)
      ∧ (∀ lo n least most, Access12.rw lo n least most ∈ regFields o →
        fld w lo n = if least ≤ fld v lo n ∧ fld v lo n ≤ most then fld v lo n else fld (reg x o) lo n)
      ∧ (∀ lo n b, Access12.w1c lo n ∈ regFields o → lo ≤ b → b < lo + n → w.getLsbD b = ((reg x o).getLsbD b && !(v.getLsbD b && (tget resetValue (s.dawn.get st) o).getLsbD b)))
      ∧ (∀ b : Nat, b < 64 → (∀ f ∈ regFields o, match f with | .rw lo n _ _ => b < lo ∨ lo + n ≤ b | .w1c lo n => b < lo ∨ lo + n ≤ b) →
        w.getLsbD b = (reg x o).getLsbD b))
    ∧ (∀ (n : Fin 4096) (v : Word), exec (.ivtRouteWrite st n v) s = .next (s.setStack st (setReg x (rIvtRoute n.val) v)))
    ∧ (∀ (n : Fin 1024) (v : Word), exec (.ivtLostWrite st n v) s = .next (s.setStack st
      (setReg x (rIvtLost n.val) (reg x (rIvtLost n.val) &&& ~~~(v &&& tget resetValue (s.dawn.get st) (rIvtLost n.val))))))

/-- The rows CMD, CMD_ASSEMBLY_TIMEOUT and COMMAND_START (R388, R424, R426 to R429, R461, R529). A command in one segment, addressed to the stack, is answered at once with the first status of R428 that applies, or accepted at the end of the commands held, which ends SIMMER or BANKED. At a port that
holds 64 commands, or in a base non-transit reset, that status is BUSY; for the TAG of an outstanding command of the same issuer it is INVALID_PARAM. A first segment of more joins the at most 16 assemblies, or is answered BUSY. An assembly that times out is discarded and answered TIMEOUT. The
command that starts is the first accepted, and only where the stack is active, no repair of a job boundary before it runs, no command that is not B runs but a RESET_DOMAIN that has begun, beside a RESET_DOMAIN, none in its way runs (a disable that has begun is not in the way of PARTITION_DISABLE and PARTITION_ENABLE), and fewer than four B commands run where it is B itself. A reply carries the tick of the partition that the command names. -/
def Obligations.CommandsArriveAndStart : Prop :=
  ∀ (s : State),
    (∀ (l : LinkAt) (k0 : Packet), k0.ty = .cmd → linkUp (s.stack l.st) l.l.val = true → k0.dst = nodeId (s.stack l.st) → isProbe k0 = false → isFetch k0 = false →
      let k := (received (s.stack l.st) l.l.val k0).1
      let x := (received (s.stack l.st) l.l.val k0).2
      let reset := columnsHeld (s.stack l.st)
      let c := cmdOfBytes k.src l.l.val k.tag s.now k.data
      let busy := sendReply s.now x c (replyBytes s.now (arrivalTick x (usedParts s) c) c stBusy [] [] false)
      let more := k.data.length < cmdLength k.data ∧ k.data.length < 65665 ∧ fld (word64At k.data 8) 32 32 ≤ 65536 ∧ reset = false
      let status := arrivalStatus hasChecker x ((usedParts s).map (fun e => e.1)) c (word64At k.data 16) (word64At k.data 24)
        ((List.range 4).any (fun i => decide (word64At k.data (8 * (4 + i)) ≠ 0))) reset
      (k.addr = 0 → ¬ more →
        (∀ e, status = some e → exec (.cmd l k0) s = .next (s.setStack l.st (sendReply s.now x c (replyBytes s.now (arrivalTick x (usedParts s) c) c e [] [] false))))
        ∧ (status = none → exec (.cmd l k0) s = .next (s.setStack l.st (wake s.now { x with port := { x.port with held := x.port.held ++ [c] } }))))
      ∧ (64 ≤ (heldCmds x).length ∨ reset = true → status = some stBusy)
      ∧ ((heldCmds x).length < 64 → reset = false → x.pstate ≠ .disabling → x.power.coolantHold = false →
        (heldCmds x).any (fun h => decide (h.ref = c.ref)) = true → status = some stInvalidParam)
      ∧ (status = none → (heldCmds x).length < 64 ∧ reset = false ∧ (∀ h ∈ heldCmds x, h.ref ≠ c.ref) ∧ (opInfo c.op).isSome)
      ∧ (k.addr = 0 → more → (16 ≤ x.port.asm.length → exec (.cmd l k0) s = .next (s.setStack l.st busy))
        ∧ (x.port.asm.length < 16 → exec (.cmd l k0) s = .next (s.setStack l.st
          { x with port := { x.port with asm := x.port.asm ++ [⟨k.src, k.tag, s.now, l.l.val, [(0, k.data)]⟩] } }))))
    ∧ (∀ (st : StackIx) (src : BitVec 16) (tag : BitVec 32) a,
      let x := s.stack st
      let find := x.port.asm.find? (fun a => decide (a.src = src.toNat) && decide ((word64At (asmBytes a) 0 >>> 32).setWidth 32 = tag))
      (find = some a →
        let c := cmdOfBytes a.src a.link a.ptag a.at_ ((asmBytes a).take 128)
        let y := { x with port := { x.port with asm := x.port.asm.filter (fun z => decide (z ≠ a)) } }
        exec (.cmdAssemblyTimeout st src tag) s = .next (s.setStack st (sendReply s.now y c (replyBytes s.now (arrivalTick y (usedParts s) c) c stTimeout [] [] false))))
      ∧ (find = none → exec (.cmdAssemblyTimeout st src tag) s = .next s))
    ∧ (∀ (st : StackIx) (r : CmdRef) (c : Cmd) (rest : List Cmd), (s.stack st).port.held = c :: rest →
      let x := s.stack st
      let may := c.ref = r ∧ x.power.idle = 0 ∧ x.mend.since.any (fun t => decide (t ≤ c.at_)) = false ∧ x.port.started.any (fun b => !letsBeside b c) = false
        ∧ x.port.started.any (fun b => mustWait b c) = false
        ∧ (isB c = true → (x.port.started.filter isB).length < 4)
      (may → exec (.commandStart st r) s = .next (s.setStack st { x with port := { x.port with held := rest, started := x.port.started ++ [c] } }))
      ∧ (¬ may → exec (.commandStart st r) s = .next s))
    ∧ (∀ (st : StackIx) (r : CmdRef), (s.stack st).port.held = [] → exec (.commandStart st r) s = .next s)

/-- The rows IDENTIFY, GET_STATE, RESET_DOMAIN, QUIESCE, RESET_COMPLETE, BASE_RESET_END, WATCHDOG_EXPIRY, QUIESCE_LINK_STOP, ATTN_L, QUIESCE_ABORT_TIMEOUT and LINK_RETRAIN (Table 13.4, R13, R383, R433, R434, R499 to R502, R505, R506, R572). A started IDENTIFY or GET_STATE is answered OK with the results of Table 13.4. A started RESET_DOMAIN is answered BUSY where a reset that runs
does not let it start, STATE where a job is admitted or running and FORCE is 0; otherwise, the job ended under FORCE, domains 1 to 3 are answered OK before the reset is asserted, and 4 and 5 wait for its end; a command that waited for the end of the reset taken over is answered ABORTED. QUIESCE makes each target that is not QUIESCED enter it, and is answered at
once where one refuses, STATE where one was, or had no power. RESET_COMPLETE of the domain that is in reset ends it, of another changes nothing. WATCHDOG_EXPIRY records the fault and asserts a base non-transit reset; BASE_RESET_END ends one, the column settings of the training record restored. ATTN_L sends REMOVAL_REQUEST and quiesces the module once; 60 s later jobs that still run are aborted. Once drained a stack sends NODE_DOWN and LINK_DOWN and its links are down. A link that is down trains again where its partner is there and no base transit reset keeps it; a bridge that goes onto its spare group gives a new training record. -/
def Obligations.AdminCommandsAndResets : Prop :=
  ∀ (s : State) (st : StackIx),
    let x := s.stack st
    (∀ (r : CmdRef) (k : Cmd), CmdStarted s st r 0x0001 k → exec (.identify st r) s = .next (s.setStack st (reply s.now x k stOk
      [reg x rIdPosition, reg x rIdGeometry, reg x rIvtNode, Config.serial, bv 64 (fld (reg x rSecFw) 0 7), bv 64 (fld (reg x rSecLicence) 0 5)] [])))
    ∧ (∀ (r : CmdRef) (k : Cmd), CmdStarted s st r 0x0002 k → exec (.getState st r) s = .next (s.setStack st (reply s.now x k stOk
      [bv 64 (bootCode x.boot), bv 64 (pstateCode x.pstate * 256 + x.part), tckStatus x, reg x rTckNumber, bv 64 x.power.idle, bv 64 (recordsAbove x)] [])))
    ∧ (∀ (r : CmdRef) (k : Cmd), CmdStarted s st r 0x0003 k →
      let d := (k.arg 0).toNat
      let forced := k.flags % 2 = 1
      let tick := targetTick s st k
      let t := if forced then abortPart (beginAll s st k) st else beginAll s st k
      let first := abandonReset (replyAll t st { k with acted := some tick } stOk [] []) st
      (resetLets x d = false → exec (.resetDomain st r) s = .next (replyAll s st k stBusy [] []))
      ∧ (resetLets x d = true → ¬ forced → jobHeld x = true → exec (.resetDomain st r) s = .next (replyAll s st k stState [] []))
      ∧ (resetLets x d = true → forced ∨ jobHeld x = false →
        (d = 1 → exec (.resetDomain st r) s = .next (startStack first st 1))
        ∧ (d = 2 → exec (.resetDomain st r) s = .next (startBase first st 2))
        ∧ (d = 3 → exec (.resetDomain st r) s = .next (startReset first st 3 k.core r))
        ∧ (d = 4 → exec (.resetDomain st r) s = .next (startReset (abandonReset t st) st 4 k.core r))
        ∧ (d = 5 → exec (.resetDomain st r) s = .next (startReset (abandonReset t st) st 5 k.core r))))
    ∧ ((∀ rr r k, x.resetting = some rr → rr.cmd = some r → startedCmd x r = some k → abandonReset s st = s.setStack st (answerCmd s.now x k stAborted))
      ∧ (x.resetting = none → abandonReset s st = s))
    ∧ (∀ (r : CmdRef) (k : Cmd), CmdStarted s st r 0x0004 k →
      let ts := if k.tkind = 3 then allStacks else if k.tkind = 2 then partAll s k.part else [st]
      let status := fun i => if gate s st k i ≠ stOk then gate s st k i else if (s.stack i).boot = .off ∨ (s.stack i).boot = .quiesced then stState else stOk
      let t := (ts.filter (fun i => status i = stOk)).foldl (quiesceAt (decide (k.flags % 2 = 1)) (decide (k.tkind = 3))) (beginAll s st k)
      ((∀ i ∈ ts, status i = stOk) → exec (.quiesce st r) s = .next (finishQuiesce t))
      ∧ (∀ e, (ts.map status).find? (fun n => n ≠ stOk) = some e → exec (.quiesce st r) s = .next
          (finishQuiesce (replyAll t st { k with acted := some (targetTick s st k) } e [] []))))
    ∧ (∀ (all : Bool), x.boot ≠ .off → x.quiesce = none → x.pstate ≠ .admitted → quiesceAt false all s st =
      { s.setStack st { x with boot := .quiesced, quiesce := some { abort := false, stage := 0, all := all } } with mc := { s.mc with blue := 1 } })
    ∧ (∀ (d : ResetDomain),
      (x.resetting = none → exec (.resetComplete st d) s = .next s)
      ∧ (∀ rr, x.resetting = some rr → rr.domain = 2 → exec (.resetComplete st d) s = .next s)
      ∧ (∀ rr, x.resetting = some rr → rr.domain = 1 → exec (.resetComplete st .stack) s = .next (s.setStack st
          (let y := { x with resetting := none, bring := { x.bring with since := s.now, stateAt := s.now } }
           match rr.cmd.bind (startedCmd y) with | some k => answerCmd s.now y k stOk | none => y)))
      ∧ (∀ rr r k, x.resetting = some rr → rr.domain = 4 → rr.cmd = some r → startedCmd x r = some k →
        exec (.resetComplete st .computeDie) s = .next (s.setStack st (answerCmd s.now { x with resetting := none } k stOk)))
      ∧ (∀ rr r k (c : CoreIx), x.resetting = some rr → rr.domain = 5 → rr.cmd = some r → startedCmd x r = some k →
        (rr.core = c.val → exec (.resetComplete st (.core c)) s = .next (s.setStack st (answerCmd s.now { x with resetting := none } k stOk)))
        ∧ (rr.core ≠ c.val → exec (.resetComplete st (.core c)) s = .next s))
      ∧ (∀ rr, x.resetting = some rr → rr.domain = 3 → rr.cmd = none → exec (.resetComplete st .transit) s = .next (s.setStack st
          (transitBack s.now (partnerThere s { x with resetting := none }) { x with resetting := none } (rr.runs.map (fun e => e.1))))))
    ∧ (x.boot ≠ .off → exec (.watchdogExpiry st) s = .next
      (startBase (s.setStack st (raise x { source := fWatchdog, addr := haController })) st 6))
    ∧ (x.boot = .off → exec (.watchdogExpiry st) s = .next s)
    ∧ (x.resetting = none → exec (.baseResetEnd st) s = .next s)
    ∧ (∀ rr, x.resetting = some rr →
      (rr.domain ≠ 2 ∨ x.boot ≠ .rom → exec (.baseResetEnd st) s = .next s)
      ∧ (rr.domain = 2 → x.boot = .rom → rr.cmd = none → s.mc.activating ≠ some st.val →
        let t := onMember (restoreColumns s st) st (baseResetEnd s.now)
        exec (.baseResetEnd st) s = .next (if (t.stack st).boot = .ready then enterReady t st else t)))
    ∧ (s.mc.supply = false ∨ s.mc.attn ≠ none → exec .attnL s = .next s)
    ∧ (s.mc.supply = true → s.mc.attn = none →
      let t := sendEvent s .removalRequest
      (s.mc.pwrGood = false → exec .attnL s = .next t)
      ∧ (s.mc.pwrGood = true → exec .attnL s = .next
        (quiesceOver (finishQuiesce (allStacks.foldl (quiesceAt false true) { t with mc := { t.mc with attn := some s.now } })))))
    ∧ (s.mc.attn = none → exec .quiesceAbortTimeout s = .next s)
    ∧ (s.mc.attn ≠ none → exec .quiesceAbortTimeout s = .next
      (finishQuiesce (allStacks.foldl (fun t i => if (t.stack i).quiesce.isSome then quiesceAt true true t i else t) s)))
    ∧ (x.quiesce = none → exec (.quiesceLinkStop st) s = .next s)
    ∧ (∀ q, x.quiesce = some q →
      (q.stage ≠ 1 → exec (.quiesceLinkStop st) s = .next s)
      ∧ (q.stage = 1 →
        let y := (([0, 1, 2, 3] : List Nat).filter (linkUp x)).foldl (fun y l =>
          sendOn s.now y l { ty := .nodeDown, src := nodeId y, dst := (partnerOf y l).getD 0xFFFF, data := moduleIds y }) x
        let z := ((List.range 8).filter (linkRuns y)).foldl (fun y l =>
          (dropWaiting (setReg (sendLinkDown s.now y l) (rIvtLink l) (setFld (reg y (rIvtLink l)) 0 3 3)) l).setLink l Link.reset) y
        let t := s.setStack st { z with quiesce := some { q with stage := 2 } }
        let on := allStacks.filter (fun i => decide ((t.stack i).boot ≠ .off))
        let qs := on.filterMap (fun i => (t.stack i).quiesce)
        let all := qs.length = on.length ∧ qs.all (fun q => decide (q.stage = 2)) = true ∧ qs.any (fun q => q.all) = true
        (¬ (on ≠ [] ∧ all) → exec (.quiesceLinkStop st) s = .next t)
        ∧ (on ≠ [] → all → exec (.quiesceLinkStop st) s = .next (let u := moduleOff t; { u with mc := { u.mc with blue := 1, input := 0, lost := false } }))))
    ∧ (∀ l : LinkIx,
      let stopped := ∃ q, x.quiesce = some q ∧ 2 ≤ q.stage
      let may := x.boot ≠ .off ∧ linkState x l.val = 3 ∧ ¬ stopped ∧ partnerThere s x l.val = true ∧ transitHeld x = false
      let was := retrained x l.val
      let new := spareGroup s.now l.val was
      let t := s.setStack st (trainLink s.now x l.val new)
      (may → exec (.linkRetrain ⟨st, l⟩) s = .next (if new.align = was.align then t else writeTraining t st))
      ∧ (l.val < 4 → new = was)
      ∧ (¬ may → exec (.linkRetrain ⟨st, l⟩) s = .next s))

/-- The rows of the memory commands, started (Table 13.5, R236, R240, R245, R247, R270, R271, R280, R285 to R288, R290, R293, R431, R594). WRITE, READ, FILL and COPY over a line that is rejected are answered ADDR_INVALID and change no memory; FILL over the scratch of a core that is not HALTED is answered STATE first.
Otherwise the command begins with its shares of lines, one per vault, row bank or core. Presented again, each share asks for its next read and its next write, by one access of stack firmware in the queue of the vault controller that its column has, where none of the command waits there: WRITE stores its bytes, FILL its 32-byte pattern in every
word, COPY each line that it has read, with its marks. Once all are performed WRITE, FILL and COPY are answered OK. READ is answered with the bytes, the words that hold a byte of a poisoned word as zeros: with none OK, with some POISONED, the first and their number, after
one bite. In a base non-transit reset none of it happens. GET_REGION_TAG is answered with 336 bytes. SCRUB and SET_REGION_TAG with lines to do begin, and go on by one IN_TILE_ROW_OP_DONE per line, once its row command is granted for 100 cycles, or 180 with a write back, its wait counted from the first time that it was presented; with none they end at once. REPAIR_COMMIT puts a burn in order for each soft entry with room and begins, or ends at once with none. -/
def Obligations.MemoryCommands : Prop :=
  ∀ (s : State) (st : StackIx) (r : CmdRef) (k : Cmd),
    let x := s.stack st
    let a := (k.arg 0).toNat
    let b := (k.arg 1).toNat
    let n := (k.arg 2).toNat
    let end_ := fun (i : Instr) (y : Stack) => exec i s = .next (s.setStack st y)
    let here := fun (op : Nat) (y : Stack) => startedCmd x r = some k ∧ k.op = op ∧ columnsHeld y = false
    let refuse := fun (i : Instr) (y : Stack) (status : Nat) => end_ i (answerCmd s.now y k status)
    let begins := fun (i : Instr) (y : Stack) (reads writes : Tbl (Nat × Nat)) => end_ i (beginBulk (beginCmd y r) r reads writes)
    let goes := fun (i : Instr) (y : Stack) (data : BulkRun → Nat → Option (Line × BitVec 512 × Option Nat)) (fin : BulkRun → Stack → Stack) =>
      ∀ q, bulkOf y r = some q → (bulkOver q = false → end_ i (bulkStep s.now y q data))
        ∧ (bulkOver q = true → end_ i (fin q { y with bulk := y.bulk.filter (fun z => decide (z.id ≠ q.id)) }))
    (here 0x0100 x →
      (bulkOf x r = none → rangeRejected x a k.data.length .write = true → refuse (.write st r) x stAddrInvalid)
      ∧ (bulkOf x r = none → rangeRejected x a k.data.length .write = false → begins (.write st r) x [] (rangeShares a k.data.length))
      ∧ goes (.write st r) x (fun _ l => some ((sliceLine a k.data l).1, (sliceLine a k.data l).2, none)) (fun _ y => answerCmd s.now y k stOk))
    ∧ (∀ u : Upsets, let z := applyUpsets x u
      here 0x0101 z →
      (bulkOf z r = none → rangeRejected z a b .read = true → refuse (.read st ⟨r, u⟩) z stAddrInvalid)
      ∧ (bulkOf z r = none → rangeRejected z a b .read = false → begins (.read st ⟨r, u⟩) z (rangeShares a b) [])
      ∧ goes (.read st ⟨r, u⟩) z (fun _ _ => none) (fun q y =>
        let bytes := ((bulkBytes q (rangeLines a b)).drop (a % 512)).take b
        let bad := poisonedWords bytes
        let data := bytes.zipIdx.map (fun e => if bad.contains (e.2 / 32) then 0 else e.1.1)
        match bad with
        | [] => replyAt s.now (actTick y) y k stOk [] data q.unchecked
        | w :: rest =>
          let y := biteUnit y haController biteReply
          replyAt s.now (actTick y) y k stPoisoned [0, 0, 0, 0, 0, 0, bv 64 w, bv 64 (rest.length + 1)] data q.unchecked))
    ∧ (here 0x0102 x →
      let busy := (rangeLines a b).any (busyScratch x)
      (bulkOf x r = none → busy = true → refuse (.fill st r) x stState)
      ∧ (bulkOf x r = none → busy = false → rangeRejected x a b .write = true → refuse (.fill st r) x stAddrInvalid)
      ∧ (bulkOf x r = none → busy = false → rangeRejected x a b .write = false → begins (.fill st r) x [] (rangeShares a b))
      ∧ goes (.fill st r) x (fun _ _ => some (lineOfBytes ((List.replicate 16 (k.data.take 32)).flatten) 0, fullMask, none))
        (fun _ y => reply s.now y k stOk [bv 64 ((s.now - k.at_) * 2 / 5)] []))
    ∧ (∀ u : Upsets, let z := applyUpsets x u
      here 0x0103 z →
      let bad := rangeRejected z a n .read = true ∨ rangeRejected z b n .write = true
      (bulkOf z r = none → bad → refuse (.copy st ⟨r, u⟩) z stAddrInvalid)
      ∧ (bulkOf z r = none → ¬ bad → begins (.copy st ⟨r, u⟩) z (rangeShares a n) (rangeShares b n))
      ∧ goes (.copy st ⟨r, u⟩) z (fun q l => (q.lines.find? (fun e => e.1 = l - b + a)).map (fun e => (e.2, fullMask, some e.1)))
        (fun _ y => answerCmd s.now y k stOk))
    ∧ (startedCmd x r = some k → columnsHeld x = true →
      (k.op = 0x0100 → exec (.write st r) s = .next s) ∧ (k.op = 0x0102 → exec (.fill st r) s = .next s))
    ∧ (∀ (y : Stack) (id i lo stop p : Nat) (q : BulkRun), y.bulk.find? (fun z => z.id = id) = some q → routerSite y lo = some p →
      let ask := fun (w : Bool) (l : Line) (m : BitVec 512) => { y.setVault p { y.vault p with firm := (y.vault p).firm ++ [bulkAccess s.now y q w lo l m] } with nextId := y.nextId + 1 }
      let left := fun (t : Tbl (Nat × Nat)) => if lo + 512 < stop then tput t i (lo + 512, stop) else tdel t i
      (tfind q.reads i = some (lo, stop) →
        (bulkWaits y p id false = true → issueRead s.now id y i = y)
        ∧ (bulkWaits y p id false = false →
          issueRead s.now id y i = putBulk (ask false Line.zero 0) { q with reads := left q.reads, asked := q.asked + 1 }))
      ∧ (tfind q.writes i = some (lo, stop) → ∀ data,
        (bulkWaits y p id true = true ∨ data q lo = none → issueWrite s.now id data y i = y)
        ∧ (∀ l m used, bulkWaits y p id true = false → data q lo = some (l, m, used) →
          issueWrite s.now id data y i = putBulk (ask true l m)
            { q with writes := left q.writes, asked := q.asked + 1, lines := q.lines.filter (fun e => decide (some e.1 ≠ used)) })))
    ∧ (CmdStarted s st r 0x0106 k → end_ (.getRegionTag st r) (reply s.now x k stOk []
        ((List.range 168).flatMap (fun v => natBytes 2 (tagsOf x v).toNat))))
    ∧ (CmdStarted s st r 0x0104 k →
      let left := ((List.range 168).map (fun v => (v, vaultSpan a b v))).filter (fun e => decide (e.2.1 < e.2.2))
      (left = [] → end_ (.scrub st r) (finishTiles s.now x (TileRun.of r none [] 0)))
      ∧ (left ≠ [] → end_ (.scrub st r) { beginCmd x r with tiles := x.tiles ++ [TileRun.of r none left 0] }))
    ∧ (CmdStarted s st r 0x0105 k →
      let mask : BitVec 12 := bv 12 b
      let left := (if a = 0xFF then List.range 168 else [a]).filterMap (fun v =>
        (changingRegions x v mask (decide (n = 1))).head?.map (fun j => (v, (j * 131072, 1572864))))
      (left = [] → end_ (.setRegionTag st r) (finishTiles s.now x (TileRun.of r (some (decide (n = 1))) [] mask)))
      ∧ (left ≠ [] → end_ (.setRegionTag st r) { beginCmd x r with tiles := x.tiles ++ [TileRun.of r (some (decide (n = 1))) left mask] }))
    ∧ (CmdStarted s st r 0x0107 k →
      let plan := commitPlan x (if a = 0xFF then List.range 168 else [a])
      (x.commit ≠ none → exec (.repairCommit st r) s = .next s)
      ∧ (x.commit = none → plan.1 = [] → end_ (.repairCommit st r) (finishCommit s.now x ⟨r, 0, plan.2⟩))
      ∧ (x.commit = none → plan.1 ≠ [] → end_ (.repairCommit st r) { beginCmd x r with
          burns := x.burns ++ plan.1.map (fun e => Burn.repair e.1 e.2.1 e.2.2), commit := some ⟨r, 0, plan.2⟩ }))
    ∧ (∀ (p : SiteIx) (u : DramUpsets),
      (columnsHeld x = true → exec (.inTileRowOpDone ⟨st, p⟩ u) s = .next s)
      ∧ (∀ v, siteCore x p.val = some v → x.tiles.find? (fun t => (tfind t.left v).isSome) = none → exec (.inTileRowOpDone ⟨st, p⟩ u) s = .next s)
      ∧ (∀ v t l hi, columnsHeld x = false → siteCore x p.val = some v → x.tiles.find? (fun t => (tfind t.left v).isSome) = some t →
        tfind t.left v = some (l, hi) →
        let y := flipDram x u
        let since := (tfind t.since v).getD (s.now - 2)
        let row := if t.retag = none ∧ holding y (vaultLine v l) ≠ .coded then some y
          else tileRow s.now y p.val (vaultLine v l) (if tileWrites y v l t then 180 else 100) since
        (row = none → end_ (.inTileRowOpDone ⟨st, p⟩ u) { x with tiles := x.tiles.map (fun m => if m.cmd = t.cmd then { m with since := tput m.since v since } else m) })
        ∧ ∀ z, row = some z →
        let t := { t with since := tput t.since v s.now }
        let d := match t.retag with
          | none => let e := scrubLine z v l t
            (e.1, { e.2 with left := if l + 1 < hi then tput e.2.left v (l + 1, hi) else tdel e.2.left v })
          | some tag => let e := nextRetag (retagLine z v l) v l t.regions tag
            (e.1, { t with left := match e.2 with | some m => tput t.left v (m, hi) | none => tdel t.left v })
        let q := { d.1 with tiles := d.1.tiles.map (fun m => if m.cmd = d.2.cmd then d.2 else m) }
        end_ (.inTileRowOpDone ⟨st, p⟩ u) (if d.2.left = [] ∨ scrubLate s.now d.1 d.2 = true then finishTiles s.now q d.2 else q)))

/-- The rows of the job and partition commands, started (R195 to R197, R435 to R443). LOAD_IMEM checks in the order of R196, then writes its lines, sets their valid bits and counts GEN, and an ADMITTED job is withdrawn. JOB_ADMIT is answered with the first status of R436 that applies, STATE first where a stack
of the partition is not IDLE or not READY, and admits otherwise. DOMAIN_JOIN needs an ADMITTED partition without a domain and its own node at its index. JOB_START needs every stack ADMITTED and all or none joined; it begins, and its answer waits for the job's end. JOB_ABORT withdraws an admitted
job, ends a running one and waits, or is answered STATE. PARTITION_SET is answered NOT_LICENSED, then STATE, then remaps. A graceful PARTITION_DISABLE of a partition that is DISABLING or DISABLED is answered STATE; with nothing running it is DISABLED at once; otherwise it is DISABLING and waits.
PARTITION_ENABLE makes a DISABLED partition IDLE, is answered BUSY while it is DISABLING and STATE otherwise. Before its own checks each of JOB_ADMIT, JOB_START, JOB_ABORT, PARTITION_SET, PARTITION_DISABLE and PARTITION_ENABLE is answered with the first status that a stack of its target other than the
receiver refuses it with: STATE without power, BUSY in a base non-transit reset, where it is DISABLING or in the coolant hold, STATE where step 7 of R428 does not let it (that such a refusal leaves every stack as it was is the model's choice, log 119). -/
def Obligations.JobAndPartitionCommands : Prop :=
  ∀ (s : State) (st : StackIx) (r : CmdRef) (k : Cmd),
    let x := s.stack st
    let sts := partStacks s k.part
    let begin_ := fun (t : State) => t.onStack st (fun y => beginCmd y r)
    let refuse := fun (i : Instr) (status : Nat) => exec i s = .next (replyAll s st k status [] [])
    let agreed := gates s st k = stOk
    ((∀ i e, (k.op, i) ∈ [(0x0201, Instr.jobAdmit st r), (0x0203, .jobStart st r), (0x0204, .jobAbort st r), (0x0205, .partitionSet st r),
        (0x0206, .partitionDisable st r), (0x0207, .partitionEnable st r)] → CmdStarted s st r k.op k →
      ((targets s st k).map (gate s st k)).find? (fun n => n ≠ stOk) = some e → refuse i e)
      ∧ (∀ i, let y := s.stack i
        gate s st k i = if i = st then stOk else if y.boot = .off then stState
          else if columnsHeld y = true ∨ busyFor y k.op = true then stBusy else if wrongFor y k.op = true then stState else stOk)
      ∧ targets s st k = (if k.tkind = 3 then allStacks else if k.tkind = 2 then allStacks.filter (fun i => decide ((s.stack i).part = k.part)) else [st]))
    ∧ (CmdStarted s st r 0x0200 k →
      let o := (k.arg 0).toNat
      let n := k.data.length
      let bad := o % 512 ≠ 0 ∨ n = 0 ∨ n % 16 ≠ 0 ∨ imemLines (coreKind k.core) * 512 < o + n
      let retired := rowRetired x (coreRow k.core) = true
      let running := (x.core k.core).run ≠ .halted ∨ (x.core k.core).participating = true
      (retired → refuse (.loadImem st r) stState)
      ∧ (¬ retired → running → refuse (.loadImem st r) stImemBusy)
      ∧ (¬ retired → ¬ running → bad → refuse (.loadImem st r) stInvalidParam)
      ∧ (¬ retired → ¬ running → ¬ bad → exec (.loadImem st r) s = .next
        (replyAll (withdrawAll (s.setStack st (loadImem x k.core o (decide (k.flags % 2 = 1)) k.data)) st) st k stOk [] [])))
    ∧ (CmdStarted s st r 0x0201 k → agreed →
      (∀ i ∈ sts, (s.stack i).pstate ≠ .idle ∨ (s.stack i).boot ≠ .ready → refuse (.jobAdmit st r) stState)
      ∧ (∀ e, admitStatus s k.part k.data = some e → refuse (.jobAdmit st r) e)
      ∧ (admitStatus s k.part k.data = none → exec (.jobAdmit st r) s = .next
        (replyAll (admitPorts (sts.foldl (fun t i => t.onStack i (admitStack k.data)) s)) st k stOk [] [])))
    ∧ (CmdStarted s st r 0x0202 k →
      let ix := (k.arg 2).toNat
      let say := fun (y : Stack) (status : Nat) => exec (.domainJoin st r) s = .next (s.setStack st (answerCmd s.now y k status))
      (x.pstate ≠ .admitted ∨ x.tick.joined = true → say x stState)
      ∧ (x.pstate = .admitted → x.tick.joined = false → (joinMembers k).getD ix 0xFFFF ≠ nodeId x → say x stInvalidParam)
      ∧ (x.pstate = .admitted → x.tick.joined = false → (joinMembers k).getD ix 0xFFFF = nodeId x →
        say (joinDomain x (k.arg 0).toNat ix (joinMembers k) (joinEntries k)) stOk))
    ∧ (CmdStarted s st r 0x0203 k → agreed →
      let joined := sts.filter (fun i => (s.stack i).tick.joined)
      let ready := (∀ i ∈ sts, (s.stack i).pstate = .admitted) ∧ (joined.length = 0 ∨ joined.length = sts.length)
      (¬ ready → refuse (.jobStart st r) stState)
      ∧ (ready → joined ≠ [] → exec (.jobStart st r) s = .next (settleJob ((begin_ s).onStacks sts (startMember s.now)) k.part))
      ∧ (ready → joined = [] →
        let nodes := sts.map (fun i => nodeId (s.stack i))
        let t := sts.zipIdx.foldl (fun t e => t.onStack e.1 (fun y => joinDomain y 0xFFFF e.2 nodes [])) s
        exec (.jobStart st r) s = .next (settleJob ((begin_ t).onStacks sts (startMember s.now)) k.part)))
    ∧ (CmdStarted s st r 0x0204 k → agreed →
      (sts = [] → refuse (.jobAbort st r) stState)
      ∧ (∀ i rest, sts = i :: rest →
        ((s.stack i).pstate = .admitted → exec (.jobAbort st r) s = .next (replyAll (withdrawAll s i) st k stOk [] []))
        ∧ ((s.stack i).pstate ≠ .admitted → (∃ j ∈ sts, jobRuns (s.stack j) = true) → exec (.jobAbort st r) s = .next (abortPart (begin_ s) i))
        ∧ ((s.stack i).pstate ≠ .admitted → (∀ j ∈ sts, jobRuns (s.stack j) = false) → refuse (.jobAbort st r) stState)))
    ∧ (CmdStarted s st r 0x0205 k → agreed →
      let map := mapParts (k.arg 0).toNat
      let used := map.foldl max 0 + 1
      let busy := ∃ i ∈ allStacks, jobHeld (s.stack i) = true
      let off := (map.zip allStacks).filter (fun e => decide ((s.stack e.2).pstate = .disabled))
      (licensedParts x < used → refuse (.partitionSet st r) stNotLicensed)
      ∧ (used ≤ licensedParts x → busy → refuse (.partitionSet st r) stState)
      ∧ (used ≤ licensedParts x → ¬ busy → exec (.partitionSet st r) s = .next (replyAll ((map.zip allStacks).foldl (fun t e => t.onStack e.2
          (fun y => { y with part := e.1, pstate := if off.any (fun d => decide (d.1 = e.1)) then .disabled else .idle })) s) st k stOk [] [])))
    ∧ (CmdStarted s st r 0x0206 k → agreed →
      let now_ := k.flags % 2 = 1
      (sts = [] → refuse (.partitionDisable st r) stState)
      ∧ (∀ i rest, sts = i :: rest →
        let t := withdrawAll s i
        let disabling := fun (all : Bool) => beginAll (t.onStacks sts (fun y => { y with pstate := .disabling, immediate := y.immediate || all })) st k
        (¬ now_ → (s.stack i).pstate = .disabling ∨ (s.stack i).pstate = .disabled → refuse (.partitionDisable st r) stState)
        ∧ (¬ now_ → (s.stack i).pstate ≠ .disabling → (s.stack i).pstate ≠ .disabled →
          ((∀ j ∈ sts, jobRuns (t.stack j) = false) → exec (.partitionDisable st r) s = .next
            (replyAll (t.onStacks sts (fun y => { y with pstate := .disabled })) st k stOk [0] []))
          ∧ ((∃ j ∈ sts, jobRuns (t.stack j) = true) → exec (.partitionDisable st r) s = .next (settleJob (disabling false) k.part)))
        ∧ (now_ → exec (.partitionDisable st r) s = .next (settleJob (abortPart (disabling true) i) k.part))))
    ∧ (CmdStarted s st r 0x0207 k → agreed →
      let off := sts ≠ [] ∧ (∀ i ∈ sts, (s.stack i).pstate = .disabled)
      let disabling := ∃ i ∈ sts, (s.stack i).pstate = .disabling
      (disabling → refuse (.partitionEnable st r) stBusy)
      ∧ (¬ disabling → ¬ off → refuse (.partitionEnable st r) stState)
      ∧ (off → exec (.partitionEnable st r) s = .next (replyAll (sts.foldl (fun t i => t.onStack i (fun y => { y with pstate := .idle })) s) st k stOk [] [])))

/-- FAULT_RECORD_ARRIVE (R513, R518 to R522, R524, R525). With nothing on the record bus nothing changes. The oldest raise coalesces into its class's latest uncleared record of the same tick and job, or without a job within 1 ms: that record's COUNT goes up and nothing else is done. Otherwise it opens a record of the
programmed severity, which is one above the latest of its class, up to MODULE, where that is JOB or higher and the class has one. With 1,024 records held, one of LOG or CORRECTED is dropped and counted, one of JOB or higher takes the place of the oldest LOG or CORRECTED record, or is dropped and
sets OVERFLOW_HIGH. In each case of JOB or higher the fault acts. A pair that the raise names is tied to the record. A site that has failed while its partition is at rest is repaired at once. -/
def Obligations.FaultRecordsAreKept : Prop :=
  ∀ (s : State) (st : StackIx),
    ((s.stack st).bus = [] → exec (.faultRecordArrive st) s = .next s)
    ∧ (∀ (r : Raise) (rest : List Raise), (s.stack st).bus = r :: rest →
      let x := { s.stack st with bus := rest }
      let c := x.faults
      let prog := programmedSev x r
      let latest := latestOf x r.source r.addr
      let here := fun (f : Collector) (seq : Nat) => s.setStack st (tieWire { x with faults := f } r seq)
      let done := fun (t : State) => exec (.faultRecordArrive st) s = .next (if r.source = fSiteFailed then t.onStack st (mendIdle s.now) else t)
      (∀ z, latest = some z → coalesces s.now r z = true →
        let y := { z with count := min (2 ^ 64 - 1) (z.count + 1), injected := z.injected || r.injected }
        done (countCopy (here { c with records := c.records.map (fun w => if w.seq = z.seq then y else w) } z.seq) st y))
      ∧ ((∀ z, latest = some z → coalesces s.now r z = false) →
        ∃ rec : Record, rec.seq = c.next ∧ rec.source = r.source ∧ rec.addr = r.addr ∧ rec.count = 1 ∧ rec.prog = prog ∧ rec.tick = r.tick ∧ rec.job = r.job
        ∧ rec.injected = r.injected ∧ rec.detail0 = recordDetail r rec.sev ∧ rec.detail1 = r.detail1
        ∧ (latest = none ∨ prog < 2 → rec.sev = prog ∧ rec.escalated = false)
        ∧ (∀ z, latest = some z → 2 ≤ prog → rec.sev = min 4 (max prog (z.sev + 1)) ∧ rec.escalated = true)
        ∧ (c.records.length < 1024 →
            done (updateFaultL (actSeverity (keepCopy (here { c with records := c.records ++ [rec], next := c.next + 1 } rec.seq) st rec) st r rec)))
        ∧ (1024 ≤ c.records.length → rec.sev < 2 → done (updateFaultL (here { c with dropped := min 0xFFFF (c.dropped + 1) } 0)))
        ∧ (∀ y, 1024 ≤ c.records.length → 2 ≤ rec.sev → c.records.find? (fun w => decide (w.sev < 2)) = some y →
            done (updateFaultL (actSeverity (keepCopy (here
              { c with records := c.records.filter (fun w => decide (w.seq ≠ y.seq)) ++ [rec], next := c.next + 1 } rec.seq) st rec) st r rec)))
        ∧ (1024 ≤ c.records.length → 2 ≤ rec.sev → c.records.find? (fun w => decide (w.sev < 2)) = none →
            done (updateFaultL (actSeverity (here { c with high := some (max rec.sev (c.high.getD 0)) } 0) st r rec)))))

/-- The rows FAULT_READ, FAULT_ACK, FAULT_INJECT, ERROR_WIRE, MIGRATION_COMPLETE and COIL_TEST (R517, R523, R526, R530, R533, R534). FAULT_READ answers with at most P1 records from SEQ P0 on, their number and how many more there are. FAULT_ACK clears the record named, or all, or is answered INVALID_PARAM. FAULT_INJECT
replaces the count of its checker. A pair of a unit that exists that reads equal and is not remembered is, and raises ERROR_WIRE. The core that migrates moves on by one row operation, reading a line at its old site or writing it at its new one, once it is granted, or waits for it and, at first, for the requests to the core in progress; after the last the core
gets its new site. Any other core changes nothing (that MIGRATION_COMPLETE is presented once for each row operation is the model's choice, log 84). A coil test that is due at a boundary switches a spare in for each failing coil, or with none left sends the column to its
TSV lanes; after the last one tick hold ends, and a new training record follows for each spare that came into use. -/
def Obligations.FaultCommandsAndRepairs : Prop :=
  ∀ (s : State) (st : StackIx),
    let x := s.stack st
    (∀ (r : CmdRef) (k : Cmd), CmdStarted s st r 0x0600 k →
      let rs := x.faults.records.filter (fun e => decide ((k.arg 0).toNat ≤ e.seq))
      let n := (k.arg 1).toNat
      exec (.faultRead st r) s = .next (s.setStack st (reply s.now x k stOk [bv 64 (min n rs.length), bv 64 (rs.length - n)] ((rs.take n).flatMap recordBytes))))
    ∧ (∀ (r : CmdRef) (k : Cmd), CmdStarted s st r 0x0601 k →
      let all := decide (k.arg 0 = BitVec.allOnes 64)
      let p := fun (e : Record) => all || decide (e.seq = (k.arg 0).toNat)
      (all = false → x.faults.records.filter p = [] → exec (.faultAck st r) s = .next (replyAll s st k stInvalidParam [] []))
      ∧ (all = true ∨ x.faults.records.filter p ≠ [] → exec (.faultAck st r) s = .next
        (replyAll (clearRecords s st all p) st k stOk [bv 64 (x.faults.records.filter p).length] [])))
    ∧ (∀ (r : CmdRef) (k : Cmd), CmdStarted s st r 0x0602 k →
      let key := checkerKey (k.arg 0).toNat (k.arg 1).toNat
      exec (.faultInject st r) s = .next (s.setStack st (reply s.now { x with inject := tset (fun _ => 0) x.inject key (k.arg 2).toNat } k stOk [] [])))
    ∧ (∀ (u : BitVec 16) (n : Fin 5),
      let w : ErrorWire := ⟨.unit u, n⟩
      let held := x.faults.wires.any (fun e => decide (e.key = u.toNat ∧ e.pair = n.val)) = true
      (held ∨ unitCheckers u.toNat = none → exec (.errorWire st w) s = .next (updateFaultL s))
      ∧ (¬ held → (unitCheckers u.toNat).isSome = true → tget (fun _ => 0) x.inject (checkerKey u.toNat (8 + n.val)) = 0 →
        exec (.errorWire st w) s = .next (updateFaultL (s.setStack st (raise { x with faults := { x.faults with wires := x.faults.wires ++ [⟨u.toNat, n.val, none, false⟩] } }
          { source := fErrorWire, addr := u.toNat, wire := some (u.toNat, n.val) })))))
    ∧ (∀ c : CoreIx,
      (x.mend.moves.head?.map (fun e => e.1) ≠ some c.val → exec (.migrationComplete ⟨st, c⟩) s = .next (reportGeometry s s))
      ∧ (∀ p rest, x.mend.moves = (c.val, p) :: rest →
        let i := x.mend.line
        let goes := fun (y : Stack) => exec (.migrationComplete ⟨st, c⟩) s = .next (reportGeometry s (s.setStack st y))
        let old := coreSite x c.val
        let a := migrateAddr c.val old (i / 2)
        let since := x.mend.lineAt.getD (s.now - 2)
        let row := if i % 2 = 1 then firmwareRow s.now x p a.1 true since
          else (firmwareRow s.now x old a.1 false since).map (fun y => match a.2 with
            | none => migrateVaultLine y old a.1
            | some e => injectSram y e.1 e.2 (a.1 / 32))
        (i = 0 → requestAt x c.val = true → goes x)
        ∧ (i ≠ 0 ∨ requestAt x c.val = false →
          (row = none → goes { x with mend := { x.mend with lineAt := some since } })
          ∧ (∀ y, row = some y → y.mend.line + 1 < 2 * migrateLines c.val → goes { y with mend := { y.mend with line := y.mend.line + 1, lineAt := some s.now } })
          ∧ (∀ y, row = some y → 2 * migrateLines c.val ≤ y.mend.line + 1 →
            let z := moveNbuCfg y (coreSite y c.val) p
            let z := { z with mend := { z.mend with moves := rest, moved := tput z.mend.moved c.val p, line := 0, lineAt := none } }
            goes (if rest = [] then mendEnd s.now z else z)))))
    ∧ (∀ (p : SiteIx) (t : CoilTest),
      let v := x.vault p.val
      let may := v.testDue = true ∧ atBoundary x = true ∧ columnsHeld x = false
      (¬ may → exec (.coilTest ⟨st, p⟩ t) s = .next s)
      ∧ (may →
        let y := t.failing.foldl (coilFails p.val) (x.setVault p.val { v with testDue := false, replays := [] })
        let z := if y.tick.testHold = true ∧ testsDue y = false then endHold s.now { y with tick := { y.tick with testHold := false } } else y
        exec (.coilTest ⟨st, p⟩ t) s = .next (writeTrainings st ((z.vault p.val).coilSpares.length - v.coilSpares.length) (s.setStack st z))))

/-- The rows SET_LATENCY_TOLERANCE, SET_CAP, PHASE_OPP, PHASE_FORECAST and ENTER_COLD, started (R434, R445, R446, R453, R459, R461, R462, R471, R476, R478). On the stack itself, with power: the tolerance is stored in PWR_IDLE, at most 0xFFFF_FFFF; a cap that is not 0 is kept by the module controller, shown in
PWR_LIMIT, ends SIMMER and takes effect at once, or at the next tick start while a job runs; the 256 entries go to PWR_OPPn; a forecast is answered STATE without a job, INVALID_PARAM for a tick that is not later, and replaces every entry from its tick on. A budget and slope that are not 0 are the
module's and every stack's PWR_LIMIT shows them. On several stacks the answer is the first status other than OK. ENTER_COLD answers first, with the first status of a target that refuses, STATE of one with a job or no power; every command that a target which may go has accepted is answered ABORTED, then it is off. -/
def Obligations.PowerCommands : Prop :=
  ∀ (s : State) (st : StackIx) (r : CmdRef) (k : Cmd),
    let x := s.stack st
    let p0 := (k.arg 0).toNat
    let say := fun (i : Instr) (status : Nat) (t : State) => exec i s = .next (replyAll t st k status [] [])
    (k.tkind ≠ 2 → k.tkind ≠ 3 → x.boot ≠ .off →
      (CmdStarted s st r 0x0500 k → say (.setLatencyTolerance st r) stOk
        (s.setStack st (setReg x rPwrIdle (setFld (reg x rPwrIdle) 0 32 (min 0xFFFFFFFF p0)))))
      ∧ (CmdStarted s st r 0x0501 k →
        (p0 = 0 → say (.setCap st r) stOk s)
        ∧ (p0 ≠ 0 →
          let y := wakeSimmer s.now (setReg x rPwrLimit (setFld (reg x rPwrLimit) 0 10 p0))
          let z := cutFloor s.now { y with power := if jobRuns y then { y.power with capNext := some p0 } else { y.power with cap := p0, capNext := none } }
          say (.setCap st r) stOk { s.setStack st z with mc := { s.mc with caps := s.mc.caps.set st p0 } }))
      ∧ (CmdStarted s st r 0x0502 k → say (.phaseOpp st r) stOk (s.setStack st (loadOpp x k.data)))
      ∧ (CmdStarted s st r 0x0503 k →
        (jobRuns x = false → say (.phaseForecast st r) stState s)
        ∧ (jobRuns x = true → p0 ≤ tickOf x → say (.phaseForecast st r) stInvalidParam s)
        ∧ (jobRuns x = true → tickOf x < p0 →
          let new := forecastEntries p0 ((List.range (k.data.length / 8)).map (fun j => word64At k.data (8 * j)))
          let ahead := (x.power.ahead.filter (fun e => e.2.1 < p0)).map (fun e => (e.1, e.2.1, min e.2.2.1 (p0 - 1), e.2.2.2))
          say (.phaseForecast st r) stOk (s.setStack st { x with power := { x.power with forecast := forecastBefore p0 x.power.forecast ++ new, ahead := ahead } }))))
    ∧ (k.tkind ≠ 2 → k.tkind ≠ 3 → x.boot = .off →
      (CmdStarted s st r 0x0500 k → say (.setLatencyTolerance st r) stState s) ∧ (CmdStarted s st r 0x0501 k → say (.setCap st r) stState s)
      ∧ (CmdStarted s st r 0x0502 k → say (.phaseOpp st r) stState s) ∧ (CmdStarted s st r 0x0503 k → say (.phaseForecast st r) stState s))
    ∧ (CmdStarted s st r 0x0501 k → k.tkind = 3 → (∀ i : StackIx, (s.stack i).boot ≠ .off ∧ gate s st k i = stOk) →
      let b := if (k.arg 1).toNat = 0 then s.mc.budget else (k.arg 1).toNat
      let sl := if (k.arg 2).toNat = 0 then s.mc.slope else (k.arg 2).toNat
      let put := fun (t : State) (i : StackIx) => t.setStack i (setReg (t.stack i) rPwrLimit (setFld (setFld (reg (t.stack i) rPwrLimit) 48 16 b) 32 16 sl))
      say (.setCap st r) stOk (put (put (put (put { s with mc := { s.mc with budget := b, slope := sl } } 0) 1) 2) 3))
    ∧ (CmdStarted s st r 0x0504 k →
      let ts := if k.tkind = 3 then allStacks else if k.tkind = 2 then partAll s k.part else [st]
      let status := fun (i : StackIx) => if gate s st k i ≠ stOk then gate s st k i else if (s.stack i).boot = .off ∨ jobHeld (s.stack i) = true then stState else stOk
      exec (.enterCold st r) s = .next (updateFaultL ((ts.filter (fun i => status i = stOk)).foldl (fun t i => t.setStack i (coldEntry (abortAccepted t.now (t.stack i))))
        (replyAll s st k (((ts.map status).find? (fun n => n ≠ stOk)).getD stOk) [] []))))
    ∧ (∀ (ts : List StackIx) (f : StackIx → State → Nat × State) (i : StackIx), (s.stack i).boot ≠ .off →
      onTargets s (i :: ts) f = (let a := f i s; let b := onTargets a.2 ts f; (if a.1 = stOk then b.1 else a.1, b.2)))

/-- The rows ATTEST, LICENCE_INSTALL, FW_STAGE, FW_ACTIVATE and FW_FETCH, started (R535, R548, R549, R551, R554, R556). ATTEST for the certificate uses no leaf; for a report it signs with leaf NEXT only where NEXT < END, and NEXT is then one more; with none left it is answered BUSY while a reservation is possible, STATE
otherwise. FW_STAGE takes chunks in order, verifies the last one's image, and is answered INVALID_PARAM without effect for a chunk out of order. FW_ACTIVATE needs a verified stage and no job. FW_FETCH answers the bytes of the RUN image of a READY stack. LICENCE_INSTALL answers the first check of R556 that fails, or
the store and every powered stack take the licence and burn its floor. -/
def Obligations.TrustCommands : Prop :=
  ∀ (s : State) (st : StackIx) (r : CmdRef) (k : Cmd),
    let x := s.stack st
    let o := (k.arg 0).toNat
    let n := (k.arg 1).toNat
    (CmdStarted s st r 0x0700 k →
      let u := fld (reg x rSecLeaf) 0 31
      let end_ := fld (reg x rSecLeaf) 31 31
      let certificate := k.flags / 2 % 2 = 1
      let cert := s.mc.certs.get st
      (certificate → certOk x st.val cert = true → exec (.attest st r) s = .next (replyAll s st k stOk [] cert))
      ∧ (certificate → certOk x st.val cert = false → exec (.attest st r) s = .next (replyAll s st k stAuthFailed [] []))
      ∧ (¬ certificate → u < end_ →
        let report := attestReport x (decide (k.flags % 2 = 1)) (wordsBytes [k.arg 0, k.arg 1, k.arg 2, k.arg 3]) u
        let y := setReg x rSecLeaf (setFld (reg x rSecLeaf) 0 31 (u + 1))
        let z := if leafEnd y - leafNext y ≤ 128 then startReserve y else y
        exec (.attest st r) s = .next (replyAll { s.setStack st z with freeIx := s.freeIx + 1 } st k stOk []
          (report ++ identitySign st.val u (Config.freeWord s.freeIx) report)))
      ∧ (¬ certificate → end_ ≤ u →
        (x.trust.reserving ≠ none ∨ end_ + 1024 ≤ 2 ^ 30 → exec (.attest st r) s = .next (replyAll (s.setStack st (startReserve x)) st k stBusy [] []))
        ∧ (x.trust.reserving = none → 2 ^ 30 < end_ + 1024 → exec (.attest st r) s = .next (replyAll s st k stState [] []))))
    ∧ (CmdStarted s st r 0x0701 k →
      let e := licenceStatus x (x.trust.licence.map licenceSeq) k.data
      (e ≠ stOk → exec (.licenceInstall st r) s = .next (replyAll s st k e [] []))
      ∧ (e = stOk →
        let m := s.mc
        let t := { s with mc := { m with licences := if m.licenceLast then (some k.data, m.licences.2) else (m.licences.1, some k.data)
                                         licenceLast := !m.licenceLast } }
        let on := allStacks.filter (fun i => decide ((s.stack i).boot ≠ .off))
        let load := fun (y : Stack) => let z := loadLicence y (some k.data)
          { z with burns := z.burns ++ (countsTo z.trust.lfuse (min 64 (licenceFloor k.data))).map Burn.lfuse }
        exec (.licenceInstall st r) s = .next (settleLicence ((beginAll (on.foldl (fun t i => t.onStack i load) t) st k).onStack st
          (fun y => { y with trust := { y.trust with installing := some r } })))))
    ∧ (CmdStarted s st r 0x0702 k →
      let last := k.flags % 2 = 1
      let held := if o = 0 then [] else x.trust.stage
      let bs := held ++ k.data
      let bad := n < 4096 ∨ 0x1000000 < n ∨ (o ≠ 0 ∧ (o ≠ held.length ∨ n ≠ x.trust.stageLen)) ∨ n < o + k.data.length ∨ (last ∧ o + k.data.length ≠ n)
      let say := fun (e : Nat) (y : Stack) => exec (.fwStage st r) s = .next (s.setStack st (answerCmd s.now y k e))
      (bad → say stInvalidParam x)
      ∧ (¬ bad → ¬ last → say stOk { x with trust := { x.trust with stage := bs, stageLen := n, verified := false } })
      ∧ (¬ bad → last → imageStatus x.trust.svn x.trust.revoke bs = stOk → say stOk { x with trust := { x.trust with stage := bs, stageLen := n, verified := true } })
      ∧ (¬ bad → last → imageStatus x.trust.svn x.trust.revoke bs ≠ stOk →
        say (imageStatus x.trust.svn x.trust.revoke bs) { x with trust := { x.trust with stage := [], stageLen := 0, verified := false } }))
    ∧ (CmdStarted s st r 0x0703 k →
      (x.trust.verified = false ∨ jobHeld x = true → exec (.fwActivate st r) s = .next (replyAll s st k stState [] []))
      ∧ (x.trust.verified = true → jobHeld x = false → exec (.fwActivate st r) s = .next (activate s st (some r))))
    ∧ (CmdStarted s st r 0x0704 k →
      let run := x.trust.run
      (x.boot ≠ .ready → exec (.fwFetch st r) s = .next (s.setStack st (answerCmd s.now x k stState)))
      ∧ (x.boot = .ready → run.length < o + n → exec (.fwFetch st r) s = .next (s.setStack st (answerCmd s.now x k stInvalidParam)))
      ∧ (x.boot = .ready → o + n ≤ run.length → exec (.fwFetch st r) s = .next
        (s.setStack st (reply s.now x k stOk [bv 64 run.length] ((run.drop o).take n)))))

/-- The rows FUSE_BURN, LEAF_RESERVATION and FLASH_IMAGE_WRITE (R43, R286, R529, R547, R549, R552, R559). The oldest burn of a stack with power and outside a base non-transit reset is done: a count that SEC_FUSE shows does not fall, EPOCH also sets OPENED, a repair leaves its soft entry clear, and what waits for it goes on.
Otherwise nothing changes. A reservation whose epoch burns are done builds the level-1 tree that END - 1 enters, writes the leaf record with the next GEN into the copy used less recently and moves END. The module controller writes the RUN image of the stack whose turn it is into flash. -/
def Obligations.FusesLeavesAndFlash : Prop :=
  ∀ (s : State) (st : StackIx),
    let x := s.stack st
    let done := fun (y : Stack) => exec (.fuseBurn st) s = .next (settleLicence (reportGeometry s (s.setStack st y)))
    (x.burns = [] ∨ x.boot = .off ∨ columnsHeld x = true → exec (.fuseBurn st) s = .next s)
    ∧ (∀ rest, x.boot ≠ .off → columnsHeld x = false →
      let y := { x with burns := rest }
      (∀ n, x.burns = .svn n :: rest → done (loadFuses { y with trust := { y.trust with svn := max n x.trust.svn } }))
      ∧ (∀ n, x.burns = .revoke n :: rest → done (loadFuses { y with trust := { y.trust with revoke := max n x.trust.revoke } }))
      ∧ (∀ n, x.burns = .lfuse n :: rest → done (loadFuses { y with trust := { y.trust with lfuse := max n x.trust.lfuse } }))
      ∧ (∀ n, x.burns = .epoch n :: rest →
        let z := loadFuses { y with trust := { y.trust with epoch := max n x.trust.epoch } }
        done (setReg z rSecFuse (setFld (reg z rSecFuse) 63 1 1)))
      ∧ (∀ p, x.burns = .site p :: rest → done (siteBurnt s.now y p))
      ∧ (∀ p n f, x.burns = .repair p n f :: rest → x.commit = none →
        done (updateSpares (setReg (y.setVault p { y.vault p with fuses := (y.vault p).fuses ++ [f] }) (rVltSoftRepair p n) 0) p)))
    ∧ (x.trust.reserving = none → exec (.leafReservation st) s = .next s)
    ∧ (∀ e, x.trust.reserving = some e →
      let waits := x.burns.any (fun b => match b with | .epoch _ => true | _ => false) = true ∨ columnsHeld x = true
      (waits → exec (.leafReservation st) s = .next s)
      ∧ (¬ waits → exec (.leafReservation st) s = .next
        (let j := (e - 1) / 32768
         let trees := if x.trust.trees.contains j then x.trust.trees else x.trust.trees ++ [j]
         { s.setStack st (setReg { x with trust := { x.trust with reserving := none, trees := trees } } rSecLeaf (setFld (reg x rSecLeaf) 31 31 e)) with
          mc := { s.mc with leaves := s.mc.leaves.set st (writeLeaf st.val (s.mc.leaves.get st) e) } })))
    ∧ (∀ i rest, s.mc.flashQueue = i :: rest → i = st.val → s.mc.vin = true → exec (.flashImageWrite st) s = .next
      { s with mc := { s.mc with flashQueue := rest, flashOpen := decide (x.trust.run = []), flash := if x.trust.run = [] then s.mc.flash else x.trust.run } })
    ∧ ((s.mc.flashQueue.head? ≠ some st.val ∨ s.mc.vin = false) → exec (.flashImageWrite st) s = .next s)

/-- The rows CAP_CHECK, OPP_CHANGE_COMPLETE, ACLK_RESTART, MERINGUE_ADJUST, ARBITER_PERIOD, GRANT_ARRIVE, GRANT_WAIT, IDLE_CHOOSE and IDLE_EXIT_COMPLETE at a stack with power (R445 to R449, R454 to R461). A draw more than 5 % above the limit lowers the compute die by a point, down to P5, and raises CAP_OVER at most once
per tick. A change of point that has its clock and its voltage is over and the next begins. The floor follows the draw and filler runs while the draw lies below it. The arbiter's period notes the draws, sets the limit, the pool of 120 W less, and the grants in stack order. A grant that arrives takes effect and ends SIMMER where it differs; the floor is cut where the bounds of R454 have fallen below it. GRANT_WAIT is raised once.
A stack enters BANKED or SIMMER where it has no work, serves no request of Ivton (that such a request keeps it ACTIVE is the model's reading, log 56) and R459 lets it for the time to its next known event, and begins to leave an idle state it does not choose again; BANKED loses what the compute die holds. The end of the exit makes it ACTIVE, and the requests that waited start. A stack without power changes nothing. -/
def Obligations.PowerFollowsItsRules : Prop :=
  ∀ (s : State) (st : StackIx),
    let x := s.stack st
    let w := x.power
    let is := fun (i : Instr) (y : Stack) => exec i s = .next (s.setStack st y)
    (x.boot = .off → ∀ n t, ∀ i ∈ [Instr.capCheck st n, .oppChangeComplete st, .aclkRestart st, .meringueAdjust st n, .grantArrive st, .grantWait st,
      .idleChoose st t, .idleExitComplete st], exec i s = .next s)
    ∧ (x.boot ≠ .off →
      (∀ draw : Nat,
        let lim := limitNow x (tickOf x) * 105 / 100
        (watts draw ≤ lim → is (.capCheck st draw) x)
        ∧ (lim < watts draw →
          let p := if w.hardCompute ≠ 0 ∨ w.hardBase = true ∨ w.coolantStop = true then 5 else min 5 (w.target + 1)
          let y := beginChange { x with power := { w with target := p } }
          is (.capCheck st draw) (if w.capOver then y else raise { y with power := { y.power with capOver := true } } { source := fCapOver, addr := haController })))
      ∧ (∀ p, w.change = some p →
        is (.aclkRestart st) { x with power := { w with point := p, stopped := false } }
        ∧ (w.point = p → w.stopped = false → is (.oppChangeComplete st) (beginChange { x with power := { w with change := none } }))
        ∧ (w.point ≠ p ∨ w.stopped = true → is (.oppChangeComplete st) x))
      ∧ (w.change = none → is (.aclkRestart st) x ∧ is (.oppChangeComplete st) x)
      ∧ (∀ draw : Nat,
        let f := floorNow s.now x
        let y := { x with power := { w with floor := max f (watts draw), floorAt := s.now } }
        is (.meringueAdjust st draw) { x with power := { y.power with
          floor := floorNow s.now y, meringue := x.computeOn && decide (w.idle = 0) && decide (watts draw < f) } })
      ∧ (let fall : Rat := (if w.coolantStop then 500 else w.sigma) * ((s.now - w.floorAt : Nat) : Rat) / 2500000
        floorNow s.now x = max 0 (min (w.floor - fall) (min (limitNow x (tickOf x)) (computeBound x + dramBound x + w.fixed)))
        ∧ cutFloor s.now x = { x with power := { w with floor := floorNow s.now x, floorAt := s.now } })
      ∧ (let g := s.mc.grants.get st
        (g = w.grant → is (.grantArrive st) (cutFloor s.now x))
        ∧ (g ≠ w.grant → is (.grantArrive st) (let y := wakeSimmer s.now x; cutFloor s.now { y with power := { y.power with grant := g } })))
      ∧ (w.grantWait = true → w.grantRaised = false →
        is (.grantWait st) (raise { x with power := { w with grantRaised := true } } { source := fGrantWait, addr := haController }))
      ∧ (w.grantWait = false ∨ w.grantRaised = true → is (.grantWait st) x)
      ∧ (∀ left : Option Nat,
        let n := if noWork x = true ∧ (∀ e ∈ x.router.rsps, e.performed = true) then idleState s.now x (nextEvent x left) else 0
        let enter := fun (y : Stack) => { y with power := { y.power with idle := n, meringue := false } }
        let banked := fun (y : Stack) => selfRefreshAll s.now (enter { loseCompute y with computeOn := false }) true
        ((x.boot ≠ .ready ∧ x.boot ≠ .held) ∨ w.exitEnd ≠ none ∨ n = w.idle → is (.idleChoose st left) x)
        ∧ (x.boot = .ready ∨ x.boot = .held → w.exitEnd = none → n ≠ w.idle →
          (w.idle = 2 ∨ n = 0 → is (.idleChoose st left) (wake s.now x))
          ∧ (w.idle = 0 → n = 1 → is (.idleChoose st left) (enter x))
          ∧ (w.idle = 0 → n = 2 → is (.idleChoose st left) (banked x))
          ∧ (w.idle = 1 → n = 2 → is (.idleChoose st left) (banked { x with power := { w with pSimmer := w.draw } }))))
      ∧ (let ends := fun (y : Stack) => exec (.idleExitComplete st) s = .next (settleControl (s.setStack st y) st)
        (w.exitEnd = none → ends x)
        ∧ (w.exitEnd ≠ none → w.idle ≠ 2 → ends (startRsps { x with power := { w with idle := 0, exitEnd := none, pSimmer := w.draw } }))
        ∧ (w.exitEnd ≠ none → w.idle = 2 → ends (startRsps (selfRefreshAll s.now { x with
            computeOn := true, power := { w with idle := 0, exitEnd := none, pBanked := w.draw }
            port := { x.port with held := x.port.held.map (fun c => { c with at_ := s.now }) } } false)))))
    ∧ (∀ (vin : Nat) (draws : Quad Nat),
      (s.mc.vin = false → exec (.arbiterPeriod vin draws) s = .next s)
      ∧ (s.mc.vin = true →
        let c := s.mc
        let full := min (c.budget : Rat) ((vin : Rat) / 1000 * 50) * (c.cool.lowFactor * c.cool.warmFactor)
        let slow := c.rising && decide (c.limit < full)
        let limit := if slow then min full (c.limit + (c.slope : Rat) / 100) else full
        let pool := max 0 (limit - 120)
        let sigma : Rat := if c.cool.stop ≠ none then 500 else (c.slope : Rat) / 4
        let note : StackIx → Stack := fun i => let y := cutFloor s.now (s.stack i); { y with power := { y.power with draw := watts (draws.get i), sigma := sigma } }
        let q := fun (i : StackIx) => if (note i).boot ≠ .off then requestOf (note i) else 0
        let low := fun (i : StackIx) => if (note i).boot ≠ .off then floorNow s.now (note i) else 0
        let gr := arbitrate pool sigma (decide (pool < c.pool)) ⟨q 0, q 1, q 2, q 3⟩
          ⟨(c.caps.q0 : Rat), (c.caps.q1 : Rat), (c.caps.q2 : Rat), (c.caps.q3 : Rat)⟩ ⟨low 0, low 1, low 2, low 3⟩ allStacks (c.grants, c.reclaim)
        exec (.arbiterPeriod vin draws) s = .next { s with
          quad := ⟨note 0, note 1, note 2, note 3⟩
          mc := { c with limit := limit, rising := slow, pool := pool, grants := gr.1, reclaim := gr.2 } }))

/-- The rows SENSOR_SAMPLE, GOVERNOR_UPDATE, THERMAL_UPDATE, THERMAL_MODEL_UPDATE and THERMTRIP (R464 to R468, R472, R473, R525, R573). Two valid codes that differ by at most 3 °C read the higher one without a fault, by at most 12 °C with SENSOR_SPLIT; a greater difference, or none valid, reads the die's hard limit with SENSOR_FAIL; one valid code is
the reading with SENSOR_OPEN. The governor's allowance falls with a margin below 3 °C and rises from 5 °C on. THERMAL_UPDATE takes the allowances, the model, the forecast in this order, and ends SIMMER where THM_ALLOW.STACK changes. R moves where the die's power has been steady. A trip turns off every stack, records THERMTRIP and latches. A stack without power is left as it is. -/
def Obligations.HeatIsWatched : Prop :=
  ∀ (s : State) (st : StackIx),
    let x := s.stack st
    (x.boot = .off → ∀ l p d n, ∀ i ∈ [Instr.sensorSample st l, .governorUpdate st, .thermalUpdate st p, .thermalModelUpdate st d n], exec i s = .next s)
    ∧ (x.boot ≠ .off →
      (∀ l : List SensorSample, exec (.sensorSample st l) s = .next (l.foldl (sampleEvents x st) (s.setStack st (cutFloor s.now (hotLayers (hardLimits (l.foldl sampleHot x)))))))
      ∧ (let under : Rat := min (((680 - dieReading x 15 : Int) : Rat) / 8) (((760 - dieReading x 1 : Int) : Rat) / 8)
        let cap : Rat := x.power.cap
        let a := x.power.allowGov
        exec (.governorUpdate st) s = .next (s.setStack st (cutFloor s.now { x with power := { x.power with
          allowGov := if under < 3 then max 0 (a - 3 * cap / 100 * min (3 - under) 5) else if under < 5 then a else min cap (a + cap / 100) } })))
      ∧ (∀ p : DiePower, let f := thermalUpdate s.now x p
        exec (.thermalUpdate st p) s = .next ((f.1.filter (fun a => a.low)).foldl
          (fun t a => sendEvent t (.thermalForecast st.val a.die a.entry.tag a.entry.first)) (s.setStack st f.2)))
      ∧ (∀ p : DiePower,
        let y := advanceModel (noteDiePower s.now (allowances x) p)
        let z := (forecastUpdate y).2
        thermalUpdate s.now x p = ((forecastUpdate y).1, cutFloor s.now (if z.power.allowStack = x.power.allowStack then z else wakeSimmer s.now z)))
      ∧ (∀ (d : Die) (n : Nat), n = 0 ∨ steadyPower s.now x (dieCode d) n = false → exec (.thermalModelUpdate st d n) s = .next (s.setStack st x))
      ∧ (∀ (d : Die) (n : Nat), 0 < n → steadyPower s.now x (dieCode d) n = true →
        let r := (((dieReading x (dieCode d) : Int) : Rat) / 8 - inletTemp x) / ((n : Rat) / 1000)
        let old := modelR x (dieCode d)
        exec (.thermalModelUpdate st d n) s = .next (s.setStack st { x with power := { x.power with
          resist := tput x.power.resist (dieCode d) (old + (r - old) / 64) } })))
    ∧ (∀ (n : Nat) (a b : BitVec 12), a ≠ 0x800#12 → b ≠ 0x800#12 →
      let d := (a.toInt - b.toInt).natAbs
      (d ≤ 24 → sensorRow n a b false = (0, max a.toInt b.toInt))
      ∧ (24 < d → d ≤ 96 → sensorRow n a b false = (1, max a.toInt b.toInt))
      ∧ (96 < d → sensorRow n a b false = (2, hardTemp (hotDie n)))
      ∧ sensorRow n a 0x800#12 false = (3, a.toInt) ∧ sensorRow n 0x800#12 b false = (4, b.toInt)
      ∧ sensorRow n 0x800#12 0x800#12 false = (2, hardTemp (hotDie n)) ∧ sensorRow n a b true = (2, hardTemp (hotDie n)))
    ∧ (x.boot ≠ .off ∨ x.cold = true →
      let t := raiseModule (s.setStack st (powerOff x)) fThermtrip
      exec (.thermtrip st) s = .next (moduleOff { t with mc := { t.mc with thermtripL := true, thermal := true, input := 5 } }))
    ∧ (x.boot = .off → x.cold = false → exec (.thermtrip st) s = .next s)

/-- The rows COOLANT_SAMPLE, COOLANT_MESSAGE_REPEAT, COOLANT_DERATE_LIFT, COOLANT_STOP_DEADLINE and COOLANT_HOLD_END (R469, R470, R474, R482, R581). Without housekeeping power a sample changes nothing; before a second has been sampled, or the coolant is qualified, it is only kept. A qualified one sets the conditions: low flow below 3.4 L/min with
the factor Q / 4.0, warm inlet above 40 °C with max(0.2, 1 − 0.04 × (T_in − 40)); each holds until its derate is lifted after it has stayed clear. A stop starts its sequence once. At its deadline every member's job ends, the layers hold self-refresh, and the commands accepted and not begun that the hold does not allow are answered BUSY; the hold ends once the flow is back and every COOLANT_STOP is cleared. Messages are
repeated while their condition holds. -/
def Obligations.CoolantIsWatched : Prop :=
  ∀ (s : State),
    let m := s.mc
    (∀ x : Coolant,
      let c := takeSample m.cool ⟨x.flow, x.inlet, x.outlet⟩
      (m.supply = false → exec (.coolantSample x) s = .next s)
      ∧ (m.supply = true → averages c = none → exec (.coolantSample x) s = .next { s with mc := { m with cool := c } })
      ∧ (∀ q tin tout, m.supply = true → averages c = some (q, tin, tout) →
        let good := 36 / 10 ≤ q ∧ tin ≤ 40
        (¬ good → ¬ (m.vin = true ∧ c.qualified = true) → exec (.coolantSample x) s = .next { s with mc := { m with cool := { c with qualified := false } } })
        ∧ (good ∨ (m.vin = true ∧ c.qualified = true) →
          let t := coolConditions { s with mc := { m with cool := { c with qualified := true } } } q tin
          let u := if t.mc.cool.stop = none ∧ stopSeen t.mc.cool = true then coolantStop t else t
          exec (.coolantSample x) s = .next (if c.taken % 1000 = 0 then loadCoolant u else u))))
    ∧ (∀ q tin : Rat,
      let c := (coolConditions s q tin).mc.cool
      c.low = (m.cool.low || decide (q < 34 / 10)) ∧ c.warm = (m.cool.warm || decide (40 < tin))
      ∧ (c.low = true → c.lowFactor = min 1 (q / 4)) ∧ (c.low = false → c.lowFactor = 1)
      ∧ (c.warm = true → c.warmFactor = min 1 (max (2 / 10) (1 - 4 / 100 * (tin - 40)))) ∧ (c.warm = false → c.warmFactor = 1))
    ∧ (exec (.coolantMessageRepeat 0) s = .next (if m.cool.decline then sayDecline s else s))
    ∧ (exec (.coolantMessageRepeat 1) s = .next (if m.cool.low then sayLow s else s))
    ∧ (exec (.coolantMessageRepeat 2) s = .next (if m.cool.warm then sayWarm s else s))
    ∧ (m.cool.low = true → m.cool.lowClear ≠ none → exec (.coolantDerateLift 0) s = .next
      { s with mc := { m with rising := true, cool := { m.cool with low := false, lowFactor := 1, lowClear := none } } })
    ∧ (m.cool.warm = true → m.cool.warmClear ≠ none → exec (.coolantDerateLift 1) s = .next
      { s with mc := { m with rising := true, cool := { m.cool with warm := false, warmFactor := 1, warmClear := none } } })
    ∧ (m.cool.low = false ∨ m.cool.lowClear = none → exec (.coolantDerateLift 0) s = .next s)
    ∧ (m.cool.warm = false ∨ m.cool.warmClear = none → exec (.coolantDerateLift 1) s = .next s)
    ∧ (∀ x : Stack,
      let out := fun (c : Cmd) => !c.begun && busyFor x c.op
      holdCommands s.now x = ((x.port.started ++ x.port.held).filter out).foldl (fun y c => answerCmd s.now y c stBusy)
        { x with port := { x.port with started := x.port.started.filter (fun c => !out c), held := x.port.held.filter (fun c => !out c) } })
    ∧ (m.cool.stop = none ∨ m.cool.ended = true → exec .coolantStopDeadline s = .next s)
    ∧ (m.cool.stop ≠ none → m.cool.ended = false → exec .coolantStopDeadline s = .next
      (let at_ := fun (t : State) (i : StackIx) => if (t.stack i).boot = .off then t
        else onMember t i (fun x =>
          let y := abortJob t.now x none fCoolantStop
          let z := if jobOn y then endMember t.now y else y
          holdCommands t.now (selfRefreshAll t.now { z with power := { z.power with coolantHold := true } } true))
       at_ (at_ (at_ (at_ { s with mc := { m with cool := { m.cool with ended := true } } } 0) 1) 2) 3))
    ∧ (let past := m.cool.stop ≠ none ∧ m.cool.ended = true ∧ m.cool.flowBack ≠ none ∧ stopCleared s = true
      (¬ past → exec .coolantHoldEnd s = .next s)
      ∧ (past →
        let at_ := fun (i : StackIx) =>
          if (s.stack i).boot = .off then s.stack i
          else
            let x := cutFloor s.now (s.stack i)
            let y := selfRefreshAll s.now { x with power := { x.power with coolantStop := false, coolantHold := false } } false
            if jobRuns y then y else setRates (choosePoint y 0) 1024
        exec .coolantHoldEnd s = .next { s with
          quad := ⟨at_ 0, at_ 1, at_ 2, at_ 3⟩, mc := { m with cool := { m.cool with stop := none, ended := false } } }))

/-- The rows of bring-up: ROM_COMPLETE, VERIFY_COMPLETE, FW_FETCH_TIMEOUT, PROOFING_COMPLETE, PACKAGE_RECORD, NEIGHBOUR_PROBE, PROBE_TIMEOUT, CMD_RPL, SET_NODE_ID, TOPOLOGY_COMPARE, EXPECT_TOPOLOGY, GET_TOPOLOGY (R18 to R20, R44, R485 to R498, R546 to R548, R553, R557). ROM leads to VERIFY, an image that passes to PROOFING, or in a base non-transit reset, where the code memory failed its check, back to the reset, and PROOFING
to HELD where no row is usable or the position is invalid, else to DISCOVER. A stack in DISCOVER takes a node ID that is usable and meant for it; the answer of its last probe, or its timeout, leads it to ADMIT; there it is READY where the topology agrees and HELD where it differs. Out of its state each row changes nothing. -/
def Obligations.BringUpGoesStateByState : Prop :=
  ∀ (s : State) (st : StackIx),
    let x := s.stack st
    (∀ m : RomSample,
      let t := { s with mc := m.flips.foldl flipFlash s.mc }
      (x.boot ≠ .rom ∨ (released x = false ∧ baseResetting x = false) → exec (.romComplete st m) s = .next s)
      ∧ (x.boot = .rom → baseResetting x = true →
        (m.code = true → exec (.romComplete st m) s = .next t)
        ∧ (m.code = false → exec (.romComplete st m) s = .next (t.setStack st { x with boot := .verify })))
      ∧ (x.boot = .rom → released x = true →
        let cold := x.bring.powerOn = true ∨ x.bring.fromCold = true
        let y := loadFuses (setReg x rIdPosition (positionWord m.edges))
        let z := setReg y rBruState (setFld (reg y rBruState) 16 2 (pathCode t y))
        let q := fun (z : Stack) => { z with boot := .verify, bring := { z.bring with stateAt := s.now } }
        (cold → exec (.romComplete st m) s = .next (resetLeaf (updateFaultL (t.setStack st
          (q { z with faults := takeBack (t.mc.copies.get st) z.faults, portsOpen := storedPorts t.mc }))) st))
        ∧ (¬ cold → exec (.romComplete st m) s = .next (updateFaultL (t.setStack st (q z))))))
    ∧ (x.boot ≠ .verify → (∀ f, exec (.verifyComplete st f) s = .next s) ∧ exec (.fwFetchTimeout st) s = .next s)
    ∧ (x.boot = .verify →
      exec (.fwFetchTimeout st) s = .next (nextSource s st)
      ∧ (x.trust.fetch = none →
        let warm := fld (reg x rBruState) 16 2 = 2 ∧ x.bring.fromCold = false ∧ baseResetting x = false
        (warm → imageOk x x.trust.run = true → exec (.verifyComplete st .own) s = .next (toProofing s st x.trust.run 1))
        ∧ (¬ warm → imageOk x (flashImage s.mc) = true → exec (.verifyComplete st .own) s = .next (toProofing s st (flashImage s.mc) 0))
        ∧ (∀ bs, bs = (if warm then x.trust.run else flashImage s.mc) → imageOk x bs = false → exec (.verifyComplete st .own) s = .next
          (askSource (s.setStack st { x with trust := { x.trust with fetch := some ⟨0, [], none, 0, 65536⟩ } }) st)))
      ∧ (∀ f, x.trust.fetch = some f →
        exec (.verifyComplete st .own) s = .next s
        ∧ (f.total ≠ some f.got.length → exec (.verifyComplete st .fetched) s = .next s)
        ∧ (f.total = some f.got.length → imageOk x f.got = false → exec (.verifyComplete st .fetched) s = .next (nextSource s st))
        ∧ (f.total = some f.got.length → imageOk x f.got = true →
          let t := toProofing s st f.got (if (fetchSources x).getD f.source 0 < 4 then 3 else 2)
          (s.mc.flashQueue ≠ [] ∨ imageOk x (flashImage s.mc) = true → exec (.verifyComplete st .fetched) s = .next t)
          ∧ (s.mc.flashQueue = [] → imageOk x (flashImage s.mc) = false → exec (.verifyComplete st .fetched) s = .next
            { t with mc := { t.mc with flashQueue := [st.val] } }))))
    ∧ (∀ (bs : List Byte) (n : Nat), ∃ y : Stack, toProofing s st bs n = s.setStack st y ∧ y.trust.run = bs ∧ y.trust.fetch = none
      ∧ (baseResetting x = false → y.boot = .proofing ∧ y.bring.proofAt = s.now) ∧ (baseResetting x = true → y.boot = .rom ∧ y.resetting = x.resetting))
    ∧ (∀ p : Proofing,
      (x.boot ≠ .proofing ∨ transitHeld x = true → exec (.proofingComplete st p) s = .next s)
      ∧ (x.boot = .proofing → transitHeld x = false →
        let d := proof s st p x
        let t := reportGeometry (s.setStack st d.1) (s.setStack st d.2)
        let u := if p.bad ≠ [] ∨ d.2.bring.copy = none then writeTraining t st else t
        let y := u.stack st
        exec (.proofingComplete st p) s = .next (u.setStack st (if geometryClass y = 0 then toHeld s.now 3 0 y else enterDiscover s.now y))))
    ∧ (fld (reg x rIdPosition) 7 1 = 0 → (enterDiscover s.now x).boot = .held)
    ∧ (∀ (l : LinkIx) (k0 : Packet), linkUp x l.val = true → isProbe k0 = true →
      let k := (received x l.val k0).1
      let y := (received x l.val k0).2
      let c := cmdOfBytes k.src l.val k.tag s.now k.data
      let bytes := if columnsHeld y then replyBytes s.now (actTick y) c stBusy [] [] false
        else replyBytes s.now (actTick y) c stOk (identifyWords y ++ [bv 64 (4 * stackIndex y + l.val)]) [] false
      exec (.neighbourProbe ⟨st, l⟩ k0) s = .next (s.setStack st (sendOn s.now y l.val
        { ty := .cmdRpl, tag := k.tag, src := nodeId y, dst := k.src, data := bytes })))
    ∧ (∀ l : LinkIx,
      (x.boot ≠ .discover ∨ x.bring.probing.contains l.val = false → exec (.probeTimeout ⟨st, l⟩) s = .next s)
      ∧ (x.boot = .discover → x.bring.probing.contains l.val = true →
        let left := x.bring.probing.filter (fun m => decide (m ≠ l.val))
        let y := { x with bring := { x.bring with probing := left } }
        exec (.probeTimeout ⟨st, l⟩) s = .next (s.setStack st (if fld (reg x rIvtNode) 16 1 = 1 ∧ left = [] then
          { y with boot := .admitting, bring := { y.bring with stateAt := s.now } } else y)))
      ∧ (∀ k : Packet, k.ty = .cmdRpl → linkUp x l.val = true → k.dst = nodeId x → x.boot = .discover → x.bring.probing.contains l.val = true → k.addr = 0 →
        fld (word64At k.data 0) 16 16 = 0x0001 → fld (word64At k.data 24) 0 16 = stOk →
        exec (.cmdRpl ⟨st, l⟩ k) s = .next (s.setStack st (probeReply s.now (received x l.val k).2 l.val k)))
      ∧ (∀ k : Packet, k.ty = .cmdRpl → linkUp x l.val = true → k.dst = nodeId x → x.boot ≠ .discover → x.boot ≠ .verify →
        exec (.cmdRpl ⟨st, l⟩ k) s = .next (s.setStack st (received x l.val k).2))
      ∧ (∀ r : PackageRec, 4 ≤ l.val → linkUp x l.val = true → acrossBridge (stackIndex x) l.val = some r.index.toNat → r.serial = Config.serial →
        let lo := if (bridgeLinks x).head? = some l.val then 48 else 32
        let known := x.bring.packages.contains (l.val, r.index.toNat) = true ∧ fld (reg x rIvtNode) lo 16 = r.node.toNat
        x.boot = .discover ∨ (x.boot ≠ .off ∧ known) →
        exec (.packageRecord ⟨st, l⟩ r) s = .next (learnPeers (s.setStack st (setReg { x with bring := { x.bring with
          packages := x.bring.packages.filter (fun e => decide (e.1 ≠ l.val)) ++ [(l.val, r.index.toNat)] } } rIvtNode (setFld (reg x rIvtNode) lo 16 r.node.toNat))))))
    ∧ (∀ (r : CmdRef) (k : Cmd), CmdStarted s st r 0x0802 k →
      let a := fun i => (k.arg i).toNat
      let bad := 4 ≤ a 3 ∨ 65536 ≤ a 0 ∨ nodeUsable (a 0) = false ∨ k.arg 1 ≠ Config.serial ∨ a 2 ≠ s.mc.slotId.toNat
      let say := fun (e : Nat) => exec (.setNodeId st r) s = .next (replyAll s st k e [] [])
      (x.boot ≠ .discover → say stState) ∧ (x.boot = .discover → bad → say stInvalidParam)
      ∧ (x.boot = .discover → ¬ bad → reaches s (stackIndex x) (a 3) = false → say stNodeLost)
      ∧ (x.boot = .discover → ¬ bad → a 3 = stackIndex x → exec (.setNodeId st r) s = .next (assignId (replyAll s st k stOk [] []) st (a 0))))
    ∧ (∀ w, s.mc.expected = some w → x.boot = .admitting →
      let m := mismatch w (topologyRecord s st)
      (m = 0 → exec (.topologyCompare st) s = .next (toReady s st))
      ∧ (m ≠ 0 → exec (.topologyCompare st) s = .next (s.setStack st (raise (toHeld s.now 2 m x) { source := fTopologyHeld, addr := haController }))))
    ∧ (s.mc.expected = none ∨ x.boot ≠ .admitting → exec (.topologyCompare st) s = .next s)
    ∧ (∀ (r : CmdRef) (k : Cmd), CmdStarted s st r 0x0801 k → gates s st k = stOk → exec (.getTopology st r) s = .next (replyAll s st k stOk [] (topologyRecord s st)))
    ∧ (∀ (r : CmdRef) (k : Cmd), CmdStarted s st r 0x0800 k → k.tkind ≠ 2 → k.tkind ≠ 3 → x.boot = .ready →
      let ok := mismatch k.data (topologyRecord s st) = 0
      (ok → exec (.expectTopology st r) s = .next (replyAll { s with mc := { s.mc with expected := some k.data } } st k stOk [] []))
      ∧ (¬ ok → exec (.expectTopology st r) s = .next (replyAll s st k stTopologyMismatch [] [])))

/-- The rows of the pins, the supplies and REFCLK: HOUSEKEEPING_START, PWR_EN_ASSERT, PWR_EN_DEASSERT, PWR_GOOD, INPUT_UNDERVOLTAGE, INPUT_OVERVOLTAGE, INPUT_OVERCURRENT, INPUT_RESTORE, REMOVE_INDICATOR, REFCLK_LOSS, REFCLK_RETURN (R383, R405, R462, R485, R499, R504, R505, R525, R569 to R576, R581, R583, R590). PWR_EN asserted
after a second low clears the latches of a trip; the record copies are lost at a power-on by PWR_EN and come back after a loss of power (log 116); an undervoltage stops the housekeeping supply, which HOUSEKEEPING_START starts. VIN_PKG rises only with PWR_EN, the supply, qualified coolant, no latch, the input in range and no quiesce done; PWR_GOOD then starts module power-on of the four stacks with default power settings. PWR_EN deasserted, and an input out of range, take VIN_PKG from all four stacks; overcurrent
latches. The model's conventions for what the start of the housekeeping supply clears, and for when VIN_PKG returns, are its own (DESIGN CHOICE, log 35). -/
def Obligations.PinsAndSupplies : Prop :=
  ∀ (s : State),
    let m := s.mc
    let off := fun (f : ModCtl → ModCtl) => let t := moduleOff s; ({ t with mc := f t.mc } : State)
    (∀ id : BitVec 6,
      (m.supply = true → exec (.housekeepingStart id) s = .next s)
      ∧ (m.supply = false → exec (.housekeepingStart id) s = .next (updateFaultL { s with mc := { m with
          supply := true, slotId := id, thermtripL := m.thermal, cool := CoolCtl.reset, i3c := none, eid := 0, receiver := none, expected := none } })))
    ∧ (m.pwrEn = true → exec .pwrEnAssert s = .next s)
    ∧ (m.pwrEn = false → m.enLow + 2500000000 ≤ s.now →
      let n := { m with overcurrent := false, thermal := false, thermtripL := false, input := if m.input = 4 ∨ m.input = 5 then 0 else m.input,
                        pwrEn := true, blue := 0 }
      exec .pwrEnAssert s = .next { s with mc := { n with vin := mayPower n } })
    ∧ (m.pwrEn = false → s.now < m.enLow + 2500000000 →
      let n := { m with pwrEn := true, blue := 0 }
      exec .pwrEnAssert s = .next { s with mc := { n with vin := mayPower n } })
    ∧ (∀ n : ModCtl, mayPower n = true ↔ (n.supply = true ∧ n.pwrEn = true ∧ n.cool.qualified = true ∧ n.overcurrent = false ∧ n.thermal = false
        ∧ n.input ≠ 2 ∧ n.input ≠ 3 ∧ n.blue = 0))
    ∧ (m.pwrEn = false → exec .pwrEnDeassert s = .next s)
    ∧ (m.pwrEn = true → exec .pwrEnDeassert s = .next (off (fun n => { n with
        pwrEn := false, lost := false, enLow := s.now, powerCycles := m.powerCycles + (if m.pwrGood then 1 else 0), input := if m.input = 1 then 0 else m.input })))
    ∧ (∀ i : StackIx, let t := moduleOff s
      (t.stack i).boot = .off ∧ (t.stack i).mem = [] ∧ (t.stack i).regs = [] ∧ (t.stack i).burnt = (s.stack i).burnt
        ∧ (t.stack i).trust.svn = (s.stack i).trust.svn ∧ (t.stack i).trust.revoke = (s.stack i).trust.revoke
        ∧ (t.stack i).trust.lfuse = (s.stack i).trust.lfuse ∧ (t.stack i).trust.epoch = (s.stack i).trust.epoch ∧ t.mc.vin = false ∧ t.mc.pwrGood = false)
    ∧ (mayPower m = false ∨ m.pwrGood = true → exec .pwrGood s = .next s)
    ∧ (mayPower m = true → m.pwrGood = false →
      let copies := if m.lost then m.copies else Quad.all []
      let on := fun (i : StackIx) => { powerOff (s.stack i) with
        boot := .rom, faults := { Collector.reset with next := (copies.get i).foldl (fun n r => max n (r.seq + 1)) 1 }
        bring := { BringUp.reset with since := s.now, stateAt := s.now, powerOn := true } }
      exec .pwrGood s = .next (updateFaultL { s with
        quad := ⟨on 0, on 1, on 2, on 3⟩
        mc := { m with vin := true, pwrGood := true, onAt := s.now, input := 1, attn := none, copies := copies, lost := false, expected := none, activating := none,
                       budget := 2200, slope := 400, caps := Quad.all 520, swings := [] } }))
    ∧ (m.supply = false → ∀ i ∈ [Instr.inputUndervoltage, .inputOvervoltage, .inputOvercurrent, .removeIndicator], exec i s = .next s)
    ∧ (m.supply = true →
      exec .inputUndervoltage s = .next (off (fun n => { n with input := 2, supply := false, faultL := false, thermtripL := false }))
      ∧ exec .inputOvervoltage s = .next (off (fun n => { n with input := 3 }))
      ∧ exec .inputOvercurrent s = .next (off (fun n => { n with input := 4, overcurrent := true }))
      ∧ (let dark := m.vin = false ∧ (m.pwrEn = false ∨ m.blue = 1)
        (dark → exec .removeIndicator s = .next { s with mc := { m with blue := 2 } }) ∧ (¬ dark → exec .removeIndicator s = .next s)))
    ∧ (m.pwrEn = false ∨ (m.input ≠ 2 ∧ m.input ≠ 3) → exec .inputRestore s = .next s)
    ∧ (m.pwrEn = true → m.input = 2 ∨ m.input = 3 →
      let n := { m with input := if m.overcurrent then 4 else if m.thermal then 5 else 0 }
      exec .inputRestore s = .next { s with mc := { n with vin := mayPower n } })
    ∧ (let lose := fun (t : State) (i : StackIx) => if (t.stack i).boot = .off then t
        else onMember t i (fun x => linkLost t.now (linkLost t.now (linkLost t.now (linkLost t.now x 0) 1) 2) 3)
      exec .refclkLoss s = .next (lose (lose (lose (lose { s with mc := { m with refclk := false } } 0) 1) 2) 3))
    ∧ ((∀ i : StackIx, (s.stack i).boot = .off ∨ (∃ q, (s.stack i).quiesce = some q ∧ 2 ≤ q.stage)) →
      exec .refclkReturn s = .next { s with mc := { m with refclk := true } })
    ∧ ((∀ i : StackIx, (s.stack i).quiesce = none ∧ (s.stack i).boot ≠ .off) →
      let all := fun (i : StackIx) =>
        let x := s.stack i
        let down := ([0, 1, 2, 3] : List Nat).filter (fun l => linkState x l = 3)
        if transitHeld x then { x with resetting := x.resetting.map (fun r => { r with runs := r.runs ++ down.map (fun l => (l, 0)) }) }
        else down.foldl (fun x l => trainLink s.now x l (retrained x l)) x
      exec .refclkReturn s = .next { s with quad := ⟨all 0, all 1, all 2, all 3⟩, mc := { m with refclk := true } })

/-- The rows of the sideband: SETDASA, ENTDAA, the MCTP control messages, MCTP_MESSAGE, the PLDM rows, REQUEST_FIRMWARE_DATA, ACTIVATE_FIRMWARE and EVENT_RECEIVER (R425, R427, R462, R500, R577 to R582, R590, Table 18.10). A dynamic address is taken where none is held (PRESUMED I3C, log 34). Control messages are answered with the housekeeping supply alone, every other
only once an endpoint ID is assigned. A command over MCTP goes to the stack that it names, one of TKIND 3 to the first stack that accepts it (the model's choice, log 75); one too short is INVALID_PARAM, with 16 relayed ones unanswered BUSY, to a stack without power STATE, where a stack reset of a COLD one brings it up and answers OK; a stack reset in a base non-transit reset is driven at once. A chunk goes to every stack, and activation begins with the lowest stack where no partition has a job and every image is verified.
The bytes of what the module controller says are its `Config.sidebandBody` (log 12). -/
def Obligations.SidebandMessages : Prop :=
  ∀ (s : State),
    let m := s.mc
    let tells := fun (i : Instr) (n : Nat) (bs : List Byte) => exec i s = .next { s with mc := { m with out := Config.sidebandBody n bs :: m.out } }
    (∀ a : BitVec 7,
      (m.supply = true → m.i3c = none → exec (.setdasa a) s = .next { s with mc := { m with i3c := some a } }
        ∧ exec (.entdaa a) s = .next { s with mc := { m with i3c := some a } })
      ∧ (m.supply = false ∨ m.i3c ≠ none → exec (.setdasa a) s = .next s ∧ exec (.entdaa a) s = .next s))
    ∧ (∀ e : Byte, m.supply = false → ∀ i ∈ [Instr.setEndpointId e, .getEndpointId, .getMctpVersionSupport, .getMessageTypeSupport], exec i s = .next s)
    ∧ (m.supply = true →
      (∀ e : Byte, exec (.setEndpointId e) s = .next { s with mc := { m with eid := e, out := Config.sidebandBody 0x01 [e] :: m.out } })
      ∧ tells .getEndpointId 0x02 [m.eid] ∧ tells .getMctpVersionSupport 0x04 [] ∧ tells .getMessageTypeSupport 0x05 [0x00, 0x01, 0x7F])
    ∧ (hasEid s = false → ∀ b bs n c, ∀ i ∈ [Instr.mctpMessage bs, .pldmBase b bs, .pldmSensorRead n, .requestFirmwareData c, .activateFirmware, .eventReceiver b],
      exec i s = .next s)
    ∧ (hasEid s = true →
      (∀ e, exec (.eventReceiver e) s = .next { s with mc := { m with receiver := some e } })
      ∧ (∀ b bs, tells (.pldmBase b bs) (0x100 + b.toNat) bs)
      ∧ (∀ n v, sensorValue s n = some v → tells (.pldmSensorRead n) 0x211 (natBytes 2 n ++ natBytes 4 v))
      ∧ (∀ n, sensorValue s n = none → tells (.pldmSensorRead n) 0x2FF (natBytes 2 n))
      ∧ (∀ i : StackIx, sensorValue s (0x40 + i.val) = some (bootCode (s.stack i).boot))
      ∧ sensorValue s 0x51 = some (if m.refclk then 1 else 0) ∧ sensorValue s 0x60 = some m.powerCycles ∧ sensorValue s 0x61 = some m.thermalCycles
      ∧ (∀ c, let d := onTargets s allStacks (chunkAt c)
        exec (.requestFirmwareData c) s = .next { d.2 with mc := { d.2.mc with out := Config.sidebandBody 0x515 (natBytes 2 d.1) :: d.2.mc.out } })
      ∧ (let ready := m.activating = none ∧ ∀ i : StackIx, jobHeld (s.stack i) = false ∧ (s.stack i).trust.verified = true ∧ columnsHeld (s.stack i) = false
        (¬ ready → tells .activateFirmware 0x51A [1])
        ∧ (ready → exec .activateFirmware s = .next (activateNext { s with mc := { m with out := Config.sidebandBody 0x51A [0] :: m.out } } 0)))
      ∧ (∀ bs, mctpCommand bs = none → exec (.mctpMessage bs) s = .next s)
      ∧ (∀ bs body, mctpCommand bs = some body →
        let c := cmdOfBytes 0x10000 8 0 s.now body
        let i : StackIx := if c.tkind = 3 then (carrier s c body).getD 0 else Fin.ofNat 4 (fld c.w1 14 2)
        let tick := arrivalTick (s.stack i) (usedParts s) c
        let x := s.stack i
        let answer := fun (t : State) (status : Nat) => exec (.mctpMessage bs) s = .next { t with mc := { t.mc with
          out := mctpReply (replyBytes s.now tick c status [] [] false) :: t.mc.out } }
        let short := body.length < 128 ∨ body.length ≠ 128 + fld c.w1 32 32
        let reset := c.op = 0x0003 ∧ c.arg 0 = 1
        (short → answer s stInvalidParam)
        ∧ (¬ short → 16 ≤ relayed s → answer s stBusy)
        ∧ (¬ short → relayed s < 16 →
          (x.boot = .off → x.cold = true → m.vin = true → reset → answer (coldExit s i) stOk)
          ∧ (x.boot = .off → ¬ (x.cold = true ∧ m.vin = true ∧ reset) → answer s stState)
          ∧ (x.boot ≠ .off → columnsHeld x = true → reset → answer (startStack s i 1) stOk)
          ∧ (x.boot ≠ .off → ¬ (columnsHeld x = true ∧ reset) → exec (.mctpMessage bs) s = .next
            (s.setStack i (arriveCmd hasChecker s.now x (usedParts s) (columnsHeld x) c body))))))

/-- A step takes the command at the front of the queue: it is that command's effect on the state with the queue's rest. With an empty queue one CCLK cycle passes (log 4, the model's choice), in which the module controller returns the replies that stacks have given to commands over MCTP (R425, R579), the link-control symbols that wait
at each stack go out, and the pairs of the collector links are read, which FAULT_L follows (R517, R524); where none of these waits nothing but the time changes. -/
def Obligations.StepTakesTheFrontCommand : Prop :=
  (∀ (c : Instr) (rest : List Instr) (s : State), step { s with pending := c :: rest } = exec c { s with pending := rest })
  ∧ (∀ s : State, s.pending = [] →
      let u := relayReplies (s.atCycle (s.now + 1))
      let go := fun (x : Stack) => { sendControls u.now x with faults := settleWires u.now (sendControls u.now x).faults }
      let t := { u with quad := ⟨go (u.stack 0), go (u.stack 1), go (u.stack 2), go (u.stack 3)⟩ }
      u.now = s.now + 1
      ∧ ((∀ i : StackIx, (t.stack i).faults.wires = (u.stack i).faults.wires) → step s = .next t)
      ∧ (∀ i : StackIx, (t.stack i).faults.wires ≠ (u.stack i).faults.wires → step s = .next (updateFaultL t)))
  ∧ (∀ s : State, s.pending = [] → (∀ i : StackIx, let x := s.stack i
        (x.router.links.all (fun e => (x.link e.1).symbols.isEmpty)) = true ∧ x.faults.wires = [] ∧ (x.sent.all (fun e => (replyOf e).isNone)) = true) →
      step s = .next (s.atCycle (s.now + 1)))

/-- Every command, on every state, answers a next state; it leaves the queue as it is, and time does not go back. A command whose condition does not hold therefore changes nothing or is answered, and none ends a run. -/
def Obligations.EveryCommandGoesOn : Prop :=
  ∀ (c : Instr) (s : State), ∃ t : State, exec c s = .next t ∧ t.pending = s.pending ∧ s.now ≤ t.now

/-- Every step keeps the bound of R525: from every state in which the module controller holds at most 256 record copies of each stack, a step leads to a state in which it does. -/
def Obligations.RecordCopiesStayBounded : Prop :=
  ∀ s t : State, s.copiesBounded → step s = .next t → t.copiesBounded

/-- What reset leaves: no stack has power, no memory is listed, nothing is queued; every register reads its reset value, among them those of R416, R417, R476 and R478; every core is HALTED with empty queues; every partition is IDLE; FAULT_L is not asserted. Memory is in its canonical form and the record copies are within their bound. Where the spec
gives a register no value at reset the value is the model's (DESIGN CHOICE, log 5). -/
def Obligations.ResetLeavesItsValues : Prop :=
  let s := State.reset
  s.pending = [] ∧ s.memWf = true ∧ s.copiesBounded ∧ s.mc.faultL = false ∧ s.mc.pwrGood = false
  ∧ (∀ i : StackIx, let x := s.stack i
    x.boot = .off ∧ x.mem = [] ∧ x.bus = [] ∧ x.pstate = .idle ∧ x.part = 0
    ∧ (∀ off, reg x off = resetValue off) ∧ (∀ a, readByte x.mem a = 0)
    ∧ (∀ c, (x.core c).run = .halted ∧ (x.core c).mx = [] ∧ (x.core c).fx = [] ∧ (x.core c).flags = 0))
  ∧ (∀ n : Fin 4096, resetValue (rIvtRoute n.val) = 0xFFFFFFFFFFFFFFFF#64) ∧ (∀ n : Fin 1024, resetValue (rIvtLost n.val) = 0)
  ∧ resetValue rPwrLimit = 0x0898019000000208#64 ∧ resetValue rPwrIdle = 0x00050000000186A0#64

/-- The code of a DRAM word (R266 to R268): a single wrong bit of data or check value is corrected; two wrong bits are never corrected, the data is delivered as read and marked; a wrong tag is never corrected, and marked where its syndrome is not 0, as it always is where one field or at most two bits differ; a word stored as poisoned is
marked also with a single wrong bit or one wrong field. -/
def Obligations.DramCodeCorrectsAndDetects : Prop :=
  let fields : List (Nat × Nat) := [(0, 4), (4, 14), (18, 4), (22, 3)]
  let oneField := fun (e : Nat) => e ≠ 0 ∧ ∃ f ∈ fields, e % 2 ^ f.1 = 0 ∧ e / 2 ^ (f.1 + f.2) = 0
  ∀ (d : BitVec 256) (tag : Nat), tag < 2 ^ 25 →
    -- what a reader gets of data `r` and check value `c` where it expects tag `t`
    let read := fun (r : BitVec 256) (c : BitVec 16) (t : Nat) => decodeWord r (check r t false ^^^ c)
    let c := check d tag false
    let p := check d tag true
    let db := fun (i : Nat) => d ^^^ (1#256 <<< i)
    let cb := fun (x : BitVec 16) (k : Nat) => x ^^^ (1#16 <<< k)
    read d c tag = (d, false, .clean) ∧ read d p tag = (d, true, .poisonSeen)
    ∧ (∀ i < 256, read (db i) c tag = (d, false, .corrected))
    ∧ (∀ k < 16, read d (cb c k) tag = (d, false, .corrected))
    ∧ (∀ i < 256, ∀ j < 256, i ≠ j → read (db i ^^^ (1#256 <<< j)) c tag = (db i ^^^ (1#256 <<< j), true, .uncorrectable))
    ∧ (∀ i < 256, ∀ k < 16, read (db i) (cb c k) tag = (db i, true, .uncorrectable))
    ∧ (∀ k < 16, ∀ j < 16, k ≠ j → read d (cb (cb c k) j) tag = (d, true, .uncorrectable))
    ∧ (∀ t < 2 ^ 25, (read d c t).2.2 ≠ .corrected ∧ (read d c t).1 = d ∧ (check d t false ^^^ c ≠ 0 → (read d c t).2.1 = true))
    ∧ (∀ t < 2 ^ 25, oneField (t ^^^ tag) ∨ (∃ i < 25, ∃ j < 25, t ^^^ tag = 2 ^ i ||| 2 ^ j) → (read d c t).2.1 = true)
    ∧ (∀ i < 256, read (db i) p tag = (db i, true, .uncorrectable))
    ∧ (∀ k < 16, read d (cb p k) tag = (d, true, .uncorrectable))
    ∧ (∀ t < 2 ^ 25, oneField (t ^^^ tag) → read d p t = (d, true, .uncorrectable))
end

