-- ==== Sys2Proof/Laws/Fabric.lean ====
section
/-! SUPPORT. Fields of words, headers and slots: what a field reads after a write, that a header gives back the packet it was made of, and what
a received packet is. -/

namespace Sys2Proof.Machine
open Sys2Proof

/-! ### Fields -/

theorem fld_lt (x : Word) (lo w : Nat) : fld x lo w < 2 ^ w := Nat.mod_lt _ (Nat.two_pow_pos w)

/-- A word as what lies above a field, the field, and what lies below. -/
theorem word_split (n lo w : Nat) : n = n / 2 ^ (lo + w) * 2 ^ (lo + w) + n / 2 ^ lo % 2 ^ w * 2 ^ lo + n % 2 ^ lo := by
  have h1 := Nat.div_add_mod n (2 ^ lo)
  have h2 := Nat.div_add_mod (n / 2 ^ lo) (2 ^ w)
  rw [Nat.div_div_eq_div_mul, ← Nat.pow_add] at h2
  calc n = 2 ^ lo * (n / 2 ^ lo) + n % 2 ^ lo := h1.symm
    _ = 2 ^ lo * (2 ^ w * (n / 2 ^ (lo + w)) + n / 2 ^ lo % 2 ^ w) + n % 2 ^ lo := by rw [h2]
    _ = _ := by rw [Nat.pow_add]; ring

/-- A word with a field replaced keeps what lies above and below. -/
theorem setFld_toNat (x : Word) {lo w : Nat} (v : Nat) (h : lo + w ≤ 64) :
    (setFld x lo w v).toNat = x.toNat / 2 ^ (lo + w) * 2 ^ (lo + w) + v % 2 ^ w * 2 ^ lo + x.toNat % 2 ^ lo := by
  have hx := word_split x.toNat lo w
  have hv : v % 2 ^ w < 2 ^ w := Nat.mod_lt _ (Nat.two_pow_pos w)
  have hl : x.toNat % 2 ^ lo < 2 ^ lo := Nat.mod_lt _ (Nat.two_pow_pos lo)
  have hn : x.toNat - fld x lo w * 2 ^ lo + v % 2 ^ w * 2 ^ lo
      = x.toNat / 2 ^ (lo + w) * 2 ^ (lo + w) + v % 2 ^ w * 2 ^ lo + x.toNat % 2 ^ lo := by
    rw [show fld x lo w = x.toNat / 2 ^ lo % 2 ^ w from rfl]
    generalize x.toNat / 2 ^ (lo + w) * 2 ^ (lo + w) = p, x.toNat / 2 ^ lo % 2 ^ w * 2 ^ lo = q, x.toNat % 2 ^ lo = r at *
    omega
  have hp : 2 ^ (lo + w) = 2 ^ w * 2 ^ lo := by rw [Nat.pow_add, Nat.mul_comm]
  have hlow : v % 2 ^ w * 2 ^ lo + x.toNat % 2 ^ lo < 2 ^ (lo + w) := by
    have : (v % 2 ^ w + 1) * 2 ^ lo ≤ 2 ^ w * 2 ^ lo := Nat.mul_le_mul_right _ hv
    rw [Nat.add_mul, one_mul] at this
    omega
  have hq : 2 ^ 64 = 2 ^ (64 - (lo + w)) * 2 ^ (lo + w) := by rw [← Nat.pow_add]; congr 1; omega
  have hhi : x.toNat / 2 ^ (lo + w) < 2 ^ (64 - (lo + w)) := by
    rw [Nat.div_lt_iff_lt_mul (Nat.two_pow_pos _), ← hq]; exact x.isLt
  have : (x.toNat / 2 ^ (lo + w) + 1) * 2 ^ (lo + w) ≤ 2 ^ 64 := by rw [hq]; exact Nat.mul_le_mul_right _ hhi
  rw [Nat.add_mul, one_mul] at this
  rw [setFld, hn]
  exact Nat.mod_eq_of_lt (by omega)

theorem fld_setFld_same (x : Word) {lo w : Nat} (v : Nat) (h : lo + w ≤ 64) : fld (setFld x lo w v) lo w = v % 2 ^ w := by
  have hp : 2 ^ (lo + w) = 2 ^ lo * 2 ^ w := Nat.pow_add ..
  rw [fld, setFld_toNat x v h]
  have : x.toNat / 2 ^ (lo + w) * 2 ^ (lo + w) + v % 2 ^ w * 2 ^ lo + x.toNat % 2 ^ lo
      = x.toNat % 2 ^ lo + 2 ^ lo * (v % 2 ^ w + 2 ^ w * (x.toNat / 2 ^ (lo + w))) := by rw [hp]; ring
  rw [this, Nat.add_mul_div_left _ _ (Nat.two_pow_pos lo), Nat.div_eq_of_lt (Nat.mod_lt _ (Nat.two_pow_pos lo)), Nat.zero_add,
    Nat.add_mul_mod_self_left, Nat.mod_mod]

/-- A field depends on the bits below its end alone. -/
theorem fld_low {x y : Word} {lo w k : Nat} (h : x.toNat % 2 ^ k = y.toNat % 2 ^ k) (hk : lo + w ≤ k) : fld x lo w = fld y lo w := by
  have low : ∀ n : Nat, n / 2 ^ lo % 2 ^ w = n % 2 ^ k % 2 ^ (lo + w) / 2 ^ lo := by
    intro n
    rw [Nat.mod_mod_of_dvd _ (Nat.pow_dvd_pow 2 hk), Nat.pow_add, Nat.mod_mul_right_div_self]
  rw [fld, fld, low, low, h]

/-- A field depends on the bits from its start alone. -/
theorem fld_high {x y : Word} {lo w k : Nat} (h : x.toNat / 2 ^ k = y.toNat / 2 ^ k) (hk : k ≤ lo) : fld x lo w = fld y lo w := by
  have high : ∀ n : Nat, n / 2 ^ lo = n / 2 ^ k / 2 ^ (lo - k) := by
    intro n
    rw [Nat.div_div_eq_div_mul, ← Nat.pow_add, Nat.add_sub_of_le hk]
  rw [fld, fld, high, high y.toNat, h]

theorem fld_setFld_other (x : Word) {lo w a n : Nat} (v : Nat) (h : lo + w ≤ 64) (ha : a + n ≤ lo ∨ lo + w ≤ a) :
    fld (setFld x lo w v) a n = fld x a n := by
  have hp : 2 ^ (lo + w) = 2 ^ lo * 2 ^ w := Nat.pow_add ..
  have ht := setFld_toNat x v h
  rcases ha with ha | ha
  · refine fld_low (k := lo) ?_ ha
    have : x.toNat / 2 ^ (lo + w) * 2 ^ (lo + w) + v % 2 ^ w * 2 ^ lo + x.toNat % 2 ^ lo
        = x.toNat % 2 ^ lo + 2 ^ lo * (v % 2 ^ w + 2 ^ w * (x.toNat / 2 ^ (lo + w))) := by rw [hp]; ring
    rw [ht, this, Nat.add_mul_mod_self_left, Nat.mod_mod]
  · refine fld_high (k := lo + w) ?_ ha
    have hv : v % 2 ^ w < 2 ^ w := Nat.mod_lt _ (Nat.two_pow_pos w)
    have hl : x.toNat % 2 ^ lo < 2 ^ lo := Nat.mod_lt _ (Nat.two_pow_pos lo)
    have hlow : v % 2 ^ w * 2 ^ lo + x.toNat % 2 ^ lo < 2 ^ (lo + w) := by
      have : (v % 2 ^ w + 1) * 2 ^ lo ≤ 2 ^ w * 2 ^ lo := Nat.mul_le_mul_right _ hv
      rw [Nat.add_mul, one_mul] at this
      rw [hp, Nat.mul_comm (2 ^ lo)]
      omega
    rw [ht, Nat.add_assoc, Nat.mul_comm, Nat.mul_add_div (Nat.two_pow_pos _), Nat.div_eq_of_lt hlow, Nat.add_zero]

/-! ### Headers and slots (R373, R384) -/

theorem typeOf_typeCode (t : PktType) : typeOf (typeCode t) = some t := by cases t <;> decide

/-- Every field of a header is read back (Table 12.8). -/
theorem headerPacket_headerWords (k : Packet)
    (h : k.tag < 2 ^ 14 ∧ k.data.length < 2 ^ 10 ∧ k.src < 2 ^ 16 ∧ k.dst < 2 ^ 16 ∧ k.status < 2 ^ 16 ∧ k.addr < 2 ^ 48 ∧ k.backoff < 2 ^ 16
      ∧ k.rlen < 2 ^ 10 ∧ k.atype < 2 ^ 3 ∧ k.hops < 2 ^ 8 ∧ k.domain < 2 ^ 16 ∧ k.tick < 2 ^ 16 ∧ k.entry < 2 ^ 8 ∧ k.mlo < 2 ^ 8 ∧ k.mhi < 2 ^ 8) :
    headerPacket (headerWords k) = some { k with data := [], masked := false } := by
  obtain ⟨h1, -, h3, h4, h5, h6, h7, h8, h9, h10, h11, h12, h13, h14, h15⟩ := h
  have hc : typeOf (typeCode k.ty % 32) = some k.ty := by cases k.ty <;> decide
  have hb : ∀ b : Bool, decide (b.toNat % 2 = 1) = b := by decide
  have hp : bv 16 (k.poison.toNat % 65536) = k.poison := by
    rw [Nat.mod_eq_of_lt k.poison.isLt]; simp [bv]
  simp [headerPacket, headerWords, fieldsWord, fld_setFld_same, fld_setFld_other, hc, hb, hp]
  omega

/-- The four words of a slot are read back. -/
theorem slotWords_wordsSlot (a b c d : Word) : slotWords (wordsSlot [a, b, c, d]) = [a, b, c, d] := by
  have ha := a.isLt; have hb := b.isLt; have hc := c.isLt; have hd := d.isLt
  have e : ∀ w : Word, bv 64 w.toNat = w := by intro w; simp [bv]
  have n : (bv 256 ([a, b, c, d].foldr (fun w acc => w.toNat + 2 ^ 64 * acc) 0)).toNat
      = a.toNat + 2 ^ 64 * (b.toNat + 2 ^ 64 * (c.toNat + 2 ^ 64 * d.toNat)) := by
    simp only [bv, List.foldr, BitVec.toNat_ofNat, Nat.mul_zero, Nat.add_zero]
    omega
  have m : ∀ (w : Word) (k : Nat), bv 64 (w.toNat + 2 ^ 64 * k) = w := by
    intro w k; apply BitVec.eq_of_toNat_eq; simp only [bv, BitVec.toNat_ofNat]; have := w.isLt; omega
  simp only [slotWords, wordsSlot, n, List.range, List.range.loop, List.map]
  have d1 : ∀ (w : Word) (k : Nat), (w.toNat + 2 ^ 64 * k) / 2 ^ 64 = k := by intro w k; have := w.isLt; omega
  have s0 : (a.toNat + 2 ^ 64 * (b.toNat + 2 ^ 64 * (c.toNat + 2 ^ 64 * d.toNat))) / 2 ^ (64 * 0)
      = a.toNat + 2 ^ 64 * (b.toNat + 2 ^ 64 * (c.toNat + 2 ^ 64 * d.toNat)) := Nat.div_one _
  have s1 : (a.toNat + 2 ^ 64 * (b.toNat + 2 ^ 64 * (c.toNat + 2 ^ 64 * d.toNat))) / 2 ^ (64 * 1)
      = b.toNat + 2 ^ 64 * (c.toNat + 2 ^ 64 * d.toNat) := d1 a _
  have s2 : (a.toNat + 2 ^ 64 * (b.toNat + 2 ^ 64 * (c.toNat + 2 ^ 64 * d.toNat))) / 2 ^ (64 * 2) = c.toNat + 2 ^ 64 * d.toNat := by
    rw [show 2 ^ (64 * 2) = 2 ^ 64 * 2 ^ 64 from rfl, ← Nat.div_div_eq_div_mul, d1, d1]
  have s3 : (a.toNat + 2 ^ 64 * (b.toNat + 2 ^ 64 * (c.toNat + 2 ^ 64 * d.toNat))) / 2 ^ (64 * 3) = d.toNat := by
    rw [show 2 ^ (64 * 3) = 2 ^ 64 * 2 ^ 64 * 2 ^ 64 from rfl, ← Nat.div_div_eq_div_mul, ← Nat.div_div_eq_div_mul, d1, d1, d1]
  rw [s0, s1, s2, s3, m, m, m, e]

/-! ### Received packets (R374) -/

/-- With nothing assembled on the link a packet stands as it is given, and its receive buffer is freed. -/
theorem received_empty {s : Stack} {l : Nat} (k : Packet) (h : (s.link l).inbox = []) : received s l k = (k, freeSlots s l k) := by
  simp [received, takeReceived, h]

end Sys2Proof.Machine
end

