-- ==== Sys2Proof/Laws/State.lean ====
section
/-! SUPPORT. What an update of the state leaves and what it sets, field by field: a stack of the module, a core, a row, a vault controller,
a near-bank unit, a link and a register of a stack. -/

namespace Sys2Proof
open Sys2Proof.Machine

/-! ### A group of four -/

@[simp] theorem Quad.get_set_same {α : Type} (q : Quad α) (i : StackIx) (v : α) : (q.set i v).get i = v := by
  match i with
  | 0 => rfl
  | 1 => rfl
  | 2 => rfl
  | 3 => rfl

theorem Quad.get_set_other {α : Type} (q : Quad α) {i j : StackIx} (v : α) (h : j ≠ i) : (q.set i v).get j = q.get j := by
  match i, j with
  | 0, 0 | 1, 1 | 2, 2 | 3, 3 => exact absurd rfl h
  | 0, 1 | 0, 2 | 0, 3 | 1, 0 | 1, 2 | 1, 3 | 2, 0 | 2, 1 | 2, 3 | 3, 0 | 3, 1 | 3, 2 => rfl

@[simp] theorem Quad.set_get {α : Type} (q : Quad α) (i : StackIx) : q.set i (q.get i) = q := by
  match i with
  | 0 => rfl
  | 1 => rfl
  | 2 => rfl
  | 3 => rfl

@[simp] theorem Quad.set_set {α : Type} (q : Quad α) (i : StackIx) (v w : α) : (q.set i v).set i w = q.set i w := by
  match i with
  | 0 => rfl
  | 1 => rfl
  | 2 => rfl
  | 3 => rfl

@[simp] theorem Quad.get_all {α : Type} (v : α) (i : StackIx) : (Quad.all v).get i = v := by
  match i with
  | 0 => rfl
  | 1 => rfl
  | 2 => rfl
  | 3 => rfl

namespace Machine

/-! ### A stack of the module -/

@[simp] theorem State.stack_setStack_same (s : State) (i : StackIx) (x : Stack) : (s.setStack i x).stack i = x := Quad.get_set_same _ _ _

theorem State.stack_setStack_other (s : State) {i j : StackIx} (x : Stack) (h : j ≠ i) : (s.setStack i x).stack j = s.stack j :=
  Quad.get_set_other _ _ h

/-- A stack put back is no change. -/
@[simp] theorem State.setStack_self (s : State) (i : StackIx) : s.setStack i (s.stack i) = s := by
  simp [State.setStack, State.stack]

@[simp] theorem State.setStack_setStack (s : State) (i : StackIx) (x y : Stack) : (s.setStack i x).setStack i y = s.setStack i y := by
  simp [State.setStack]

@[simp] theorem State.setStack_now (s : State) (i : StackIx) (x : Stack) : (s.setStack i x).now = s.now := rfl
@[simp] theorem State.setStack_mc (s : State) (i : StackIx) (x : Stack) : (s.setStack i x).mc = s.mc := rfl
@[simp] theorem State.setStack_freeIx (s : State) (i : StackIx) (x : Stack) : (s.setStack i x).freeIx = s.freeIx := rfl
@[simp] theorem State.setStack_pending (s : State) (i : StackIx) (x : Stack) : (s.setStack i x).pending = s.pending := rfl

@[simp] theorem State.stack_onStack_same (s : State) (i : StackIx) (f : Stack → Stack) : (s.onStack i f).stack i = f (s.stack i) :=
  State.stack_setStack_same _ _ _

theorem State.stack_onStack_other (s : State) {i j : StackIx} (f : Stack → Stack) (h : j ≠ i) : (s.onStack i f).stack j = s.stack j :=
  State.stack_setStack_other _ _ h

@[simp] theorem State.onStack_now (s : State) (i : StackIx) (f : Stack → Stack) : (s.onStack i f).now = s.now := rfl
@[simp] theorem State.onStack_mc (s : State) (i : StackIx) (f : Stack → Stack) : (s.onStack i f).mc = s.mc := rfl
@[simp] theorem State.onStack_freeIx (s : State) (i : StackIx) (f : Stack → Stack) : (s.onStack i f).freeIx = s.freeIx := rfl
@[simp] theorem State.onStack_pending (s : State) (i : StackIx) (f : Stack → Stack) : (s.onStack i f).pending = s.pending := rfl

@[simp] theorem State.stack_pending (s : State) (i : StackIx) (l : List Instr) : ({ s with pending := l } : State).stack i = s.stack i := rfl
@[simp] theorem State.stack_mc (s : State) (i : StackIx) (m : ModCtl) : ({ s with mc := m } : State).stack i = s.stack i := rfl
@[simp] theorem State.stack_now (s : State) (i : StackIx) (n : Nat) : ({ s with now := n } : State).stack i = s.stack i := rfl

/-! ### A core of a stack -/

@[simp] theorem Stack.setCore_regs (s : Stack) (c : Nat) (k : Core) : (s.setCore c k).regs = s.regs := rfl
@[simp] theorem Stack.setCore_boot (s : Stack) (c : Nat) (k : Core) : (s.setCore c k).boot = s.boot := rfl
@[simp] theorem Stack.setCore_part (s : Stack) (c : Nat) (k : Core) : (s.setCore c k).part = s.part := rfl
@[simp] theorem Stack.setCore_pstate (s : Stack) (c : Nat) (k : Core) : (s.setCore c k).pstate = s.pstate := rfl
@[simp] theorem Stack.setCore_tick (s : Stack) (c : Nat) (k : Core) : (s.setCore c k).tick = s.tick := rfl
@[simp] theorem Stack.setCore_rows (s : Stack) (c : Nat) (k : Core) : (s.setCore c k).rows = s.rows := rfl
@[simp] theorem Stack.setCore_vaults (s : Stack) (c : Nat) (k : Core) : (s.setCore c k).vaults = s.vaults := rfl
@[simp] theorem Stack.setCore_nbus (s : Stack) (c : Nat) (k : Core) : (s.setCore c k).nbus = s.nbus := rfl
@[simp] theorem Stack.setCore_slices (s : Stack) (c : Nat) (k : Core) : (s.setCore c k).slices = s.slices := rfl
@[simp] theorem Stack.setCore_subbanks (s : Stack) (c : Nat) (k : Core) : (s.setCore c k).subbanks = s.subbanks := rfl
@[simp] theorem Stack.setCore_subfree (s : Stack) (c : Nat) (k : Core) : (s.setCore c k).subfree = s.subfree := rfl
@[simp] theorem Stack.setCore_aclk (s : Stack) (c : Nat) (k : Core) : (s.setCore c k).aclk = s.aclk := rfl
@[simp] theorem Stack.setCore_entering (s : Stack) (c : Nat) (k : Core) : (s.setCore c k).entering = s.entering := rfl
@[simp] theorem Stack.setCore_topside (s : Stack) (c : Nat) (k : Core) : (s.setCore c k).topside = s.topside := rfl
@[simp] theorem Stack.setCore_mem (s : Stack) (c : Nat) (k : Core) : (s.setCore c k).mem = s.mem := rfl
@[simp] theorem Stack.setCore_marks (s : Stack) (c : Nat) (k : Core) : (s.setCore c k).marks = s.marks := rfl
@[simp] theorem Stack.setCore_parity (s : Stack) (c : Nat) (k : Core) : (s.setCore c k).parity = s.parity := rfl
@[simp] theorem Stack.setCore_tags (s : Stack) (c : Nat) (k : Core) : (s.setCore c k).tags = s.tags := rfl
@[simp] theorem Stack.setCore_peers (s : Stack) (c : Nat) (k : Core) : (s.setCore c k).peers = s.peers := rfl
@[simp] theorem Stack.setCore_router (s : Stack) (c : Nat) (k : Core) : (s.setCore c k).router = s.router := rfl
@[simp] theorem Stack.setCore_port (s : Stack) (c : Nat) (k : Core) : (s.setCore c k).port = s.port := rfl
@[simp] theorem Stack.setCore_kv (s : Stack) (c : Nat) (k : Core) : (s.setCore c k).kv = s.kv := rfl
@[simp] theorem Stack.setCore_computeOn (s : Stack) (c : Nat) (k : Core) : (s.setCore c k).computeOn = s.computeOn := rfl
@[simp] theorem Stack.setCore_nextId (s : Stack) (c : Nat) (k : Core) : (s.setCore c k).nextId = s.nextId := rfl
@[simp] theorem Stack.setCore_bus (s : Stack) (c : Nat) (k : Core) : (s.setCore c k).bus = s.bus := rfl
@[simp] theorem Stack.setCore_inject (s : Stack) (c : Nat) (k : Core) : (s.setCore c k).inject = s.inject := rfl
@[simp] theorem Stack.setCore_sent (s : Stack) (c : Nat) (k : Core) : (s.setCore c k).sent = s.sent := rfl
@[simp] theorem Stack.setCore_power (s : Stack) (c : Nat) (k : Core) : (s.setCore c k).power = s.power := rfl
@[simp] theorem Stack.setCore_faults (s : Stack) (c : Nat) (k : Core) : (s.setCore c k).faults = s.faults := rfl
@[simp] theorem Stack.setCore_burns (s : Stack) (c : Nat) (k : Core) : (s.setCore c k).burns = s.burns := rfl
@[simp] theorem Stack.setCore_burnt (s : Stack) (c : Nat) (k : Core) : (s.setCore c k).burnt = s.burnt := rfl
@[simp] theorem Stack.setCore_mend (s : Stack) (c : Nat) (k : Core) : (s.setCore c k).mend = s.mend := rfl
@[simp] theorem Stack.setCore_resetting (s : Stack) (c : Nat) (k : Core) : (s.setCore c k).resetting = s.resetting := rfl
@[simp] theorem Stack.setCore_quiesce (s : Stack) (c : Nat) (k : Core) : (s.setCore c k).quiesce = s.quiesce := rfl
@[simp] theorem Stack.setCore_immediate (s : Stack) (c : Nat) (k : Core) : (s.setCore c k).immediate = s.immediate := rfl
@[simp] theorem Stack.setCore_bring (s : Stack) (c : Nat) (k : Core) : (s.setCore c k).bring = s.bring := rfl
@[simp] theorem Stack.setCore_trust (s : Stack) (c : Nat) (k : Core) : (s.setCore c k).trust = s.trust := rfl
@[simp] theorem Stack.setCore_tiles (s : Stack) (c : Nat) (k : Core) : (s.setCore c k).tiles = s.tiles := rfl
@[simp] theorem Stack.setCore_bulk (s : Stack) (c : Nat) (k : Core) : (s.setCore c k).bulk = s.bulk := rfl
@[simp] theorem Stack.setCore_commit (s : Stack) (c : Nat) (k : Core) : (s.setCore c k).commit = s.commit := rfl
@[simp] theorem Stack.setCore_cold (s : Stack) (c : Nat) (k : Core) : (s.setCore c k).cold = s.cold := rfl
@[simp] theorem Stack.setCore_portsOpen (s : Stack) (c : Nat) (k : Core) : (s.setCore c k).portsOpen = s.portsOpen := rfl
@[simp] theorem Stack.setCore_fuseMaps (s : Stack) (c : Nat) (k : Core) : (s.setCore c k).fuseMaps = s.fuseMaps := rfl

/-! ### A row of a stack -/

@[simp] theorem Stack.setRow_regs (s : Stack) (r : Nat) (x : Row) : (s.setRow r x).regs = s.regs := rfl
@[simp] theorem Stack.setRow_boot (s : Stack) (r : Nat) (x : Row) : (s.setRow r x).boot = s.boot := rfl
@[simp] theorem Stack.setRow_part (s : Stack) (r : Nat) (x : Row) : (s.setRow r x).part = s.part := rfl
@[simp] theorem Stack.setRow_pstate (s : Stack) (r : Nat) (x : Row) : (s.setRow r x).pstate = s.pstate := rfl
@[simp] theorem Stack.setRow_tick (s : Stack) (r : Nat) (x : Row) : (s.setRow r x).tick = s.tick := rfl
@[simp] theorem Stack.setRow_cores (s : Stack) (r : Nat) (x : Row) : (s.setRow r x).cores = s.cores := rfl
@[simp] theorem Stack.setRow_vaults (s : Stack) (r : Nat) (x : Row) : (s.setRow r x).vaults = s.vaults := rfl
@[simp] theorem Stack.setRow_nbus (s : Stack) (r : Nat) (x : Row) : (s.setRow r x).nbus = s.nbus := rfl
@[simp] theorem Stack.setRow_slices (s : Stack) (r : Nat) (x : Row) : (s.setRow r x).slices = s.slices := rfl
@[simp] theorem Stack.setRow_subbanks (s : Stack) (r : Nat) (x : Row) : (s.setRow r x).subbanks = s.subbanks := rfl
@[simp] theorem Stack.setRow_subfree (s : Stack) (r : Nat) (x : Row) : (s.setRow r x).subfree = s.subfree := rfl
@[simp] theorem Stack.setRow_aclk (s : Stack) (r : Nat) (x : Row) : (s.setRow r x).aclk = s.aclk := rfl
@[simp] theorem Stack.setRow_entering (s : Stack) (r : Nat) (x : Row) : (s.setRow r x).entering = s.entering := rfl
@[simp] theorem Stack.setRow_topside (s : Stack) (r : Nat) (x : Row) : (s.setRow r x).topside = s.topside := rfl
@[simp] theorem Stack.setRow_mem (s : Stack) (r : Nat) (x : Row) : (s.setRow r x).mem = s.mem := rfl
@[simp] theorem Stack.setRow_marks (s : Stack) (r : Nat) (x : Row) : (s.setRow r x).marks = s.marks := rfl
@[simp] theorem Stack.setRow_parity (s : Stack) (r : Nat) (x : Row) : (s.setRow r x).parity = s.parity := rfl
@[simp] theorem Stack.setRow_tags (s : Stack) (r : Nat) (x : Row) : (s.setRow r x).tags = s.tags := rfl
@[simp] theorem Stack.setRow_peers (s : Stack) (r : Nat) (x : Row) : (s.setRow r x).peers = s.peers := rfl
@[simp] theorem Stack.setRow_router (s : Stack) (r : Nat) (x : Row) : (s.setRow r x).router = s.router := rfl
@[simp] theorem Stack.setRow_port (s : Stack) (r : Nat) (x : Row) : (s.setRow r x).port = s.port := rfl
@[simp] theorem Stack.setRow_kv (s : Stack) (r : Nat) (x : Row) : (s.setRow r x).kv = s.kv := rfl
@[simp] theorem Stack.setRow_computeOn (s : Stack) (r : Nat) (x : Row) : (s.setRow r x).computeOn = s.computeOn := rfl
@[simp] theorem Stack.setRow_nextId (s : Stack) (r : Nat) (x : Row) : (s.setRow r x).nextId = s.nextId := rfl
@[simp] theorem Stack.setRow_bus (s : Stack) (r : Nat) (x : Row) : (s.setRow r x).bus = s.bus := rfl
@[simp] theorem Stack.setRow_inject (s : Stack) (r : Nat) (x : Row) : (s.setRow r x).inject = s.inject := rfl
@[simp] theorem Stack.setRow_sent (s : Stack) (r : Nat) (x : Row) : (s.setRow r x).sent = s.sent := rfl
@[simp] theorem Stack.setRow_power (s : Stack) (r : Nat) (x : Row) : (s.setRow r x).power = s.power := rfl
@[simp] theorem Stack.setRow_faults (s : Stack) (r : Nat) (x : Row) : (s.setRow r x).faults = s.faults := rfl
@[simp] theorem Stack.setRow_burns (s : Stack) (r : Nat) (x : Row) : (s.setRow r x).burns = s.burns := rfl
@[simp] theorem Stack.setRow_burnt (s : Stack) (r : Nat) (x : Row) : (s.setRow r x).burnt = s.burnt := rfl
@[simp] theorem Stack.setRow_mend (s : Stack) (r : Nat) (x : Row) : (s.setRow r x).mend = s.mend := rfl
@[simp] theorem Stack.setRow_resetting (s : Stack) (r : Nat) (x : Row) : (s.setRow r x).resetting = s.resetting := rfl
@[simp] theorem Stack.setRow_quiesce (s : Stack) (r : Nat) (x : Row) : (s.setRow r x).quiesce = s.quiesce := rfl
@[simp] theorem Stack.setRow_immediate (s : Stack) (r : Nat) (x : Row) : (s.setRow r x).immediate = s.immediate := rfl
@[simp] theorem Stack.setRow_bring (s : Stack) (r : Nat) (x : Row) : (s.setRow r x).bring = s.bring := rfl
@[simp] theorem Stack.setRow_trust (s : Stack) (r : Nat) (x : Row) : (s.setRow r x).trust = s.trust := rfl
@[simp] theorem Stack.setRow_tiles (s : Stack) (r : Nat) (x : Row) : (s.setRow r x).tiles = s.tiles := rfl
@[simp] theorem Stack.setRow_bulk (s : Stack) (r : Nat) (x : Row) : (s.setRow r x).bulk = s.bulk := rfl
@[simp] theorem Stack.setRow_commit (s : Stack) (r : Nat) (x : Row) : (s.setRow r x).commit = s.commit := rfl
@[simp] theorem Stack.setRow_cold (s : Stack) (r : Nat) (x : Row) : (s.setRow r x).cold = s.cold := rfl
@[simp] theorem Stack.setRow_portsOpen (s : Stack) (r : Nat) (x : Row) : (s.setRow r x).portsOpen = s.portsOpen := rfl
@[simp] theorem Stack.setRow_fuseMaps (s : Stack) (r : Nat) (x : Row) : (s.setRow r x).fuseMaps = s.fuseMaps := rfl

/-! ### A vault controller of a stack -/

@[simp] theorem Stack.setVault_regs (s : Stack) (p : Nat) (v : VaultCtl) : (s.setVault p v).regs = s.regs := rfl
@[simp] theorem Stack.setVault_boot (s : Stack) (p : Nat) (v : VaultCtl) : (s.setVault p v).boot = s.boot := rfl
@[simp] theorem Stack.setVault_part (s : Stack) (p : Nat) (v : VaultCtl) : (s.setVault p v).part = s.part := rfl
@[simp] theorem Stack.setVault_pstate (s : Stack) (p : Nat) (v : VaultCtl) : (s.setVault p v).pstate = s.pstate := rfl
@[simp] theorem Stack.setVault_tick (s : Stack) (p : Nat) (v : VaultCtl) : (s.setVault p v).tick = s.tick := rfl
@[simp] theorem Stack.setVault_cores (s : Stack) (p : Nat) (v : VaultCtl) : (s.setVault p v).cores = s.cores := rfl
@[simp] theorem Stack.setVault_rows (s : Stack) (p : Nat) (v : VaultCtl) : (s.setVault p v).rows = s.rows := rfl
@[simp] theorem Stack.setVault_nbus (s : Stack) (p : Nat) (v : VaultCtl) : (s.setVault p v).nbus = s.nbus := rfl
@[simp] theorem Stack.setVault_slices (s : Stack) (p : Nat) (v : VaultCtl) : (s.setVault p v).slices = s.slices := rfl
@[simp] theorem Stack.setVault_subbanks (s : Stack) (p : Nat) (v : VaultCtl) : (s.setVault p v).subbanks = s.subbanks := rfl
@[simp] theorem Stack.setVault_subfree (s : Stack) (p : Nat) (v : VaultCtl) : (s.setVault p v).subfree = s.subfree := rfl
@[simp] theorem Stack.setVault_aclk (s : Stack) (p : Nat) (v : VaultCtl) : (s.setVault p v).aclk = s.aclk := rfl
@[simp] theorem Stack.setVault_entering (s : Stack) (p : Nat) (v : VaultCtl) : (s.setVault p v).entering = s.entering := rfl
@[simp] theorem Stack.setVault_topside (s : Stack) (p : Nat) (v : VaultCtl) : (s.setVault p v).topside = s.topside := rfl
@[simp] theorem Stack.setVault_mem (s : Stack) (p : Nat) (v : VaultCtl) : (s.setVault p v).mem = s.mem := rfl
@[simp] theorem Stack.setVault_marks (s : Stack) (p : Nat) (v : VaultCtl) : (s.setVault p v).marks = s.marks := rfl
@[simp] theorem Stack.setVault_parity (s : Stack) (p : Nat) (v : VaultCtl) : (s.setVault p v).parity = s.parity := rfl
@[simp] theorem Stack.setVault_tags (s : Stack) (p : Nat) (v : VaultCtl) : (s.setVault p v).tags = s.tags := rfl
@[simp] theorem Stack.setVault_peers (s : Stack) (p : Nat) (v : VaultCtl) : (s.setVault p v).peers = s.peers := rfl
@[simp] theorem Stack.setVault_router (s : Stack) (p : Nat) (v : VaultCtl) : (s.setVault p v).router = s.router := rfl
@[simp] theorem Stack.setVault_port (s : Stack) (p : Nat) (v : VaultCtl) : (s.setVault p v).port = s.port := rfl
@[simp] theorem Stack.setVault_kv (s : Stack) (p : Nat) (v : VaultCtl) : (s.setVault p v).kv = s.kv := rfl
@[simp] theorem Stack.setVault_computeOn (s : Stack) (p : Nat) (v : VaultCtl) : (s.setVault p v).computeOn = s.computeOn := rfl
@[simp] theorem Stack.setVault_nextId (s : Stack) (p : Nat) (v : VaultCtl) : (s.setVault p v).nextId = s.nextId := rfl
@[simp] theorem Stack.setVault_bus (s : Stack) (p : Nat) (v : VaultCtl) : (s.setVault p v).bus = s.bus := rfl
@[simp] theorem Stack.setVault_inject (s : Stack) (p : Nat) (v : VaultCtl) : (s.setVault p v).inject = s.inject := rfl
@[simp] theorem Stack.setVault_sent (s : Stack) (p : Nat) (v : VaultCtl) : (s.setVault p v).sent = s.sent := rfl
@[simp] theorem Stack.setVault_power (s : Stack) (p : Nat) (v : VaultCtl) : (s.setVault p v).power = s.power := rfl
@[simp] theorem Stack.setVault_faults (s : Stack) (p : Nat) (v : VaultCtl) : (s.setVault p v).faults = s.faults := rfl
@[simp] theorem Stack.setVault_burns (s : Stack) (p : Nat) (v : VaultCtl) : (s.setVault p v).burns = s.burns := rfl
@[simp] theorem Stack.setVault_burnt (s : Stack) (p : Nat) (v : VaultCtl) : (s.setVault p v).burnt = s.burnt := rfl
@[simp] theorem Stack.setVault_mend (s : Stack) (p : Nat) (v : VaultCtl) : (s.setVault p v).mend = s.mend := rfl
@[simp] theorem Stack.setVault_resetting (s : Stack) (p : Nat) (v : VaultCtl) : (s.setVault p v).resetting = s.resetting := rfl
@[simp] theorem Stack.setVault_quiesce (s : Stack) (p : Nat) (v : VaultCtl) : (s.setVault p v).quiesce = s.quiesce := rfl
@[simp] theorem Stack.setVault_immediate (s : Stack) (p : Nat) (v : VaultCtl) : (s.setVault p v).immediate = s.immediate := rfl
@[simp] theorem Stack.setVault_bring (s : Stack) (p : Nat) (v : VaultCtl) : (s.setVault p v).bring = s.bring := rfl
@[simp] theorem Stack.setVault_trust (s : Stack) (p : Nat) (v : VaultCtl) : (s.setVault p v).trust = s.trust := rfl
@[simp] theorem Stack.setVault_tiles (s : Stack) (p : Nat) (v : VaultCtl) : (s.setVault p v).tiles = s.tiles := rfl
@[simp] theorem Stack.setVault_bulk (s : Stack) (p : Nat) (v : VaultCtl) : (s.setVault p v).bulk = s.bulk := rfl
@[simp] theorem Stack.setVault_commit (s : Stack) (p : Nat) (v : VaultCtl) : (s.setVault p v).commit = s.commit := rfl
@[simp] theorem Stack.setVault_cold (s : Stack) (p : Nat) (v : VaultCtl) : (s.setVault p v).cold = s.cold := rfl
@[simp] theorem Stack.setVault_portsOpen (s : Stack) (p : Nat) (v : VaultCtl) : (s.setVault p v).portsOpen = s.portsOpen := rfl
@[simp] theorem Stack.setVault_fuseMaps (s : Stack) (p : Nat) (v : VaultCtl) : (s.setVault p v).fuseMaps = s.fuseMaps := rfl

/-! ### A near-bank unit of a stack -/

@[simp] theorem Stack.setNbu_regs (s : Stack) (v : Nat) (n : Nbu) : (s.setNbu v n).regs = s.regs := rfl
@[simp] theorem Stack.setNbu_boot (s : Stack) (v : Nat) (n : Nbu) : (s.setNbu v n).boot = s.boot := rfl
@[simp] theorem Stack.setNbu_part (s : Stack) (v : Nat) (n : Nbu) : (s.setNbu v n).part = s.part := rfl
@[simp] theorem Stack.setNbu_pstate (s : Stack) (v : Nat) (n : Nbu) : (s.setNbu v n).pstate = s.pstate := rfl
@[simp] theorem Stack.setNbu_tick (s : Stack) (v : Nat) (n : Nbu) : (s.setNbu v n).tick = s.tick := rfl
@[simp] theorem Stack.setNbu_cores (s : Stack) (v : Nat) (n : Nbu) : (s.setNbu v n).cores = s.cores := rfl
@[simp] theorem Stack.setNbu_rows (s : Stack) (v : Nat) (n : Nbu) : (s.setNbu v n).rows = s.rows := rfl
@[simp] theorem Stack.setNbu_vaults (s : Stack) (v : Nat) (n : Nbu) : (s.setNbu v n).vaults = s.vaults := rfl
@[simp] theorem Stack.setNbu_slices (s : Stack) (v : Nat) (n : Nbu) : (s.setNbu v n).slices = s.slices := rfl
@[simp] theorem Stack.setNbu_subbanks (s : Stack) (v : Nat) (n : Nbu) : (s.setNbu v n).subbanks = s.subbanks := rfl
@[simp] theorem Stack.setNbu_subfree (s : Stack) (v : Nat) (n : Nbu) : (s.setNbu v n).subfree = s.subfree := rfl
@[simp] theorem Stack.setNbu_aclk (s : Stack) (v : Nat) (n : Nbu) : (s.setNbu v n).aclk = s.aclk := rfl
@[simp] theorem Stack.setNbu_entering (s : Stack) (v : Nat) (n : Nbu) : (s.setNbu v n).entering = s.entering := rfl
@[simp] theorem Stack.setNbu_topside (s : Stack) (v : Nat) (n : Nbu) : (s.setNbu v n).topside = s.topside := rfl
@[simp] theorem Stack.setNbu_mem (s : Stack) (v : Nat) (n : Nbu) : (s.setNbu v n).mem = s.mem := rfl
@[simp] theorem Stack.setNbu_marks (s : Stack) (v : Nat) (n : Nbu) : (s.setNbu v n).marks = s.marks := rfl
@[simp] theorem Stack.setNbu_parity (s : Stack) (v : Nat) (n : Nbu) : (s.setNbu v n).parity = s.parity := rfl
@[simp] theorem Stack.setNbu_tags (s : Stack) (v : Nat) (n : Nbu) : (s.setNbu v n).tags = s.tags := rfl
@[simp] theorem Stack.setNbu_peers (s : Stack) (v : Nat) (n : Nbu) : (s.setNbu v n).peers = s.peers := rfl
@[simp] theorem Stack.setNbu_router (s : Stack) (v : Nat) (n : Nbu) : (s.setNbu v n).router = s.router := rfl
@[simp] theorem Stack.setNbu_port (s : Stack) (v : Nat) (n : Nbu) : (s.setNbu v n).port = s.port := rfl
@[simp] theorem Stack.setNbu_kv (s : Stack) (v : Nat) (n : Nbu) : (s.setNbu v n).kv = s.kv := rfl
@[simp] theorem Stack.setNbu_computeOn (s : Stack) (v : Nat) (n : Nbu) : (s.setNbu v n).computeOn = s.computeOn := rfl
@[simp] theorem Stack.setNbu_nextId (s : Stack) (v : Nat) (n : Nbu) : (s.setNbu v n).nextId = s.nextId := rfl
@[simp] theorem Stack.setNbu_bus (s : Stack) (v : Nat) (n : Nbu) : (s.setNbu v n).bus = s.bus := rfl
@[simp] theorem Stack.setNbu_inject (s : Stack) (v : Nat) (n : Nbu) : (s.setNbu v n).inject = s.inject := rfl
@[simp] theorem Stack.setNbu_sent (s : Stack) (v : Nat) (n : Nbu) : (s.setNbu v n).sent = s.sent := rfl
@[simp] theorem Stack.setNbu_power (s : Stack) (v : Nat) (n : Nbu) : (s.setNbu v n).power = s.power := rfl
@[simp] theorem Stack.setNbu_faults (s : Stack) (v : Nat) (n : Nbu) : (s.setNbu v n).faults = s.faults := rfl
@[simp] theorem Stack.setNbu_burns (s : Stack) (v : Nat) (n : Nbu) : (s.setNbu v n).burns = s.burns := rfl
@[simp] theorem Stack.setNbu_burnt (s : Stack) (v : Nat) (n : Nbu) : (s.setNbu v n).burnt = s.burnt := rfl
@[simp] theorem Stack.setNbu_mend (s : Stack) (v : Nat) (n : Nbu) : (s.setNbu v n).mend = s.mend := rfl
@[simp] theorem Stack.setNbu_resetting (s : Stack) (v : Nat) (n : Nbu) : (s.setNbu v n).resetting = s.resetting := rfl
@[simp] theorem Stack.setNbu_quiesce (s : Stack) (v : Nat) (n : Nbu) : (s.setNbu v n).quiesce = s.quiesce := rfl
@[simp] theorem Stack.setNbu_immediate (s : Stack) (v : Nat) (n : Nbu) : (s.setNbu v n).immediate = s.immediate := rfl
@[simp] theorem Stack.setNbu_bring (s : Stack) (v : Nat) (n : Nbu) : (s.setNbu v n).bring = s.bring := rfl
@[simp] theorem Stack.setNbu_trust (s : Stack) (v : Nat) (n : Nbu) : (s.setNbu v n).trust = s.trust := rfl
@[simp] theorem Stack.setNbu_tiles (s : Stack) (v : Nat) (n : Nbu) : (s.setNbu v n).tiles = s.tiles := rfl
@[simp] theorem Stack.setNbu_bulk (s : Stack) (v : Nat) (n : Nbu) : (s.setNbu v n).bulk = s.bulk := rfl
@[simp] theorem Stack.setNbu_commit (s : Stack) (v : Nat) (n : Nbu) : (s.setNbu v n).commit = s.commit := rfl
@[simp] theorem Stack.setNbu_cold (s : Stack) (v : Nat) (n : Nbu) : (s.setNbu v n).cold = s.cold := rfl
@[simp] theorem Stack.setNbu_portsOpen (s : Stack) (v : Nat) (n : Nbu) : (s.setNbu v n).portsOpen = s.portsOpen := rfl
@[simp] theorem Stack.setNbu_fuseMaps (s : Stack) (v : Nat) (n : Nbu) : (s.setNbu v n).fuseMaps = s.fuseMaps := rfl

/-! ### A link of a stack -/

@[simp] theorem Stack.setLink_regs (s : Stack) (l : Nat) (x : Link) : (s.setLink l x).regs = s.regs := rfl
@[simp] theorem Stack.setLink_boot (s : Stack) (l : Nat) (x : Link) : (s.setLink l x).boot = s.boot := rfl
@[simp] theorem Stack.setLink_part (s : Stack) (l : Nat) (x : Link) : (s.setLink l x).part = s.part := rfl
@[simp] theorem Stack.setLink_pstate (s : Stack) (l : Nat) (x : Link) : (s.setLink l x).pstate = s.pstate := rfl
@[simp] theorem Stack.setLink_tick (s : Stack) (l : Nat) (x : Link) : (s.setLink l x).tick = s.tick := rfl
@[simp] theorem Stack.setLink_cores (s : Stack) (l : Nat) (x : Link) : (s.setLink l x).cores = s.cores := rfl
@[simp] theorem Stack.setLink_rows (s : Stack) (l : Nat) (x : Link) : (s.setLink l x).rows = s.rows := rfl
@[simp] theorem Stack.setLink_vaults (s : Stack) (l : Nat) (x : Link) : (s.setLink l x).vaults = s.vaults := rfl
@[simp] theorem Stack.setLink_nbus (s : Stack) (l : Nat) (x : Link) : (s.setLink l x).nbus = s.nbus := rfl
@[simp] theorem Stack.setLink_slices (s : Stack) (l : Nat) (x : Link) : (s.setLink l x).slices = s.slices := rfl
@[simp] theorem Stack.setLink_subbanks (s : Stack) (l : Nat) (x : Link) : (s.setLink l x).subbanks = s.subbanks := rfl
@[simp] theorem Stack.setLink_subfree (s : Stack) (l : Nat) (x : Link) : (s.setLink l x).subfree = s.subfree := rfl
@[simp] theorem Stack.setLink_aclk (s : Stack) (l : Nat) (x : Link) : (s.setLink l x).aclk = s.aclk := rfl
@[simp] theorem Stack.setLink_entering (s : Stack) (l : Nat) (x : Link) : (s.setLink l x).entering = s.entering := rfl
@[simp] theorem Stack.setLink_topside (s : Stack) (l : Nat) (x : Link) : (s.setLink l x).topside = s.topside := rfl
@[simp] theorem Stack.setLink_mem (s : Stack) (l : Nat) (x : Link) : (s.setLink l x).mem = s.mem := rfl
@[simp] theorem Stack.setLink_marks (s : Stack) (l : Nat) (x : Link) : (s.setLink l x).marks = s.marks := rfl
@[simp] theorem Stack.setLink_parity (s : Stack) (l : Nat) (x : Link) : (s.setLink l x).parity = s.parity := rfl
@[simp] theorem Stack.setLink_tags (s : Stack) (l : Nat) (x : Link) : (s.setLink l x).tags = s.tags := rfl
@[simp] theorem Stack.setLink_peers (s : Stack) (l : Nat) (x : Link) : (s.setLink l x).peers = s.peers := rfl
@[simp] theorem Stack.setLink_port (s : Stack) (l : Nat) (x : Link) : (s.setLink l x).port = s.port := rfl
@[simp] theorem Stack.setLink_kv (s : Stack) (l : Nat) (x : Link) : (s.setLink l x).kv = s.kv := rfl
@[simp] theorem Stack.setLink_computeOn (s : Stack) (l : Nat) (x : Link) : (s.setLink l x).computeOn = s.computeOn := rfl
@[simp] theorem Stack.setLink_nextId (s : Stack) (l : Nat) (x : Link) : (s.setLink l x).nextId = s.nextId := rfl
@[simp] theorem Stack.setLink_bus (s : Stack) (l : Nat) (x : Link) : (s.setLink l x).bus = s.bus := rfl
@[simp] theorem Stack.setLink_inject (s : Stack) (l : Nat) (x : Link) : (s.setLink l x).inject = s.inject := rfl
@[simp] theorem Stack.setLink_sent (s : Stack) (l : Nat) (x : Link) : (s.setLink l x).sent = s.sent := rfl
@[simp] theorem Stack.setLink_power (s : Stack) (l : Nat) (x : Link) : (s.setLink l x).power = s.power := rfl
@[simp] theorem Stack.setLink_faults (s : Stack) (l : Nat) (x : Link) : (s.setLink l x).faults = s.faults := rfl
@[simp] theorem Stack.setLink_burns (s : Stack) (l : Nat) (x : Link) : (s.setLink l x).burns = s.burns := rfl
@[simp] theorem Stack.setLink_burnt (s : Stack) (l : Nat) (x : Link) : (s.setLink l x).burnt = s.burnt := rfl
@[simp] theorem Stack.setLink_mend (s : Stack) (l : Nat) (x : Link) : (s.setLink l x).mend = s.mend := rfl
@[simp] theorem Stack.setLink_resetting (s : Stack) (l : Nat) (x : Link) : (s.setLink l x).resetting = s.resetting := rfl
@[simp] theorem Stack.setLink_quiesce (s : Stack) (l : Nat) (x : Link) : (s.setLink l x).quiesce = s.quiesce := rfl
@[simp] theorem Stack.setLink_immediate (s : Stack) (l : Nat) (x : Link) : (s.setLink l x).immediate = s.immediate := rfl
@[simp] theorem Stack.setLink_bring (s : Stack) (l : Nat) (x : Link) : (s.setLink l x).bring = s.bring := rfl
@[simp] theorem Stack.setLink_trust (s : Stack) (l : Nat) (x : Link) : (s.setLink l x).trust = s.trust := rfl
@[simp] theorem Stack.setLink_tiles (s : Stack) (l : Nat) (x : Link) : (s.setLink l x).tiles = s.tiles := rfl
@[simp] theorem Stack.setLink_bulk (s : Stack) (l : Nat) (x : Link) : (s.setLink l x).bulk = s.bulk := rfl
@[simp] theorem Stack.setLink_commit (s : Stack) (l : Nat) (x : Link) : (s.setLink l x).commit = s.commit := rfl
@[simp] theorem Stack.setLink_cold (s : Stack) (l : Nat) (x : Link) : (s.setLink l x).cold = s.cold := rfl
@[simp] theorem Stack.setLink_portsOpen (s : Stack) (l : Nat) (x : Link) : (s.setLink l x).portsOpen = s.portsOpen := rfl
@[simp] theorem Stack.setLink_fuseMaps (s : Stack) (l : Nat) (x : Link) : (s.setLink l x).fuseMaps = s.fuseMaps := rfl

/-! ### A register of a stack -/

@[simp] theorem setReg_boot (s : Stack) (off : Nat) (v : Word) : (setReg s off v).boot = s.boot := rfl
@[simp] theorem setReg_part (s : Stack) (off : Nat) (v : Word) : (setReg s off v).part = s.part := rfl
@[simp] theorem setReg_pstate (s : Stack) (off : Nat) (v : Word) : (setReg s off v).pstate = s.pstate := rfl
@[simp] theorem setReg_tick (s : Stack) (off : Nat) (v : Word) : (setReg s off v).tick = s.tick := rfl
@[simp] theorem setReg_cores (s : Stack) (off : Nat) (v : Word) : (setReg s off v).cores = s.cores := rfl
@[simp] theorem setReg_rows (s : Stack) (off : Nat) (v : Word) : (setReg s off v).rows = s.rows := rfl
@[simp] theorem setReg_vaults (s : Stack) (off : Nat) (v : Word) : (setReg s off v).vaults = s.vaults := rfl
@[simp] theorem setReg_nbus (s : Stack) (off : Nat) (v : Word) : (setReg s off v).nbus = s.nbus := rfl
@[simp] theorem setReg_slices (s : Stack) (off : Nat) (v : Word) : (setReg s off v).slices = s.slices := rfl
@[simp] theorem setReg_subbanks (s : Stack) (off : Nat) (v : Word) : (setReg s off v).subbanks = s.subbanks := rfl
@[simp] theorem setReg_subfree (s : Stack) (off : Nat) (v : Word) : (setReg s off v).subfree = s.subfree := rfl
@[simp] theorem setReg_aclk (s : Stack) (off : Nat) (v : Word) : (setReg s off v).aclk = s.aclk := rfl
@[simp] theorem setReg_entering (s : Stack) (off : Nat) (v : Word) : (setReg s off v).entering = s.entering := rfl
@[simp] theorem setReg_topside (s : Stack) (off : Nat) (v : Word) : (setReg s off v).topside = s.topside := rfl
@[simp] theorem setReg_mem (s : Stack) (off : Nat) (v : Word) : (setReg s off v).mem = s.mem := rfl
@[simp] theorem setReg_marks (s : Stack) (off : Nat) (v : Word) : (setReg s off v).marks = s.marks := rfl
@[simp] theorem setReg_parity (s : Stack) (off : Nat) (v : Word) : (setReg s off v).parity = s.parity := rfl
@[simp] theorem setReg_tags (s : Stack) (off : Nat) (v : Word) : (setReg s off v).tags = s.tags := rfl
@[simp] theorem setReg_peers (s : Stack) (off : Nat) (v : Word) : (setReg s off v).peers = s.peers := rfl
@[simp] theorem setReg_router (s : Stack) (off : Nat) (v : Word) : (setReg s off v).router = s.router := rfl
@[simp] theorem setReg_port (s : Stack) (off : Nat) (v : Word) : (setReg s off v).port = s.port := rfl
@[simp] theorem setReg_kv (s : Stack) (off : Nat) (v : Word) : (setReg s off v).kv = s.kv := rfl
@[simp] theorem setReg_computeOn (s : Stack) (off : Nat) (v : Word) : (setReg s off v).computeOn = s.computeOn := rfl
@[simp] theorem setReg_nextId (s : Stack) (off : Nat) (v : Word) : (setReg s off v).nextId = s.nextId := rfl
@[simp] theorem setReg_bus (s : Stack) (off : Nat) (v : Word) : (setReg s off v).bus = s.bus := rfl
@[simp] theorem setReg_inject (s : Stack) (off : Nat) (v : Word) : (setReg s off v).inject = s.inject := rfl
@[simp] theorem setReg_sent (s : Stack) (off : Nat) (v : Word) : (setReg s off v).sent = s.sent := rfl
@[simp] theorem setReg_power (s : Stack) (off : Nat) (v : Word) : (setReg s off v).power = s.power := rfl
@[simp] theorem setReg_faults (s : Stack) (off : Nat) (v : Word) : (setReg s off v).faults = s.faults := rfl
@[simp] theorem setReg_burns (s : Stack) (off : Nat) (v : Word) : (setReg s off v).burns = s.burns := rfl
@[simp] theorem setReg_burnt (s : Stack) (off : Nat) (v : Word) : (setReg s off v).burnt = s.burnt := rfl
@[simp] theorem setReg_mend (s : Stack) (off : Nat) (v : Word) : (setReg s off v).mend = s.mend := rfl
@[simp] theorem setReg_resetting (s : Stack) (off : Nat) (v : Word) : (setReg s off v).resetting = s.resetting := rfl
@[simp] theorem setReg_quiesce (s : Stack) (off : Nat) (v : Word) : (setReg s off v).quiesce = s.quiesce := rfl
@[simp] theorem setReg_immediate (s : Stack) (off : Nat) (v : Word) : (setReg s off v).immediate = s.immediate := rfl
@[simp] theorem setReg_bring (s : Stack) (off : Nat) (v : Word) : (setReg s off v).bring = s.bring := rfl
@[simp] theorem setReg_trust (s : Stack) (off : Nat) (v : Word) : (setReg s off v).trust = s.trust := rfl
@[simp] theorem setReg_tiles (s : Stack) (off : Nat) (v : Word) : (setReg s off v).tiles = s.tiles := rfl
@[simp] theorem setReg_bulk (s : Stack) (off : Nat) (v : Word) : (setReg s off v).bulk = s.bulk := rfl
@[simp] theorem setReg_commit (s : Stack) (off : Nat) (v : Word) : (setReg s off v).commit = s.commit := rfl
@[simp] theorem setReg_cold (s : Stack) (off : Nat) (v : Word) : (setReg s off v).cold = s.cold := rfl
@[simp] theorem setReg_portsOpen (s : Stack) (off : Nat) (v : Word) : (setReg s off v).portsOpen = s.portsOpen := rfl
@[simp] theorem setReg_fuseMaps (s : Stack) (off : Nat) (v : Word) : (setReg s off v).fuseMaps = s.fuseMaps := rfl

/-! ### A fault raised -/

@[simp] theorem raise_regs (s : Stack) (r : Raise) : (raise s r).regs = s.regs := rfl
@[simp] theorem raise_boot (s : Stack) (r : Raise) : (raise s r).boot = s.boot := rfl
@[simp] theorem raise_part (s : Stack) (r : Raise) : (raise s r).part = s.part := rfl
@[simp] theorem raise_pstate (s : Stack) (r : Raise) : (raise s r).pstate = s.pstate := rfl
@[simp] theorem raise_tick (s : Stack) (r : Raise) : (raise s r).tick = s.tick := rfl
@[simp] theorem raise_cores (s : Stack) (r : Raise) : (raise s r).cores = s.cores := rfl
@[simp] theorem raise_rows (s : Stack) (r : Raise) : (raise s r).rows = s.rows := rfl
@[simp] theorem raise_vaults (s : Stack) (r : Raise) : (raise s r).vaults = s.vaults := rfl
@[simp] theorem raise_nbus (s : Stack) (r : Raise) : (raise s r).nbus = s.nbus := rfl
@[simp] theorem raise_slices (s : Stack) (r : Raise) : (raise s r).slices = s.slices := rfl
@[simp] theorem raise_subbanks (s : Stack) (r : Raise) : (raise s r).subbanks = s.subbanks := rfl
@[simp] theorem raise_subfree (s : Stack) (r : Raise) : (raise s r).subfree = s.subfree := rfl
@[simp] theorem raise_aclk (s : Stack) (r : Raise) : (raise s r).aclk = s.aclk := rfl
@[simp] theorem raise_entering (s : Stack) (r : Raise) : (raise s r).entering = s.entering := rfl
@[simp] theorem raise_topside (s : Stack) (r : Raise) : (raise s r).topside = s.topside := rfl
@[simp] theorem raise_mem (s : Stack) (r : Raise) : (raise s r).mem = s.mem := rfl
@[simp] theorem raise_marks (s : Stack) (r : Raise) : (raise s r).marks = s.marks := rfl
@[simp] theorem raise_parity (s : Stack) (r : Raise) : (raise s r).parity = s.parity := rfl
@[simp] theorem raise_tags (s : Stack) (r : Raise) : (raise s r).tags = s.tags := rfl
@[simp] theorem raise_peers (s : Stack) (r : Raise) : (raise s r).peers = s.peers := rfl
@[simp] theorem raise_router (s : Stack) (r : Raise) : (raise s r).router = s.router := rfl
@[simp] theorem raise_port (s : Stack) (r : Raise) : (raise s r).port = s.port := rfl
@[simp] theorem raise_kv (s : Stack) (r : Raise) : (raise s r).kv = s.kv := rfl
@[simp] theorem raise_computeOn (s : Stack) (r : Raise) : (raise s r).computeOn = s.computeOn := rfl
@[simp] theorem raise_nextId (s : Stack) (r : Raise) : (raise s r).nextId = s.nextId := rfl
@[simp] theorem raise_inject (s : Stack) (r : Raise) : (raise s r).inject = s.inject := rfl
@[simp] theorem raise_sent (s : Stack) (r : Raise) : (raise s r).sent = s.sent := rfl
@[simp] theorem raise_power (s : Stack) (r : Raise) : (raise s r).power = s.power := rfl
@[simp] theorem raise_faults (s : Stack) (r : Raise) : (raise s r).faults = s.faults := rfl
@[simp] theorem raise_burns (s : Stack) (r : Raise) : (raise s r).burns = s.burns := rfl
@[simp] theorem raise_burnt (s : Stack) (r : Raise) : (raise s r).burnt = s.burnt := rfl
@[simp] theorem raise_mend (s : Stack) (r : Raise) : (raise s r).mend = s.mend := rfl
@[simp] theorem raise_resetting (s : Stack) (r : Raise) : (raise s r).resetting = s.resetting := rfl
@[simp] theorem raise_quiesce (s : Stack) (r : Raise) : (raise s r).quiesce = s.quiesce := rfl
@[simp] theorem raise_immediate (s : Stack) (r : Raise) : (raise s r).immediate = s.immediate := rfl
@[simp] theorem raise_bring (s : Stack) (r : Raise) : (raise s r).bring = s.bring := rfl
@[simp] theorem raise_trust (s : Stack) (r : Raise) : (raise s r).trust = s.trust := rfl
@[simp] theorem raise_tiles (s : Stack) (r : Raise) : (raise s r).tiles = s.tiles := rfl
@[simp] theorem raise_bulk (s : Stack) (r : Raise) : (raise s r).bulk = s.bulk := rfl
@[simp] theorem raise_commit (s : Stack) (r : Raise) : (raise s r).commit = s.commit := rfl
@[simp] theorem raise_cold (s : Stack) (r : Raise) : (raise s r).cold = s.cold := rfl
@[simp] theorem raise_portsOpen (s : Stack) (r : Raise) : (raise s r).portsOpen = s.portsOpen := rfl
@[simp] theorem raise_fuseMaps (s : Stack) (r : Raise) : (raise s r).fuseMaps = s.fuseMaps := rfl

@[simp] theorem Stack.core_setReg (s : Stack) (off : Nat) (v : Word) (c : Nat) : (setReg s off v).core c = s.core c := rfl
@[simp] theorem Stack.core_raise (s : Stack) (r : Raise) (c : Nat) : (raise s r).core c = s.core c := rfl
@[simp] theorem reg_setCore (s : Stack) (c : Nat) (k : Core) (off : Nat) : reg (s.setCore c k) off = reg s off := rfl
@[simp] theorem reg_setVault (s : Stack) (p : Nat) (v : VaultCtl) (off : Nat) : reg (s.setVault p v) off = reg s off := rfl
@[simp] theorem reg_raise (s : Stack) (r : Raise) (off : Nat) : reg (raise s r) off = reg s off := rfl

end Machine
end Sys2Proof
end

