-- ==== Sys2Proof/Laws/Table.lean ====
section
/-! SUPPORT. Sparse tables and memory: what an update makes of an entry, what it leaves, and that the canonical form is kept. -/

namespace Sys2Proof.Machine
open Sys2Proof

variable {α : Type}

theorem risingFrom_mono {t : Tbl α} {m n : Nat} (h : risingFrom n t = true) (hm : m ≤ n) : risingFrom m t = true := by
  cases t with
  | nil => rfl
  | cons e r =>
    simp only [risingFrom, Bool.and_eq_true, decide_eq_true_eq] at *
    exact ⟨by omega, h.2⟩

/-- Below the first key nothing is listed. -/
theorem tfind_rising {t : Tbl α} {n k : Nat} (h : risingFrom n t = true) (hk : k < n) : tfind t k = none := by
  induction t generalizing n with
  | nil => rfl
  | cons e r ih =>
    simp only [risingFrom, Bool.and_eq_true, decide_eq_true_eq] at h
    have h1 : e.1 ≠ k := by omega
    simp [tfind, h1, show k < e.1 by omega]

@[simp] theorem tfind_tput_same (t : Tbl α) (k : Nat) (v : α) : tfind (tput t k v) k = some v := by
  induction t with
  | nil => simp [tput, tfind]
  | cons e r ih =>
    by_cases h : e.1 = k
    · simp [tput, h, tfind]
    · by_cases h2 : k < e.1
      · simp [tput, h, h2, tfind]
      · simp [tput, h, h2, tfind, ih]

theorem tfind_tput_other {t : Tbl α} {k j : Nat} (v : α) (h : j ≠ k) (hr : risingFrom 0 t = true) :
    tfind (tput t k v) j = tfind t j := by
  suffices ∀ n, risingFrom n t = true → tfind (tput t k v) j = tfind t j from this 0 hr
  clear hr
  induction t with
  | nil => intro n _; simp [tput, tfind, Ne.symm h]
  | cons e r ih =>
    intro n hn
    simp only [risingFrom, Bool.and_eq_true, decide_eq_true_eq] at hn
    by_cases h1 : e.1 = k
    · subst h1
      simp only [tput, if_true, tfind, Ne.symm h, if_false]
    · by_cases h2 : k < e.1
      · simp only [tput, h1, h2, if_true, if_false, tfind, Ne.symm h]
        by_cases h3 : j < k
        · have h4 : e.1 ≠ j := by omega
          simp [h3, h4, show j < e.1 by omega]
        · simp [h3]
      · simp only [tput, h1, h2, if_false, tfind, ih _ hn.2]

@[simp] theorem tfind_tdel_same {t : Tbl α} {k : Nat} (hr : risingFrom 0 t = true) : tfind (tdel t k) k = none := by
  suffices ∀ n, risingFrom n t = true → tfind (tdel t k) k = none from this 0 hr
  clear hr
  induction t with
  | nil => intro n _; rfl
  | cons e r ih =>
    intro n hn
    simp only [risingFrom, Bool.and_eq_true, decide_eq_true_eq] at hn
    by_cases h1 : e.1 = k
    · subst h1
      simp only [tdel, if_true]
      exact tfind_rising hn.2 (by omega)
    · by_cases h2 : k < e.1
      · simp [tdel, h1, h2, tfind]
      · simp [tdel, h1, h2, tfind, ih _ hn.2]

theorem tfind_tdel_other {t : Tbl α} {k j : Nat} (h : j ≠ k) (hr : risingFrom 0 t = true) : tfind (tdel t k) j = tfind t j := by
  suffices ∀ n, risingFrom n t = true → tfind (tdel t k) j = tfind t j from this 0 hr
  clear hr
  induction t with
  | nil => intro n _; rfl
  | cons e r ih =>
    intro n hn
    simp only [risingFrom, Bool.and_eq_true, decide_eq_true_eq] at hn
    by_cases h1 : e.1 = k
    · subst h1
      simp only [tdel, if_true, tfind, Ne.symm h, if_false]
      by_cases h3 : j < e.1
      · simp [h3, tfind_rising hn.2 (show j < e.1 + 1 by omega)]
      · simp [h3]
    · by_cases h2 : k < e.1
      · simp [tdel, h1, h2]
      · simp only [tdel, h1, h2, if_false, tfind, ih _ hn.2]

/-! ### The canonical form -/

theorem risingFrom_tput {t : Tbl α} {n k : Nat} (v : α) (h : risingFrom n t = true) (hk : n ≤ k) : risingFrom n (tput t k v) = true := by
  induction t generalizing n with
  | nil => simp [tput, risingFrom, hk]
  | cons e r ih =>
    simp only [risingFrom, Bool.and_eq_true, decide_eq_true_eq] at h
    by_cases h1 : e.1 = k
    · subst h1; simp [tput, risingFrom, hk, h.2]
    · by_cases h2 : k < e.1
      · simp only [tput, h1, h2, if_true, if_false, risingFrom, Bool.and_eq_true, decide_eq_true_eq]
        exact ⟨hk, by omega, h.2⟩
      · simp only [tput, h1, h2, if_false, risingFrom, Bool.and_eq_true, decide_eq_true_eq]
        exact ⟨h.1, ih h.2 (by omega)⟩

theorem risingFrom_tdel {t : Tbl α} {n k : Nat} (h : risingFrom n t = true) : risingFrom n (tdel t k) = true := by
  induction t generalizing n with
  | nil => rfl
  | cons e r ih =>
    simp only [risingFrom, Bool.and_eq_true, decide_eq_true_eq] at h
    by_cases h1 : e.1 = k
    · simp only [tdel, h1, if_true]; exact risingFrom_mono h.2 (by omega)
    · by_cases h2 : k < e.1
      · simp [tdel, h1, h2, risingFrom, h.1, h.2]
      · simp only [tdel, h1, h2, if_false, risingFrom, Bool.and_eq_true, decide_eq_true_eq]
        exact ⟨h.1, ih h.2⟩

theorem all_tput {t : Tbl α} {k : Nat} {v : α} {p : Nat × α → Bool} (h : t.all p = true) (hv : p (k, v) = true) :
    (tput t k v).all p = true := by
  induction t with
  | nil => simp [tput, hv]
  | cons e r ih =>
    simp only [List.all_cons, Bool.and_eq_true] at h
    simp only [tput]
    split
    · simp [hv, h.2]
    · split
      · simp [hv, h.1, h.2]
      · simp [h.1, ih h.2]

theorem all_tdel {t : Tbl α} {k : Nat} {p : Nat × α → Bool} (h : t.all p = true) : (tdel t k).all p = true := by
  induction t with
  | nil => rfl
  | cons e r ih =>
    simp only [List.all_cons, Bool.and_eq_true] at h
    simp only [tdel]
    split
    · exact h.2
    · split
      · simp [h.1, h.2]
      · simp [h.1, ih h.2]

/-- An update keeps the canonical form. -/
theorem tblWf_tset [DecidableEq α] {d : Nat → α} {t : Tbl α} {k : Nat} {v : α} (h : tblWf d t = true) :
    tblWf d (tset d t k v) = true := by
  simp only [tblWf, Bool.and_eq_true] at *
  unfold tset
  split
  · exact ⟨risingFrom_tdel h.1, all_tdel h.2⟩
  · rename_i hv
    exact ⟨risingFrom_tput v h.1 (Nat.zero_le _), all_tput h.2 (by simpa using hv)⟩

theorem tget_tset_same [DecidableEq α] {d : Nat → α} {t : Tbl α} {k : Nat} {v : α} (h : tblWf d t = true) :
    tget d (tset d t k v) k = v := by
  simp only [tblWf, Bool.and_eq_true] at h
  unfold tset tget
  split
  · rename_i hv; simp [tfind_tdel_same h.1, hv]
  · simp

theorem tget_tset_other [DecidableEq α] {d : Nat → α} {t : Tbl α} {k j : Nat} {v : α} (h : tblWf d t = true) (hj : j ≠ k) :
    tget d (tset d t k v) j = tget d t j := by
  simp only [tblWf, Bool.and_eq_true] at h
  unfold tset tget
  split
  · rw [tfind_tdel_other hj h.1]
  · rw [tfind_tput_other v hj h.1]

theorem risingFrom_filter {t : Tbl α} {n : Nat} (q : Nat × α → Bool) (h : risingFrom n t = true) : risingFrom n (t.filter q) = true := by
  induction t generalizing n with
  | nil => rfl
  | cons e r ih =>
    simp only [risingFrom, Bool.and_eq_true, decide_eq_true_eq] at h
    have hr := ih h.2
    by_cases hq : q e = true
    · simp only [List.filter_cons, hq, if_true, risingFrom, Bool.and_eq_true, decide_eq_true_eq]; exact ⟨h.1, hr⟩
    · simp only [List.filter_cons, hq]; exact risingFrom_mono hr (by omega)

/-- Entries dropped leave the canonical form. -/
theorem tblWf_filter [DecidableEq α] {d : Nat → α} {t : Tbl α} (q : Nat × α → Bool) (h : tblWf d t = true) : tblWf d (t.filter q) = true := by
  simp only [tblWf, Bool.and_eq_true] at *
  refine ⟨risingFrom_filter q h.1, ?_⟩
  rw [List.all_eq_true] at *
  intro e he
  exact h.2 e (List.mem_filter.mp he).1

/-! ### Memory -/

theorem writeByte_wf {m : List Host.Cell} (a : Nat) (v : Byte) (h : Memory.wf m = true) : Memory.wf (writeByte m a v) = true := tblWf_tset h

theorem writeBytes_wf {m : List Host.Cell} (a : Nat) (bs : List Byte) (h : Memory.wf m = true) : Memory.wf (writeBytes m a bs) = true := by
  induction bs generalizing m a with
  | nil => exact h
  | cons b r ih => exact ih (a + 1) (writeByte_wf a b h)

/-- A read after a write of the same byte gives the value written. -/
theorem readByte_writeByte_same {m : List Host.Cell} {a : Nat} {v : Byte} (h : Memory.wf m = true) : readByte (writeByte m a v) a = v :=
  tget_tset_same h

/-- A write leaves every other byte alone. -/
theorem readByte_writeByte_other {m : List Host.Cell} {a b : Nat} {v : Byte} (h : Memory.wf m = true) (hb : b ≠ a) :
    readByte (writeByte m a v) b = readByte m b := tget_tset_other h hb

theorem filter_wf {m : List Host.Cell} (q : Host.Cell → Bool) (h : Memory.wf m = true) : Memory.wf (m.filter q) = true := tblWf_filter q h

/-- Bytes written leave every byte outside them alone. -/
theorem readByte_writeBytes_other {m : List Host.Cell} {a b : Nat} (bs : List Byte) (h : Memory.wf m = true) (hb : b < a ∨ a + bs.length ≤ b) :
    readByte (writeBytes m a bs) b = readByte m b := by
  induction bs generalizing m a with
  | nil => rfl
  | cons v r ih =>
    have h1 : b ≠ a := by simp at hb; omega
    have := ih (m := writeByte m a v) (a := a + 1) (writeByte_wf a v h) (by simp at hb; omega)
    simp only [writeBytes, this, readByte_writeByte_other h h1]

end Sys2Proof.Machine
end

