-- ==== Sys2Proof/Laws/Ops.lean ====
section
/-! SUPPORT. What each operation of the module that several rows share can do, said once: which of the queue, the time and the record copies it
leaves; when a command's row acts; what the operations over memory keep. -/

namespace Sys2Proof.Machine
open Sys2Proof

/-! ### What an operation of the module leaves -/

/-- The queue, the time and the record copies are as they were. -/
structure State.Same (s t : State) : Prop where
  pending : t.pending = s.pending
  now : t.now = s.now
  copies : t.mc.copies = s.mc.copies

theorem State.Same.refl (s : State) : s.Same s := ⟨rfl, rfl, rfl⟩

theorem State.Same.trans {s t u : State} (a : s.Same t) (b : t.Same u) : s.Same u :=
  ⟨b.pending.trans a.pending, b.now.trans a.now, b.copies.trans a.copies⟩

/-- A fold of steps each of which leaves them does. -/
theorem State.Same.foldl {α : Type} (f : State → α → State) (h : ∀ (s : State) (a : α), s.Same (f s a)) (l : List α) (s : State) : s.Same (l.foldl f s) := by
  induction l generalizing s with
  | nil => exact .refl s
  | cons a l ih => exact (h s a).trans (ih (f s a))

theorem State.Same.ite {s t u : State} {p : Prop} [Decidable p] (a : s.Same t) (b : s.Same u) : s.Same (if p then t else u) := by
  split
  · exact a
  · exact b

theorem mc_same (s : State) (m : ModCtl) (h : m.copies = s.mc.copies) : s.Same { s with mc := m } := ⟨rfl, rfl, h⟩

theorem setStack_same (s : State) (i : StackIx) (x : Stack) : s.Same (s.setStack i x) := ⟨rfl, rfl, rfl⟩

theorem onStack_same (s : State) (i : StackIx) (f : Stack → Stack) : s.Same (s.onStack i f) := ⟨rfl, rfl, rfl⟩

theorem onStacks_same (s : State) (l : List StackIx) (f : Stack → Stack) : s.Same (s.onStacks l f) :=
  .foldl _ (fun s i => onStack_same s i f) l s

theorem onLive_same (s : State) (i : StackIx) (f : Stack → Stack) : s.Same (onLive s i f) := .ite (.refl s) (onStack_same s i f)

theorem updateFaultL_same (s : State) : s.Same (updateFaultL s) := ⟨rfl, rfl, rfl⟩

theorem sendEvent_same (s : State) (e : Event) : s.Same (sendEvent s e) := by
  unfold sendEvent
  split
  · exact .refl s
  · exact ⟨rfl, rfl, rfl⟩

theorem say_same (s : State) (l : List Byte) : s.Same (say s l) := ⟨rfl, rfl, rfl⟩

theorem replyAll_same (s : State) (i : StackIx) (c : Cmd) (status : Nat) (r : List Word) (d : List Byte) : s.Same (replyAll s i c status r d) :=
  onStack_same _ _ _

theorem answerAll_same (s : State) (cs : List (StackIx × Cmd)) (tick : Word) (status : Nat) (r : List Word) :
    s.Same (answerAll s cs tick status r) := by
  unfold answerAll
  exact .foldl _ (fun _ _ => onStack_same _ _ _) _ _

/-! ### The job of a partition -/

theorem endJob_same (s : State) (p : Nat) : s.Same (endJob s p) := by
  unfold endJob
  dsimp only
  split
  · exact .refl s
  · refine .trans ?_ (.ite (.trans (onStacks_same _ _ _) (answerAll_same _ _ _ _ _)) (.refl _))
    exact ((onStacks_same _ _ _).trans (answerAll_same _ _ _ _ _)).trans (answerAll_same _ _ _ _ _)

theorem finishDisable_same (s : State) (p : Nat) : s.Same (finishDisable s p) := by
  unfold finishDisable
  dsimp only
  split
  · exact .refl s
  · exact (onStacks_same _ _ _).trans (answerAll_same _ _ _ _ _)

theorem finishQuiesce_same (s : State) : s.Same (finishQuiesce s) := by
  unfold finishQuiesce
  refine .trans (.foldl _ (fun s i => onStack_same s i _) allStacks s) (.foldl _ (fun s e => ?_) _ _)
  exact .ite (onStack_same _ _ _) (.refl _)

theorem settleJob_same (s : State) (p : Nat) : s.Same (settleJob s p) :=
  ((endJob_same s p).trans (finishDisable_same _ _)).trans (finishQuiesce_same _)

theorem onMember_same (s : State) (i : StackIx) (f : Stack → Stack) : s.Same (onMember s i f) :=
  (onStack_same s i f).trans (settleJob_same _ _)

theorem withdrawAll_same (s : State) (i : StackIx) : s.Same (withdrawAll s i) := .ite (onStacks_same _ _ _) (.refl _)

theorem abortPart_same (s : State) (i : StackIx) : s.Same (abortPart s i) :=
  (withdrawAll_same s i).trans (.foldl _ (fun s j => .ite (onMember_same s j _) (.refl s)) _ _)

theorem quiesceAt_same (abort all : Bool) (s : State) (i : StackIx) : s.Same (quiesceAt abort all s i) := by
  unfold quiesceAt
  dsimp only
  split
  · exact .refl s
  · have h : ∀ x : Stack, s.Same (withdrawAll (State.setStack { s with mc := { s.mc with blue := 1 } } i x) i) := fun x =>
      ((mc_same s _ (by rfl)).trans (setStack_same _ _ _)).trans (withdrawAll_same _ _)
    exact (h _).trans (.ite (abortPart_same _ _) (.refl _))

/-! ### Resets -/

theorem resetLeaf_same (s : State) (i : StackIx) : s.Same (resetLeaf s i) := setStack_same _ _ _

theorem startBase_same (s : State) (i : StackIx) (cause : Nat) : s.Same (startBase s i cause) := (onMember_same _ _ _).trans (resetLeaf_same _ _)

theorem blueOff_same (s : State) : s.Same (blueOff s) := .ite ⟨rfl, rfl, rfl⟩ (.refl s)

theorem startStack_same (s : State) (i : StackIx) (cause : Nat) : s.Same (startStack s i cause) :=
  (((withdrawAll_same s i).trans (onMember_same _ _ _)).trans (resetLeaf_same _ _)).trans (blueOff_same _)

theorem startReset_same (s : State) (i : StackIx) (d core : Nat) (cmd : CmdRef) : s.Same (startReset s i d core cmd) := by
  unfold startReset
  split
  · exact startStack_same _ _ _
  · exact startBase_same _ _ _
  · exact onMember_same _ _ _
  · exact onMember_same _ _ _
  · exact onMember_same _ _ _
  · exact .refl s

theorem moduleOff_same (s : State) : s.Same (moduleOff s) := by
  unfold moduleOff
  dsimp only
  exact ((State.Same.foldl _ (fun s i => onStack_same s i powerOff) allStacks s).trans (mc_same _ _ (by rfl))).trans (updateFaultL_same _)

theorem activate_same (s : State) (i : StackIx) (cmd : Option CmdRef) : s.Same (activate s i cmd) :=
  by
    unfold activate
    exact ((onStack_same _ _ _).trans (startBase_same _ _ _)).trans (onStack_same _ _ _)

theorem activateNext_same (s : State) (n : Nat) : s.Same (activateNext s n) := by
  unfold activateNext
  split
  · exact (activate_same _ _ _).trans (mc_same _ _ (by rfl))
  · exact mc_same _ _ (by rfl)

theorem coldExit_same (s : State) (i : StackIx) : s.Same (coldExit s i) := by
  unfold coldExit
  exact (onStack_same _ _ _).trans (updateFaultL_same _)

/-! ### Bring-up, licences, images -/

theorem queueFlash_same (s : State) (i : StackIx) : s.Same (queueFlash s i) := .ite (.refl s) (mc_same s _ (by rfl))

theorem enterReady_same (s : State) (i : StackIx) : s.Same (enterReady s i) :=
  .ite (((setStack_same _ _ _).trans (onStack_same _ _ _)).trans (queueFlash_same _ _)) ((setStack_same _ _ _).trans (onStack_same _ _ _))

theorem settleLicence_same (s : State) : s.Same (settleLicence s) := .ite (.refl s) (.foldl _ (fun s i => onStack_same s i _) allStacks s)

theorem askSource_same (s : State) (i : StackIx) : s.Same (askSource s i) := by
  unfold askSource
  dsimp only
  split
  · exact .refl s
  · split
    · exact .refl s
    · exact .ite (.refl s) (setStack_same _ _ _)

theorem nextSource_same (s : State) (i : StackIx) : s.Same (nextSource s i) := by
  unfold nextSource
  dsimp only
  split
  · exact .refl s
  · exact (setStack_same _ _ _).trans (askSource_same _ _)

theorem toProofing_same (s : State) (i : StackIx) (bs : List Byte) (source : Nat) : s.Same (toProofing s i bs source) := onStack_same _ _ _

theorem fetchReply_same (s : State) (i : StackIx) (k : Packet) (f : Fetch) : s.Same (fetchReply s i k f) := by
  have go : ∀ (t : State), s.Same t → ∀ p : Prop, [Decidable p] → s.Same (if p then askSource t i else t) :=
    fun t h p _ => .ite (h.trans (askSource_same t i)) h
  unfold fetchReply
  dsimp only
  repeat' split
  all_goals first
    | exact nextSource_same _ _
    | exact (setStack_same _ _ _).trans (askSource_same _ _)
    | exact setStack_same _ _ _
    | exact .refl s

theorem learnPeers_same (s : State) : s.Same (learnPeers s) := .foldl _ (fun t i => onStack_same t i _) allStacks s

theorem assignId_same (s : State) (i : StackIx) (d : Nat) : s.Same (assignId s i d) := (onStack_same _ _ _).trans (learnPeers_same _)

theorem toReady_same (s : State) (i : StackIx) : s.Same (toReady s i) := (onStack_same _ _ _).trans (enterReady_same _ _)

theorem compareTopology_same (s : State) (i : StackIx) (want : List Byte) : s.Same (compareTopology s i want) :=
  .ite (toReady_same _ _) (onStack_same _ _ _)

theorem expectAt_same (want : List Byte) (i : StackIx) (s : State) : s.Same (expectAt want i s).2 := by
  unfold expectAt
  dsimp only
  split
  · exact .refl s
  · exact compareTopology_same _ _ _
  · split
    · exact compareTopology_same _ _ _
    · exact .refl s
  · exact .refl s

theorem admitPorts_same (s : State) : s.Same (admitPorts s) := onStacks_same _ _ _

theorem chunkAt_same (c : FwChunk) (i : StackIx) (s : State) : s.Same (chunkAt c i s).2 := by
  unfold chunkAt
  dsimp only
  split
  · exact .refl s
  · split
    · exact .refl s
    · exact setStack_same _ _ _

theorem setCap_same (s : State) (i : StackIx) (n : Nat) : s.Same (setCap s i n) := by
  unfold setCap
  exact .ite (.refl s) ((mc_same s _ (by rfl)).trans (onStack_same _ _ _))

/-- A command carried out on its targets leaves what its effect on each leaves. -/
theorem onTargets_same (s : State) (ts : List StackIx) (f : StackIx → State → Nat × State) (h : ∀ (i : StackIx) (s : State), s.Same (f i s).2) :
    s.Same (onTargets s ts f).2 := by
  have key : ∀ (l : List StackIx) (a : Nat × State), a.2.Same (l.foldl (fun (a : Nat × State) i =>
      let (st, s) := if (a.2.stack i).boot = .off then (stState, a.2) else f i a.2
      (if a.1 = stOk then st else a.1, s)) a).2 := by
    intro l
    induction l with
    | nil => exact fun a => .refl _
    | cons i l ih =>
      intro a
      refine .trans ?_ (ih _)
      dsimp only
      split
      · exact .refl _
      · exact h i a.2
  exact key ts (stOk, s)

theorem runTargets_same (s : State) (st : StackIx) (c : Cmd) (f : StackIx → State → Nat × State) (h : ∀ (i : StackIx) (s : State), s.Same (f i s).2) :
    s.Same (runTargets s st c f) := by
  unfold runTargets
  dsimp only
  refine .trans (onTargets_same s _ _ fun i t => ?_) (replyAll_same _ _ _ _ _ _)
  split
  · exact .refl t
  · exact h i t

/-- What a command does as one leaves what its effect leaves. -/
theorem asOne_same (s : State) (st : StackIx) (c : Cmd) (f : State → State) (h : s.Same (f s)) : s.Same (asOne s st c f) :=
  .ite (replyAll_same _ _ _ _ _ _) h

/-! ### Registers, the control window, packets -/

theorem registerWrite_same (s : State) (i : StackIx) (off : Nat) (v : Word) : s.Same (registerWrite s i off v) :=
  .ite (.refl s) (.ite ((onStack_same _ _ _).trans (updateFaultL_same _)) (onStack_same _ _ _))

theorem controlAccess_same (s : State) (i : StackIx) (a : Access) : s.Same (controlAccess s i a) := by
  unfold controlAccess
  split
  · split
    · dsimp only
      split
      · exact setStack_same _ _ _
      · refine .trans ?_ (onStack_same _ _ _)
        exact .ite ((setStack_same _ _ _).trans (registerWrite_same _ _ _ _)) (setStack_same _ _ _)
    · exact .refl s
  · exact .refl s

theorem settleControl_same (s : State) (i : StackIx) : s.Same (settleControl s i) := .foldl _ (fun s a => controlAccess_same s i a) _ s

/-! ### Faults, the copies of their records -/

theorem actSeverity_same (s : State) (i : StackIx) (r : Raise) (x : Record) : s.Same (actSeverity s i r x) := by
  unfold actSeverity
  dsimp only
  split
  · exact .refl s
  · have a : s.Same (if jobRuns (s.stack i) = true then onMember s i (fun st =>
          abortJob s.now (match r.core with
            | some c => if (r.attributed && (st.core c).participating) = true then faultCore st c (faultReport st r) x.sev else st
            | none => st) none r.source) else s) := .ite (onMember_same _ _ _) (.refl s)
    refine .ite a (a.trans (.trans ?_ (sendEvent_same _ _)))
    exact .foldl _ (fun s j => .ite (onMember_same s j _) (.refl s)) _ _

/-- The queue and the time are as they were, and no stack has more than 256 record copies if none had. -/
structure State.Kept (s t : State) : Prop where
  pending : t.pending = s.pending
  now : t.now = s.now
  copies : s.copiesBounded → t.copiesBounded

theorem State.Same.kept {s t : State} (h : s.Same t) : s.Kept t :=
  ⟨h.pending, h.now, fun b i => by rw [h.copies]; exact b i⟩

theorem State.Kept.trans {s t u : State} (a : s.Kept t) (b : t.Kept u) : s.Kept u :=
  ⟨b.pending.trans a.pending, b.now.trans a.now, fun h => b.copies (a.copies h)⟩

theorem State.Kept.foldl {α : Type} (f : State → α → State) (h : ∀ (s : State) (a : α), s.Kept (f s a)) (l : List α) (s : State) : s.Kept (l.foldl f s) := by
  induction l generalizing s with
  | nil => exact (State.Same.refl s).kept
  | cons a l ih => exact (h s a).trans (ih (f s a))

theorem ite_kept {s t u : State} {p : Prop} [Decidable p] (a : s.Kept t) (b : s.Kept u) : s.Kept (if p then t else u) := by
  split
  · exact a
  · exact b

/-- The copies of one stack replaced by at most 256. -/
theorem setCopies_kept (s : State) (i : StackIx) (l : List Record) (h : s.copiesBounded → l.length ≤ 256) :
    s.Kept { s with mc := { s.mc with copies := s.mc.copies.set i l } } := by
  refine ⟨rfl, rfl, fun b j => ?_⟩
  by_cases e : j = i
  · subst e
    simpa using h b
  · simpa [Quad.get_set_other _ _ e] using b j

theorem keepCopy_kept (s : State) (i : StackIx) (x : Record) : s.Kept (keepCopy s i x) := by
  unfold keepCopy
  dsimp only
  split
  next h => exact setCopies_kept s i _ (fun _ => by simp [maxKept] at h ⊢; omega)
  next => exact (State.Same.refl s).kept

theorem countCopy_kept (s : State) (i : StackIx) (x : Record) : s.Kept (countCopy s i x) :=
  setCopies_kept s i _ (fun b => by simpa using b i)

theorem clearRecords_kept (s : State) (i : StackIx) (all : Bool) (p : Record → Bool) : s.Kept (clearRecords s i all p) := by
  unfold clearRecords
  refine .trans (setStack_same s i _).kept (.trans (setCopies_kept _ i _ (fun b => ?_)) (updateFaultL_same _).kept)
  exact Nat.le_trans (List.length_filter_le _ _) (b i)

theorem arrive_kept (s : State) (i : StackIx) (r : Raise) : s.Kept (arrive s i r) := by
  unfold arrive
  dsimp only
  split
  · exact .trans (setStack_same _ _ _).kept (countCopy_kept _ _ _)
  · have h : ∀ (p : Prop) [Decidable p] (c : Stack) (x : Record),
        s.Kept (if p then keepCopy (s.setStack i c) i x else s.setStack i c) := fun _ _ _ _ =>
      ite_kept ((setStack_same _ _ _).kept.trans (keepCopy_kept _ _ _)) (setStack_same _ _ _).kept
    exact (h _ _ _).trans ((actSeverity_same _ _ _ _).trans (updateFaultL_same _)).kept

theorem faultArrive_kept (s : State) (i : StackIx) : s.Kept (faultArrive s i) := by
  unfold faultArrive
  dsimp only
  split
  · exact (State.Same.refl s).kept
  · have a : ∀ r x, s.Kept (arrive (s.setStack i x) i r) := fun r x => (setStack_same _ _ _).kept.trans (arrive_kept _ _ _)
    exact ite_kept ((a _ _).trans (onStack_same _ _ _).kept) (a _ _)

theorem raiseModule_kept (s : State) (source : Nat) : s.Kept (raiseModule s source) := by
  refine .foldl _ (fun s i => ?_) allStacks s
  split
  · exact (State.Same.refl s).kept
  · exact arrive_kept _ _ _

theorem writeTraining_same (s : State) (i : StackIx) : s.Same (writeTraining s i) := ⟨rfl, rfl, rfl⟩

theorem reportGeometry_same (old s : State) : s.Same (reportGeometry old s) := by
  refine .foldl _ (fun s i => ?_) allStacks s
  exact .ite (.refl s) ((mc_same s _ (by rfl)).trans (sendEvent_same _ _))

/-! ### Coolant and heat -/

theorem sayDecline_same (s : State) : s.Same (sayDecline s) := by
  unfold sayDecline
  split
  · exact (sendEvent_same _ _).trans (mc_same _ _ (by rfl))
  · exact .refl s

theorem sayLow_same (s : State) : s.Same (sayLow s) := by
  unfold sayLow
  split
  · exact (sendEvent_same _ _).trans (mc_same _ _ (by rfl))
  · exact .refl s

theorem sayWarm_same (s : State) : s.Same (sayWarm s) := by
  unfold sayWarm
  split
  · exact (sendEvent_same _ _).trans (mc_same _ _ (by rfl))
  · exact .refl s

theorem repeatMessage_same (s : State) (m : Nat) : s.Same (repeatMessage s m) :=
  .ite (.ite (sayDecline_same s) (.refl s)) (.ite (.ite (sayLow_same s) (.refl s)) (.ite (sayWarm_same s) (.refl s)))

theorem derateLift_same (s : State) (m : Nat) : s.Same (derateLift s m) :=
  .ite (.ite ⟨rfl, rfl, rfl⟩ (.refl s)) (.ite ⟨rfl, rfl, rfl⟩ (.refl s))

theorem loadCoolant_same (s : State) : s.Same (loadCoolant s) := by
  unfold loadCoolant
  split
  · exact .refl s
  · exact .foldl _ (fun s i => onStack_same s i _) allStacks s

theorem stopDeadline_same (s : State) : s.Same (stopDeadline s) := by
  unfold stopDeadline
  exact .ite (.refl s) ((mc_same s _ (by rfl)).trans (.foldl _ (fun s i => .ite (.refl s) (onMember_same s i _)) allStacks _))

theorem holdEnd_same (s : State) : s.Same (holdEnd s) := by
  unfold holdEnd
  exact .ite (.refl s) ((mc_same s _ (by rfl)).trans (.foldl _ (fun _ _ => onStack_same _ _ _) allStacks _))

theorem sampleEvents_same (old : Stack) (i : StackIx) (s : State) (x : SensorSample) : s.Same (sampleEvents old i s x) := by
  have a : ∀ (p : Prop) [Decidable p] (e : Event), s.Same (if p then sendEvent s e else s) := fun p _ e => .ite (sendEvent_same s e) (.refl s)
  exact .ite (.trans (a _ _) ⟨rfl, rfl, rfl⟩) (a _ _)

theorem coolConditions_kept (s : State) (q tin : Rat) : s.Kept (coolConditions s q tin) := by
  have hm : ∀ (t : State) (c : CoolCtl), t.Same { t with mc := { t.mc with cool := c } } := fun _ _ => ⟨rfl, rfl, rfl⟩
  have low : ∀ (t : State) (p : Prop) [Decidable p], t.Kept (if p then sayLow (raiseModule t fCoolantLow) else t) := fun t p _ =>
    ite_kept ((raiseModule_kept t _).trans (sayLow_same _).kept) (State.Same.refl t).kept
  have warm : ∀ (t : State) (p : Prop) [Decidable p], t.Kept (if p then sayWarm (raiseModule t fCoolantWarm) else t) := fun t p _ =>
    ite_kept ((raiseModule_kept t _).trans (sayWarm_same _).kept) (State.Same.refl t).kept
  have dec : ∀ (t : State) (p : Prop) [Decidable p], t.Kept (if p then sayDecline t else t) := fun t p _ =>
    ite_kept (sayDecline_same t).kept (State.Same.refl t).kept
  exact ((((hm _ _).kept.trans (low _ _)).trans (warm _ _)).trans (hm _ _).kept).trans (dec _ _)

theorem coolantStop_kept (s : State) : s.Kept (coolantStop s) := by
  unfold coolantStop
  refine .trans (t := raiseModule _ _) (.trans (t := List.foldl _ _ _) ?_ (raiseModule_kept _ _))
    (State.Same.foldl _ (fun s i => .ite (.refl s) (onMember_same s i _)) allStacks _).kept
  exact (((mc_same s _ (by rfl)).trans (sendEvent_same _ _)).trans (.foldl _ (fun _ _ => onStack_same _ _ _) allStacks _)).kept

theorem coolantSample_kept (s : State) (x : Coolant) : s.Kept (coolantSample s x) := by
  have hm : ∀ (t : State) (c : CoolCtl), t.Kept { t with mc := { t.mc with cool := c } } := fun _ _ => State.Same.kept ⟨rfl, rfl, rfl⟩
  unfold coolantSample
  dsimp only
  split
  · exact (State.Same.refl s).kept
  · split
    · exact hm _ _
    · split
      · exact .trans (hm _ _) (hm _ _)
      · have a : ∀ (t : State) (p : Prop) [Decidable p], t.Kept (if p then coolantStop t else t) := fun t p _ =>
          ite_kept (coolantStop_kept t) (State.Same.refl t).kept
        have b : ∀ (t : State) (p : Prop) [Decidable p], t.Kept (if p then loadCoolant t else t) := fun t p _ =>
          ite_kept (loadCoolant_same t).kept (State.Same.refl t).kept
        exact ((((hm _ _).trans (hm _ _)).trans (coolConditions_kept _ _ _)).trans (a _ _)).trans (b _ _)

/-! ### When a command's row acts -/

/-- The row of a started command acts on its stack. -/
theorem onCmd_started {s : State} {st : StackIx} {r : CmdRef} {op : Nat} {k : Cmd} (f : Cmd → Stack → Stack) (h : CmdStarted s st r op k) :
    onCmd s st r op f = .next (s.setStack st (f k (s.stack st))) := by
  obtain ⟨h1, h2, h3⟩ := h
  simp [onCmd, onSt, State.onStack, h1, h2, h3]

/-- The row of a started command acts on the module. -/
theorem onCmdAll_started {s : State} {st : StackIx} {r : CmdRef} {op : Nat} {k : Cmd} (f : Cmd → State → State) (h : CmdStarted s st r op k) :
    onCmdAll s st r op f = .next (f k s) := by
  obtain ⟨h1, h2, h3⟩ := h
  simp [onCmdAll, h1, h2, h3]

/-- With no command of that name started the row changes nothing. -/
theorem onCmd_idle {s : State} {st : StackIx} {r : CmdRef} {op : Nat} (f : Cmd → Stack → Stack) (h : ∀ k, ¬ CmdStarted s st r op k) :
    onCmd s st r op f = .next s := by
  unfold onCmd onSt State.onStack
  dsimp only
  split
  next c e =>
    split
    next g => exact absurd ⟨e, g.1, by simpa using g.2⟩ (h c)
    next => simp
  next => simp

theorem onCmdAll_idle {s : State} {st : StackIx} {r : CmdRef} {op : Nat} (f : Cmd → State → State) (h : ∀ k, ¬ CmdStarted s st r op k) :
    onCmdAll s st r op f = .next s := by
  unfold onCmdAll
  split
  next c e =>
    split
    next g => exact absurd ⟨e, g.1, by simpa using g.2⟩ (h c)
    next => rfl
  next => rfl

/-! ### Memory -/

theorem putLine_wf {s : Stack} (a : Nat) (d : BitVec 4096) (syn : Nat → BitVec 16) (h : Memory.wf s.mem = true) :
    Memory.wf (putLine s a d syn).mem = true := by
  simp only [putLine, writeBytes_wf a _ h]

/-- A line stored keeps the canonical form. -/
theorem writeLine_wf {s : Stack} (a : Nat) (l : Line) (mask : BitVec 512) (h : Memory.wf s.mem = true) :
    Memory.wf (writeLine s a l mask).mem = true := by
  unfold writeLine
  exact putLine_wf a _ _ h

/-- So does a line stored after its read. -/
theorem writeLineSeen_wf {s : Stack} (a : Nat) (l : Line) (mask : BitVec 512) (syn : List (BitVec 16)) (h : Memory.wf s.mem = true) :
    Memory.wf (writeLineSeen s a l mask syn).mem = true := by
  unfold writeLineSeen
  exact putLine_wf a _ _ h

/-- So do the bits that upsets flip. -/
theorem flipDram_wf (u : DramUpsets) {s : Stack} (h : Memory.wf s.mem = true) : Memory.wf (flipDram s u).mem = true := by
  unfold flipDram
  induction u generalizing s with
  | nil => exact h
  | cons x u ih =>
    refine ih ?_
    dsimp only
    split
    · split
      · exact writeByte_wf _ _ h
      · exact h
    · exact h

/-- So does a word copied to a spare. -/
theorem copyWord_wf {s : Stack} (g : Nat) (syn : BitVec 16) (h : Memory.wf s.mem = true) : Memory.wf (copyWord s g syn).mem = true := by
  unfold copyWord
  dsimp only
  split
  · split
    · exact h
    · exact writeBytes_wf _ _ h
  · exact h

theorem reset_memWf : State.reset.memWf = true := by decide

theorem reset_copiesBounded : State.reset.copiesBounded := by
  intro i
  match i with
  | 0 | 1 | 2 | 3 => exact Nat.zero_le _

end Sys2Proof.Machine
end

