-- ==== Sys2Proof/Laws/Shared.lean ====
section
/-! SUPPORT. What the shared operations do that serve a command over several presentations, or on several stacks, case by case: a proof cites
these in place of unfolding the operation. -/

namespace Sys2Proof.Machine
open Sys2Proof

/-! ### READ, WRITE, FILL and COPY over their presentations -/

section Bulk
variable {now : Nat} {s : Stack} {c : CmdRef} {begin_ : Stack → Stack ⊕ (Tbl (Nat × Nat) × Tbl (Nat × Nat))}
  {data : BulkRun → Nat → Option (Line × BitVec 512 × Option Nat)} {finish : Stack → BulkRun → Stack}

theorem runBulk_held (h : columnsHeld s = true) : runBulk now s c begin_ data finish = s := by simp [runBulk, h]

theorem runBulk_refused {t : Stack} (h : columnsHeld s = false) (hb : bulkOf s c = none) (ht : begin_ s = .inl t) :
    runBulk now s c begin_ data finish = t := by simp [runBulk, h, hb, ht]

theorem runBulk_begins {r w : Tbl (Nat × Nat)} (h : columnsHeld s = false) (hb : bulkOf s c = none) (ht : begin_ s = .inr (r, w)) :
    runBulk now s c begin_ data finish = beginBulk (beginCmd s c) c r w := by simp [runBulk, h, hb, ht]

theorem runBulk_ends {b : BulkRun} (h : columnsHeld s = false) (hb : bulkOf s c = some b) (ho : bulkOver b = true) :
    runBulk now s c begin_ data finish = finish { s with bulk := s.bulk.filter (fun x => decide (x.id ≠ b.id)) } b := by
  simp [runBulk, h, hb, ho]

theorem runBulk_goes {b : BulkRun} (h : columnsHeld s = false) (hb : bulkOf s c = some b) (ho : bulkOver b = false) :
    runBulk now s c begin_ data finish = bulkStep now s b data := by simp [runBulk, h, hb, ho]

end Bulk

/-- A memory command that has started has its effect, whether it has begun or not. -/
theorem onBulk_started {s : State} {st : StackIx} {r : CmdRef} {op : Nat} {c : Cmd} (f : Cmd → Stack → Stack)
    (h : startedCmd (s.stack st) r = some c) (ho : c.op = op) : onBulk s st r op f = onSt s st (f c) := by
  simp [onBulk, onSt, State.onStack, h, ho]

/-! ### The KV engine -/

theorem kvMay_acts {now row : Nat} {src : Option KvSource} {s : Stack} {f : Stack → Stack}
    (h : kvReady s (f (kvSees s (kvAskedBy s src))) src = true) :
    kvMay now src row s f = kvDone s (f (kvSees s (kvAskedBy s src))) src := by simp [kvMay, h]

theorem kvMay_asks {now row : Nat} {src : Option KvSource} {s : Stack} {f : Stack → Stack}
    (h : kvReady s (f (kvSees s (kvAskedBy s src))) src = false) :
    kvMay now src row s f = (kvMissing s (f (kvSees s (kvAskedBy s src))) src).foldl (kvAsk now src row) s := by simp [kvMay, h]

/-! ### Commands on several stacks -/

theorem gate_self (s : State) (st : StackIx) (c : Cmd) : gate s st c st = stOk := by simp [gate]

theorem asOne_acts {s : State} {st : StackIx} {c : Cmd} {f : State → State} (h : gates s st c = stOk) : asOne s st c f = f s := by
  simp [asOne, h]

theorem asOne_refuses {s : State} {st : StackIx} {c : Cmd} {f : State → State} {e : Nat} (h : gates s st c = e) (he : e ≠ stOk) :
    asOne s st c f = replyAll s st c e [] [] := by simp [asOne, h, he]

/-! ### Events -/

theorem sendEvent_none {s : State} {e : Event} (h : s.mc.receiver = none) : sendEvent s e = s := by simp [sendEvent, h]

@[simp] theorem sendEvent_stack (s : State) (e : Event) (i : StackIx) : (sendEvent s e).stack i = s.stack i := by
  unfold sendEvent; split <;> rfl

@[simp] theorem sendEvent_pwrGood (s : State) (e : Event) : (sendEvent s e).mc.pwrGood = s.mc.pwrGood := by
  unfold sendEvent; split <;> rfl

/-! ### Migration -/

theorem migrationComplete_idle {now c : Nat} {s : Stack} (h : s.mend.moves = []) : migrationComplete now s c = s := by
  simp [migrationComplete, h]

theorem migrationComplete_other {now c d p : Nat} {s : Stack} {rest : List (Nat × Nat)} (h : s.mend.moves = (d, p) :: rest) (hd : d ≠ c) :
    migrationComplete now s c = s := by simp [migrationComplete, h, hd]

end Sys2Proof.Machine
end

