-- ==== Sys2Proof/Tests/Slice0.lean ====
section
/-! SUPPORT. Tests: an ill-formed command for every check of WellFormed, the manual's worked examples, and for every statement that has
hypotheses a state and operands that meet them. -/

namespace Sys2Proof.Tests
open Sys2Proof Sys2Proof.Machine
set_option Elab.async false

/-- What the state after a command satisfies. -/
def after (i : Instr) (s : State) (p : State → Bool) : Bool := match exec i s with | .next t => p t | _ => false

/-! ### Ill-formed commands -/

def c0 : CoreAt := ⟨0, 0⟩
def lk : LinkAt := ⟨0, 0⟩
def ref0 : CmdRef := ⟨0, 0⟩

theorem test_wf_upsets : (Instr.seqFetchDispatch c0 [(2 ^ 43, false)]).wf = false := by decide
theorem test_wf_dramWord : (Instr.vaultGrant ⟨0, 0⟩ 0 [(2 ^ 43, 0)]).wf = false := by decide
theorem test_wf_dramBit : (Instr.vaultGrant ⟨0, 0⟩ 0 [(0, 272)]).wf = false := by decide
theorem test_wf_packetFields : ∀ k ∈ [({ ty := .rd, tag := 2 ^ 14 } : Packet), { ty := .rd, src := 2 ^ 16 }, { ty := .rd, dst := 2 ^ 16 },
    { ty := .rd, status := 2 ^ 16 }, { ty := .rd, addr := 2 ^ 48 }, { ty := .rd, backoff := 2 ^ 16 }, { ty := .rd, rlen := 1024 },
    { ty := .rd, atype := 8 }, { ty := .rd, hops := 256 }, { ty := .rd, domain := 2 ^ 16 }, { ty := .rd, tick := 2 ^ 16 },
    { ty := .rd, entry := 256 }, { ty := .rd, mlo := 256 }, { ty := .rd, mhi := 256 }], (Instr.rd lk k).wf = false := by decide
theorem test_wf_packetData : (Instr.wr lk { ty := .wr, data := List.replicate 513 0 }).wf = false := by decide +kernel
theorem test_wf_issuer : (Instr.identify 0 ⟨0x10001, 0⟩).wf = false := by decide
theorem test_wf_kvIssuer : (Instr.kvFree 0 (.issuer ⟨0x10001, 0⟩)).wf = false := by decide
theorem test_wf_samples : (Instr.sensorSample 0 [⟨3, 0, 0⟩, ⟨3, 1, 1⟩]).wf = false := by decide
theorem test_wf_chunk : (Instr.requestFirmwareData ⟨4096, 4097, false, [0, 0]⟩).wf = false := by decide
theorem test_wf_proofing : (Instr.proofingComplete 0 ⟨[], Quad.all ⟨true, 0xFF, 0, false, ⟨0, [], none⟩⟩, Quad.all ⟨true, 0xFF, 0, false, ⟨0, [], none⟩⟩, (true, true),
    [(3, [1]), (3, [2])], [], []⟩).wf = false := by decide
theorem test_wf_flips : (Instr.passStepComplete c0 [⟨2048, 0, 0⟩]).wf = false ∧ (Instr.passStepComplete c0 [⟨0, 512, 0⟩]).wf = false := by decide
theorem test_wf_coolant : (Instr.coolantSample ⟨65536, 0, 0⟩).wf = false := by decide
theorem test_wf_coils : (Instr.coilTest ⟨0, 0⟩ ⟨[7, 7]⟩).wf = false := by decide
theorem test_wf_sensor : (Instr.pldmSensorRead 65536).wf = false := by decide
theorem test_wf_good : (Instr.rd lk { ty := .rd, tag := 2 ^ 14 - 1, src := 0xFFFF, addr := 2 ^ 48 - 1 }).wf = true
    ∧ (Instr.identify 0 ⟨0x10000, 0⟩).wf = true := by decide

/-! ### The manual's worked examples -/

/-- "Worked: two instructions from one tick" (07): the PASS and the SEND. -/
theorem test_word_pass : decodeCore 0x00800220016018000000000000000000#128 = some (.pass ⟨0x011, 0x016, 0x018, 0, 0⟩) := by decide
theorem test_word_send : decodeCore 0xA0A00004000000750000000000000000#128 = some (.send ⟨.pop 4, 7, 5, .east⟩) := by decide

/-- "Worked: two values through ZL8" (03): 10.0 is code 0x5B, whose value is FP32 0x4125_FED7. -/
theorem test_zl8_code : convertCode .fp32 .zl8 false .rne 0x41200000 = 0x5B := by decide +kernel
theorem test_zl8_value : convertCode .zl8 .fp32 false .rne 0x5B = 0x4125FED7 := by decide +kernel
theorem test_zl8_product : f32Round (product .zl8 .zl8 0x5B 0xB4 (some 0) (some 0)) = 0xC06AC0C7#32 := by decide +kernel

/-- "Worked: a scaled product" (03): 0.46875 is FP32 0x3EF0_0000. -/
theorem test_scaled_product : f32Round (product .e2m1 .e4m3 0x7 0x2A (e8m0 0x7C) (e8m0 0x80)) = 0x3EF00000#32 := by decide +kernel

/-- "Worked: FP32 0.3 to E4M3" and "stochastic rounding of FP32 1.2 to E4M3" (03). -/
theorem test_e4m3_nearest : convertCode .fp32 .e4m3 false .rne 0x3E99999A = 0x2A := by decide +kernel
theorem test_e4m3_stochastic : convertCode .fp32 .e4m3 false (.stoch 0x800000) 0x3F99999A = 0x3A
    ∧ convertCode .fp32 .e4m3 false (.stoch 0xA00000) 0x3F99999A = 0x39 := by decide +kernel

/-- "Worked: one word, and a row-decoder fault" (09): the check value of the word, the bit restored, the wrong row detected. -/
theorem test_check_word : check 1#256 0x1442003 false = 0x0C54#16 := by decide +kernel
theorem test_check_bit : decodeWord 0#256 (check 0#256 0x1442003 false ^^^ 0x0C54#16) = (1#256, false, .corrected) := by decide +kernel
theorem test_check_row : check 0#256 0x1442013 false ^^^ check 0#256 0x1442003 false = 0x0006#16
    ∧ (decodeWord 0#256 0x0006#16).2.1 = true := by decide +kernel
theorem test_ecc_log : eccLog (65549 * 512) 3 0x0006#16 = 0x801000D300000006#64 := by decide +kernel

/-- ID_ROW_MAP3 after the failure of M-site 5 (01), ID_ROW_MAP6 after that of M-site 13 (16). -/
theorem test_row_map : rowMapAfter 0x71F#64 0x20#64 = 0x705#64 ∧ rowMapAfter 0x71F#64 0x2000#64 = 0x70D#64 := by decide +kernel

/-! ### States that meet the hypotheses of the statements: cores -/

/-- Stack 0 changed at reset. -/
def on0 (f : Stack → Stack) : State := State.reset.onStack 0 f

/-- Core 0 of stack 0 running, and changed. -/
def running (f : Core → Core) : State := on0 (fun x => x.onCore 0 (fun k => f { k with run := .running }))

/-- Core 0 running with an instruction held by its sequencer. -/
def held (o : CoreOp) : State := running (fun k => { k with seqCur := some o })

/-- An operation that its engine has started. -/
def started (o : CoreOp) : QEntry := ⟨0, some o, true, false, 0, 0, {}, none⟩

def frame (n : Nat) : LoopFrame := ⟨16, 32, n⟩

/-- SequencerRunsItsOwn: each instruction held; a loop with turns left and at its last; loops of count 0, of the largest count, with four open. -/
theorem test_hyp_sequencer : ((held (.seq .nop)).coreAt c0).run = .running ∧ ((held (.seq .nop)).coreAt c0).seqCur = some (.seq .nop)
    ∧ ((held (.seq (.phase 255))).coreAt c0).seqCur = some (.seq (.phase (bv 8 255))) ∧ ((held (.seq (.br 16))).coreAt c0).seqCur = some (.seq (.br 16))
    ∧ ((held (.seq .halt)).coreAt c0).seqCur = some (.seq .halt) := by decide
theorem test_hyp_endloop : ∀ n : Fin 3, ∃ s : State, (s.coreAt c0).run = .running ∧ (s.coreAt c0).seqCur = some (.seq .endloop)
    ∧ (s.coreAt c0).loops = [frame n.val] := fun n => ⟨running (fun k => { k with seqCur := some (.seq .endloop), loops := [frame n.val] }), rfl, rfl, rfl⟩
theorem test_hyp_loop : ∀ n ∈ [0#32, 1#32, 0xFFFFFFFF#32], ∀ l ∈ [[], List.replicate 3 (frame 1), List.replicate 4 (frame 1)], ∃ s : State,
    (s.coreAt c0).run = .running ∧ (s.coreAt c0).seqCur = some (.seq (.loop .none n 64)) ∧ (s.coreAt c0).loops = l := fun n _ l _ =>
  ⟨running (fun k => { k with seqCur := some (.seq (.loop .none n 64)), loops := l }), rfl, rfl, rfl⟩

/-- SequencerPopsAValue. -/
theorem test_hyp_brc : ((held (.seq (.brc (.pop 3) 16 true))).coreAt c0).run = .running
    ∧ ((held (.seq (.brc (.pop 3) 16 true))).coreAt c0).seqCur = some (.seq (.brc (.pop 3) 16 true)) := by decide
theorem test_hyp_looppop : ((held (.seq (.loop (.pop 3) 0 16))).coreAt c0).seqCur = some (.seq (.loop (.pop 3) 0 16))
    ∧ ((held (.seq (.loop (.pop 3) 0 16))).coreAt c0).loops.length < 4 := by decide

/-- A core with one line of code that holds instruction word `w` at its start: CODE_ENTRY 0, CODE_END 512. -/
def coded (w : Nat) (k : Core) : State := on0 (fun x =>
  { x.onCore 0 (fun _ => { k with run := .running, valid := 3 }) with
    mem := writeBytes (writeBytes [] (imemAddr 0 128) (natBytes 8 (512 * 2 ^ 32 + 256))) (imemAddr 0 256) (natBytes 16 w) })

/-- FetchAndDispatch: at the end of the code, inside it; a poisoned word; an instruction of the sequencer, of an engine with room and without. -/
theorem test_hyp_fetch_outside : seqFree ((running id).coreAt c0) = true ∧ ((running id).stack 0).tick.phase ≠ .starting
    ∧ fetchable ((running id).stack 0) 0 ((running id).coreAt c0).pc = false := by decide +kernel
theorem test_hyp_fetch_seq : let s := coded 0xE0000000000000000000000000000000 { Core.reset with pc := 256 }
    seqFree (s.coreAt c0) = true ∧ fetchable (s.stack 0) 0 256 = true ∧ markOf (s.stack 0) (imemAddr 0 256 / 32) = 0
    ∧ decodeCore (imemWord (s.stack 0) 0 256) = some (.seq .nop) := by decide +kernel
theorem test_hyp_fetch_op : let s := coded 0x00800220016018000000000000000000 { Core.reset with pc := 256 }
    ∃ o, decodeCore (imemWord (s.stack 0) 0 256) = some o ∧ dispatchRoom (s.coreAt c0) o = true ∧ opEngine o ≠ .seq ∧ opEngine o ≠ .fx :=
  ⟨.pass ⟨0x011, 0x016, 0x018, 0, 0⟩, by decide +kernel, by decide +kernel, by decide, by decide⟩
theorem test_hyp_fetch_full : dispatchRoom { Core.reset with mx := List.replicate 32 (started (.pass ⟨0, 0, 0, 0, 0⟩)) } (.pass ⟨0, 0, 0, 0, 0⟩) = false := by
  decide
theorem test_hyp_fetch_poison : let x := { (coded 0 { Core.reset with pc := 256 }).stack 0 with marks := [(imemAddr 0 256 / 32, 1)] }
    fetchable x 0 256 = true ∧ markOf x (imemAddr 0 256 / 32) ≠ 0 := by decide +kernel

def vmov (d a : EndSpec) : VxOp := ⟨d, a, .none, .none, 0, 0, 0, false, false, false, false⟩
def queued (o : CoreOp) : QEntry := { started o with started := false }
def passZero : CoreOp := .pass ⟨0, 0, 0, 0, 0⟩

/-- EngineStartsAndFreesInOrder: an operation that may start, one that aliases a queue, one that waits for its operand, a gate marker. -/
theorem test_hyp_start : let s := running (fun k => { k with vx := [queued (.vx .mov (vmov (.line 1) (.line 0)))] })
    nextOp ((s.coreAt c0).queue .vx) = some (queued (.vx .mov (vmov (.line 1) (.line 0))), .vx .mov (vmov (.line 1) (.line 0)), [])
    ∧ mayOverlap (.vx .mov (vmov (.line 1) (.line 0))) [] = true ∧ ldstX (.vx .mov (vmov (.line 1) (.line 0))) = false
    ∧ opAliases (s.stack 0) 0 (.vx .mov (vmov (.line 1) (.line 0))) = false
    ∧ firstActReady 0 (s.stack 0) 0 (.vx .mov (vmov (.line 1) (.line 0))) (queued (.vx .mov (vmov (.line 1) (.line 0)))) = true := by decide +kernel
theorem test_hyp_start_wait : firstActReady 0 ((running id).stack 0) 0 (.vx .mov (vmov (.line 1) (.pop 0))) (queued (.vx .mov (vmov (.line 1) (.pop 0)))) = false := by
  decide +kernel
theorem test_hyp_start_alias : let s := on0 (fun x => setReg (x.onCore 0 (fun k => { k with run := .running })) (rDqCfg 0 0) 8)
    opAliases (s.stack 0) 0 (.vx .mov (vmov (.line 1) (.line 0))) = true := by decide +kernel
theorem test_hyp_start_marker : let s := running (fun k => { k with vx := [⟨0, none, false, false, 0, 0, {}, none⟩] })
    ((s.coreAt c0).queue .vx).find? (fun y => !y.started) = some ⟨0, none, false, false, 0, 0, {}, none⟩ := by decide
theorem test_hyp_complete : let s := running (fun k => { k with vx := [{ started (.vx .mov (vmov (.line 1) (.line 0))) with done := true }] })
    ((s.coreAt c0).queue .vx).find? entryComplete = some { started (.vx .mov (vmov (.line 1) (.line 0))) with done := true } := by decide
theorem test_hyp_complete_none : (((running id).coreAt c0).queue .vx).find? entryComplete = none := by decide

/-- EngineWorksUntilItWaits, VxOperationOnOneLine, DrainConvertsALine: a MOV and an ADD of one scratch line into another, started; a reduction from the identity
and from a carried pair; a DRAIN. -/
theorem test_hyp_works_done : let o := CoreOp.vx .mov (vmov (.line 1) (.line 0))
    let s := running (fun k => { k with vx := [started o] })
    startedOp (s.stack 0) 0 o = some (started o)
    ∧ ∃ y q, actsAfter 0 0 o 1 (s.stack 0) (started o) = some (y, q) :=
  ⟨by decide +kernel, _, _, rfl⟩
theorem test_hyp_works_wait : let o := CoreOp.vx .mov (vmov (.line 1) (.pop 0))
    actsAfter 0 0 o 0 ((running id).stack 0) (started o) = some ((running id).stack 0, started o)
    ∧ engineAct 0 ((running id).stack 0) 0 o (started o) = .wait 1 0 := ⟨rfl, by rfl⟩
theorem test_hyp_vx : let s := running (fun k => { k with vx := [started (.vx .mov (vmov (.line 1) (.line 0)))] })
    ∃ l y, readAll 0 0 (vxReads .mov (vmov (.line 1) (.line 0))) (s.stack 0) = some ([l], y) := ⟨_, _, rfl⟩
theorem test_hyp_drain : let o : DrainOp := ⟨.line 1, .line 0, 0, 0, false, false, false⟩
    let s := running (fun k => { k with mx := [started (.drain o)] })
    startedOp (s.stack 0) 0 (.drain o) = some (started (.drain o))
    ∧ ∃ l y z, readEnd (s.stack 0) 0 o.a 0 = .go l y ∧ writeEnd y 0 o.d 0 Line.zero = .go () z := ⟨by decide +kernel, _, _, _, rfl, rfl⟩

/-- SxComputesAndPushes: a LUI that pushes, a KVCMD that pops eight scalars. -/
def sxo (d a : EndSpec) : SxOp := ⟨d, a, .none, .none, 7, false, false⟩
theorem test_hyp_sx : let s := on0 (fun x => setReg (x.onCore 0 (fun k => { k with run := .running, sx := [started (.sx .lui (sxo (.push 0) .none))] }))
      (rDqCfg 0 0) 8)
    startedOp (s.stack 0) 0 (.sx .lui (sxo (.push 0) .none)) = some (started (.sx .lui (sxo (.push 0) .none)))
    ∧ ∃ vs y z, readScalars 0 7 (sxReads .lui (sxo (.push 0) .none)) (s.stack 0) = some (vs, y) ∧ pushScalar y 0 0 (0, false) false = .go () z :=
  ⟨by decide +kernel, [], _, _, rfl, by rfl⟩

/-! ### Passes, loads and stores -/

/-- A pass of one vector of INT8 by INT8 that leaves its results in the array's accumulator lines, with `f` changed. -/
def desc0 : PassDesc := ⟨0, 0, 1, false, false, 0, false, .int8, .int8, false, false, .int32, false, false, 0, none, 0, 0, none, 64, 0, 0, 128⟩
def pass0 : PassRun := ⟨desc0, true, 0, 0, [], 0, 0, false, false, false, none⟩
def passing (p : PassRun) : QEntry := { started passZero with pass := some p }
def mxHolds (q : QEntry) : State := running (fun k => { k with mx := [q] })

/-- PassNamesAndStarts, PassStepLeavesTheArray, PassReplaysAndRetires. -/
theorem test_hyp_pass : ((mxHolds (started passZero)).coreAt c0).mx.find? (fun y => y.started && !y.done && decide (y.op = some passZero) && y.pass.isNone)
    = some (started passZero) := by decide
theorem test_hyp_pass_start : ((mxHolds (passing { pass0 with started := false })).coreAt c0).mx.find?
    (fun y => !y.done && (match y.pass with | some p => !p.started | none => false)) = some (passing { pass0 with started := false }) := by decide
theorem test_hyp_pass_valid : passValid ((running id).stack 0) 0 0 desc0 = true ∧ passValid ((running id).stack 0) 0 0 { desc0 with aline := 4096 } = false := by
  decide +kernel
theorem test_hyp_pass_step : stepPass ((mxHolds (passing pass0)).stack 0) 0 = some (passing pass0, pass0)
    ∧ operandsReady ((mxHolds (passing pass0)).stack 0) 0 0 desc0 = true ∧ pass0.broken = false := by decide +kernel
theorem test_hyp_pass_step_none : stepPass ((running id).stack 0) 0 = none := by decide
theorem test_hyp_pass_replay : ((mxHolds (passing { pass0 with broken := true })).coreAt c0).mx.find?
    (fun y => !y.done && (match y.pass with | some p => p.broken | none => false)) = some (passing { pass0 with broken := true }) := by decide
theorem test_hyp_pass_retire : let x := flushOldest ((mxHolds (passing pass0)).stack 0) 0
    oldestPass x 0 = some (passing pass0, pass0) ∧ flushed pass0 = false ∧ flushed { pass0 with res := [[]], wrote := 1 } = true := by decide +kernel

def ldl0 : LdlOp := ⟨.line 0, 1, 0, 0, false, true⟩
def ldx0 : IdxOp := ⟨.line 0, .line 8, 0, 0, false, true⟩
def stl0 : StlOp := ⟨.line 0, .none, 0, 0, false, true, false⟩
def stx0 : IdxOp := ⟨.line 0, .line 8, 0, 0, false, true⟩
def atom0 : AtomOp := ⟨.line 0, .line 8, 0, 0, 0, false, true⟩
def ldHolds (o : CoreOp) : State := running (fun k => { k with ld := [started o] })
def stHolds (o : CoreOp) : State := running (fun k => { k with st := [started o] })

/-- LoadsIssueTheirLines: one line, at local address 0. -/
theorem test_hyp_ldl : startedOp ((ldHolds (.ldl ldl0)).stack 0) 0 (.ldl ldl0) = some (started (.ldl ldl0))
    ∧ ((ldHolds (.ldl ldl0)).coreAt c0).reqs.length < 256 ∧ portWaiting ((ldHolds (.ldl ldl0)).coreAt c0) .ld = false := by decide +kernel
theorem test_hyp_ldl_req : ∃ y z : Stack, reserveLanding ((ldHolds (.ldl ldl0)).stack 0) 0 ldl0.data 0 0 = .go () y
    ∧ sendAccess 0 (addReq y 0 (newReq y.nextId .ld (started (.ldl ldl0)) 0 false Line.zero 0 1)) 0 y.nextId 0 (routeOf y 0 true .read 512 0) 0 .read Line.zero 0
      = some z := ⟨_, _, rfl, by rfl⟩
theorem test_hyp_ldx : startedOp ((ldHolds (.ldx ldx0)).stack 0) 0 (.ldx ldx0) = some (started (.ldx ldx0))
    ∧ ∃ l w, addressLine ((ldHolds (.ldx ldx0)).stack 0) 0 ldx0.data ldx0.addr 0 = .go l w := ⟨by decide +kernel, _, _, rfl⟩

/-- StoresIssueTheirLines. -/
theorem test_hyp_stl : startedOp ((stHolds (.stl stl0)).stack 0) 0 (.stl stl0) = some (started (.stl stl0))
    ∧ ∃ d y, readAll 0 0 [stl0.data] ((stHolds (.stl stl0)).stack 0) = some ([d], y) := ⟨by decide +kernel, _, _, rfl⟩
theorem test_hyp_stx : startedOp ((stHolds (.stx stx0)).stack 0) 0 (.stx stx0) = some (started (.stx stx0))
    ∧ ∃ d y l w, readEnd ((stHolds (.stx stx0)).stack 0) 0 stx0.data 0 = .go d y ∧ addressLine y 0 stx0.data stx0.addr 0 = .go l w :=
  ⟨by decide +kernel, _, _, _, _, rfl, rfl⟩

/-- StoresIssueTheirLines, multicast: a line for group 0, which has no member, opens its run; at address 8 it is misaligned. -/
theorem test_hyp_stl_mc : let y := (stHolds (.stl { stl0 with mc := true })).stack 0
    let ks := mcPackets (nodeId y) (fld 0 48 12) (fld 0 0 48) Line.zero fullMask
    startedOp y 0 (.stl { stl0 with mc := true }) = some (started (.stl { stl0 with mc := true })) ∧ (fullMask ≠ 0 ∧ remoteHeld y = false)
    ∧ ks.length = 1 ∧ (openMcs 0 (fun n x k => mcSettle (mcReplicate n x k 8) k.tag) 0 y.nextId (fld (reg y (rIvtMcgrpB 0)) 15 9) ks
        (addReq y 0 { newReq y.nextId .st (started (.stl { stl0 with mc := true })) 0 true Line.zero fullMask ks.length with node := some 0x10000 })).isSome = true
    ∧ fld 8 0 48 % 512 ≠ 0 := by decide +kernel

/-- AtomIssuesSixteenRecords. -/
theorem test_hyp_atom : startedOp ((ldHolds (.atom atom0)).stack 0) 0 (.atom atom0) = some (started (.atom atom0))
    ∧ ∃ l w y, readEnd ((ldHolds (.atom atom0)).stack 0) 0 atom0.addr 0 = .go l w ∧ reserveLanding w 0 atom0.data 0 0 = .go () y :=
  ⟨by decide +kernel, _, _, _, rfl, rfl⟩

/-- OneLineRequestAtATime. -/
theorem test_hyp_issue : issuing ((ldHolds (.ldl ldl0)).stack 0) 0 .ld = some (started (.ldl ldl0), .ldl ldl0)
    ∧ issuing ((running id).stack 0) 0 .ld = none := by decide +kernel

/-- RequestsAreAnsweredOrSentAgain: a load with its line, a store acknowledged, a load answered with an error; a refused packet whose back-off is over. -/
def req0 (a : ReqAnswer) : CoreReq := ⟨5, .ld, 0, 0, none, 0, false, Line.zero, 0, 0, false, Line.zero, a⟩
theorem test_hyp_answers : ∀ a ∈ [ReqAnswer.line Line.zero, .acked, .error 3], ∃ s : State, findReq (s.stack 0) 0 5 = some (req0 a)
    ∧ (s.coreAt c0).run = .running ∧ reqOp (s.stack 0) 0 (req0 a) = some (.ldl ldl0) := fun a _ =>
  ⟨running (fun k => { k with ld := [started (.ldl ldl0)], reqs := [req0 a] }), rfl, rfl, rfl⟩
theorem test_hyp_resend : let t : Txn := ⟨⟨0, 5, 0⟩, { ty := .rd, dst := 3 }, 0, 0, .refused 0, 0⟩
    resendable 0 { Stack.reset with router := { Router.reset with tags := [(9, t)] } } 0 5 = [(9, t)] := by decide

/-! ### Links, flags, the pantry -/

/-- NeighbourLinksMoveLines: core 0 sends east to core 1. -/
def send0 : NlOp := ⟨.line 0, 0, 3, .east⟩
def sending : State := on0 (fun x => { x.onCore 0 (fun k => { k with run := .running, nl := [started (.send send0)] }) with tick := { x.tick with mask := 1 } })
theorem test_hyp_send : startedOp (sending.stack 0) 0 (.send send0) = some (started (.send send0)) ∧ neighbour (sending.stack 0) 0 .east = some 1
    ∧ 0 < (linkIn (sending.stack 0) 1 (incoming .east)).credits := by decide +kernel
theorem test_hyp_link : let m : LinkLine := ⟨0, 3, Line.zero, 1⟩
    let s := running (fun k => { k with nlIn := [⟨[m], [], 1, 7⟩, LinkIn.empty, LinkIn.empty, LinkIn.empty] })
    (linkIn (s.stack 0) 0 .north).flight = [m] ∧ m.sent < 4 ∧ 0 < (linkIn (s.stack 0) 0 .north).returning
    ∧ tget (fun _ => 0) (s.stack 0).inject (checkerKey (segmentOf (s.stack 0) 0 .north).1 0) = 0 := by decide +kernel

/-- FxEntriesJoinAndComplete: every kind of instruction held with room and, for a SET, without; every kind of entry at index 0. -/
theorem test_hyp_fx_held : ∀ o ∈ [FxOp.wait 127 true .seq, .waitc 0 .ld, .set 63 0, .clr 64 1, .signal 255 63 0, .tickEnd], ∃ s : State,
    (s.coreAt c0).run = .running ∧ (s.coreAt c0).seqCur = some (.fx o) ∧ decide ((s.coreAt c0).fx.length < 32) = true := fun o _ =>
  ⟨held (.fx o), rfl, rfl, by simp [held, running, on0, State.coreAt, c0, State.onStack, State.setStack, State.stack, Stack.onCore, Stack.setCore, Stack.core, State.reset, Stack.reset, Core.reset, tget, tset, tput, tfind, Quad.all, Quad.get, Quad.set]⟩
theorem test_hyp_fx_full : (List.replicate 32 (⟨0, .tickEnd, false⟩ : FxEntry)).length = 32 := by decide
theorem test_hyp_fx_entries : ∀ o ∈ [FxOp.wait 127 true .seq, .waitc 63 .ld, .waitc 64 .ld, .set 63 0, .clr 64 1, .signal 255 63 0, .tickEnd], ∃ s : State,
    (s.coreAt c0).run = .running ∧ (s.coreAt c0).fx[(0 : Fin 32).val]? = some ⟨0, o, true⟩ := fun o _ =>
  ⟨running (fun k => { k with fx := [⟨0, o, true⟩] }), rfl, rfl⟩
theorem test_hyp_fx_conditions : flagSeen 0 ((running id).stack 0) 0 127 = false ∧ afterDone Core.reset 0x3F 0 = true ∧ storesDone Core.reset 0 = true
    ∧ allDone Core.reset 0 = true ∧ signalTaken ((running id).stack 0) 255 = false := by decide +kernel
theorem test_hyp_fx_not : afterDone { Core.reset with st := [queued (.stl stl0)], uid := 1 } 0x3F 1 = false := by decide

/-- FlagsAreApplied. -/
theorem test_hyp_signal : let s := running (fun k => { k with signals := [(0, 63)] })
    (List.range 168).find? (fun c => ((s.stack 0).core c).signals.contains (0, 63)) = some 0 := by decide +kernel
theorem test_hyp_signal_none : (List.range 168).find? (fun c => ((State.reset.stack 0).core c).signals.contains (0, 63)) = none := by decide +kernel
/-- A SET stands over a CLR of its cycle, and not over a later one (R148, R186). -/
theorem test_row_flags : after (.rowFlagTest ⟨0, 0⟩) { on0 (fun x => x.setRow 0 { Row.reset with
      flags := 4, flagOps := [(3, true, 0), (3, false, 0), (3, false, 2), (3, true, 5), (4, false, 5), (5, true, 7)] }) with now := 5 }
    (fun t => decide (((t.stack 0).row 0).flags = 1 ∧ ((t.stack 0).row 0).flagOps = [(5, true, 7)])) = true := by decide +kernel
/-- Of two WAITC on one flag in one cycle one takes the set (R186). -/
theorem test_waitc_once : after (.fxEntryComplete c0 1) (running (fun k => { k with
      flags := 1, fx := [⟨0, .waitc 0 .mx, false⟩, ⟨1, .waitc 0 .ld, false⟩] })) (fun t => decide (((t.coreAt c0).fx.length) = 2)) = true
    ∧ after (.fxEntryComplete c0 0) (running (fun k => { takeLocal 0 0 { k with flags := 1 } with fx := [⟨1, .waitc 0 .ld, false⟩] }))
      (fun t => decide (((t.coreAt c0).fx.length) = 1)) = true := by decide +kernel
theorem test_hyp_row_flag_once : ((on0 (fun x => x.setRow 0 { Row.reset with flagTest := some 0 })).stack 0).row 0 = { Row.reset with flagTest := some 0 } := by
  decide +kernel

/-- RowPortsAndPantryReads. -/
def acc0 (o : Origin) (k : AccessKind) (a : Nat) : Access := ⟨7, o, k, a, Line.zero, 0, 0, 0, Line.zero, false, [], none, false, false⟩
theorem test_hyp_pantry_wait : let s := on0 (fun x => { x.setRow 0 { Row.reset with waiting := [(9, 0, 7)] } with entering := [acc0 (.core 0 5 0) .read 0] })
    ((seenAclk (s.stack 0) 10).row 0).waiting = [(9, 0, 7)] ∧ (s.stack 0).entering.find? (fun y => y.id = 7) = some (acc0 (.core 0 5 0) .read 0)
    ∧ (portTake (s.stack 0) 0 0 (acc0 (.core 0 5 0) .read 0) 10 false).isSome = true := by decide +kernel
/-- A read of core 3 whose cycle's window of core 9 takes the last slot. -/
def fullPort : Row := { Row.reset with windows := (List.range 15).map (fun i => ⟨1024 * i + 1024, 9, 0, [(0, 20 + i)], none, 0, false⟩) ++ [⟨512, 10, 9, [(9, 8)], none, 0, true⟩] }
theorem test_hyp_pantry_later : let a : Access := ⟨7, .core 3 5 0, .read, 0x4000000000, Line.zero, 0, 0, 0, Line.zero, false, [], none, false, false⟩
    let s := on0 (fun x => { (x.onCore 3 (fun k => { k with reqs := [{ id := 5, e := .ld, uid := 0, i := 0, node := none, addr := 0x4000000000, write := false, data := Line.zero, mask := 0, parts := 1, arrived := false, result := Line.zero, answer := .waiting }] })).setRow 0 fullPort with entering := [a] })
    let x := seenAclk (s.stack 0) 10
    pantryAccess x 3 .ld = some a ∧ (closeWindows (x.row 0) 10).windows.length = 16 ∧ laterWindow (closeWindows (x.row 0) 10) 3 10 = some ⟨512, 10, 9, [(9, 8)], none, 0, true⟩
    ∧ (portTake (giveUpWindow (x.setRow 0 (closeWindows (x.row 0) 10)) 0 10 ⟨512, 10, 9, [(9, 8)], none, 0, true⟩) 0 3 a 10 true).isSome = true
    ∧ portTake x 0 3 a 10 true = none := by decide +kernel
theorem test_hyp_pantry_issue : portEligible (closeWindows { Row.reset with windows := [⟨512, 0, 3, [(3, 7)], none, 0, false⟩] } 10) 10
      = [((4, 3), Sum.inl ⟨512, 0, 3, [(3, 7)], some 4, 0, false⟩)]
    ∨ ∃ key w, portEligible (closeWindows { Row.reset with windows := [⟨512, 0, 3, [(3, 7)], none, 0, false⟩] } 10) 10 = [(key, Sum.inl w)] := by
  right
  exact ⟨_, _, rfl⟩
theorem test_hyp_subbank : let w : PortWindow := ⟨512, 0, 3, [(3, 7)], some 4, 4, false⟩
    let s := on0 (fun x => { x with subbanks := [(5, [.window 0 w])] })
    leastOf (subbankKeys (s.stack 0) 0 5) = some ((8, 0, 0), .window 0 w) ∧ listAt (s.stack 0).subbanks (0 * 16 + 5) = [.window 0 w] := by decide +kernel
theorem test_hyp_glaze : let w : PortWindow := ⟨512, 0, 3, [(3, 7)], some 4, 4, false⟩
    let s := on0 (fun x => x.setRow 0 { Row.reset with glaze := [(w, Line.zero, 0)] })
    ((s.stack 0).row 0).glaze = [(w, Line.zero, 0)] ∧ nextGlaze [(w, Line.zero, 0)] = some (w, Line.zero, 0) ∧ nextGlaze [] = none ∧ tget (fun _ => 0) (s.stack 0).inject (checkerKey (haGlaze 0) 0) = 0 := by decide +kernel

/-! ### Vault controllers, tokens, ticks -/

def site0 : SiteAt := ⟨0, 0⟩

/-- The site of vault 0 and of core 0 with no repair. -/
def site2 : SiteAt := ⟨0, 2⟩

/-- VaultControllersTakeAndGrant: a read of the site's own core and one of the router waiting; a full queue; a granted read. -/
theorem test_hyp_vault_arrive : let a := acc0 (.core 0 5 0) .read 0
    let s := on0 (fun x => x.setVault 0 { VaultCtl.reset with entering := [a] })
    columnsHeld (s.stack 0) = false ∧ ((s.stack 0).vault 0).entering.find? (fun a => a.id = 7) = some a ∧ ((s.stack 0).vault 0).top.length < 64 := by decide +kernel
theorem test_hyp_vault_router : let a := acc0 (.core 0 5 0) .read 0
    let s := on0 (fun x => { x with entering := [a] })
    ((s.stack 0).vault 0).entering.find? (fun a => a.id = 7) = none
    ∧ (s.stack 0).entering.find? (fun a => decide (a.id = 7) && a.refused.isNone) = some a ∧ (routerSite (s.stack 0) a.addr).isSome = true := by decide +kernel
theorem test_hyp_vault_self : ((VaultCtl.reset).selfRefresh).getLsbD 7 = false ∧ ({ VaultCtl.reset with selfRefresh := 0x80 }).selfRefresh.getLsbD 7 = true := by decide
theorem test_hyp_vault_grant : let a := acc0 (.core 0 5 0) .read 0
    let s := on0 (fun x => x.setVault 0 { VaultCtl.reset with top := [a] })
    let x := flipDram (s.stack 0) []
    (x.vault 0).lastGrant ≠ some 10 ∧ (x.vault 0).rmw = [] ∧ pickGrant x 0 10 = some (0, a) ∧ nbuProtected (dequeue x 0 7) a = false
    ∧ (bankKey a.addr).isSome = true := by decide +kernel
theorem test_hyp_vault_none : pickGrant (State.reset.stack 0) 0 10 = none := by decide +kernel

/-- AccessesAreDelivered. -/
theorem test_hyp_delivered : let a := acc0 (.core 0 5 0) .read 0
    let s := on0 (fun x => { x.setVault 0 { VaultCtl.reset with flight := [a] } with slices := [(0, [a])], topside := [{ a with done := true }] })
    ((s.stack 0).vault 0).flight.find? (fun a => match a.origin with | .nbu _ _ => false | _ => true) = some a
    ∧ (listAt (s.stack 0).slices 0).filter (fun a => decide (a.addr / 512 % 16 = (0 : Fin 16).val)) = [a]
    ∧ (s.stack 0).topside.find? (fun a => a.id = 7) = some { a with done := true } := by decide +kernel

/-- SoftRepairsTakeASpare: a row repair wanted, with room and a free soft entry. -/
theorem test_hyp_repair : let r : Repair := ⟨false, 7, 15, 12287, 0, 0⟩
    let s := on0 (fun x => x.setVault 0 { VaultCtl.reset with wanted := [r] })
    ((s.stack 0).vault 0).wanted.contains r = true ∧ repairRoom (s.stack 0) 0 r = true ∧ freeSoft (s.stack 0) 0 = some 0 := by decide +kernel
theorem test_hyp_repair_full : let r : Repair := ⟨false, 7, 15, 12287, 0, 0⟩
    let x := (State.reset.stack 0).setVault 0 { VaultCtl.reset with fuses := List.replicate 32 r }
    repairRoom x 0 r = false := by decide +kernel

/-- A member of a domain: node `n` of members 0 to `m - 1`, whose nodes are their numbers plus 16. -/
def member (n m : Nat) (f : Stack → Stack) : State := on0 (fun x =>
  f { setReg (setReg { x with boot := .ready } rIvtNode (bv 64 (n + 16 + 0x10000))) rTckDomain (bv 64 (5 * 2 ^ 48 + n * 2 ^ 16)) with
    pstate := .running, tick := { x.tick with joined := true, members := (List.range m).map (fun i => i + 16), phase := .run } })
def token (i : Nat) : Token := ⟨bv 14 i, 5, 0, 16⟩

/-- TokensAtAMember: the leader with one child, the child itself. -/
theorem test_hyp_token_away : (token 1).dest.toNat ≠ nodeId (State.reset.stack 0) := by decide +kernel
theorem test_hyp_token_leader : let x := (member 0 2 id).stack 0
    (token 1).dest.toNat = nodeId x ∧ tokenMine x (token 1) = true ∧ treeKids x = [1] ∧ treeEdges x = [1] ∧ jobOn x = true ∧ gateWaiting x = false
    ∧ x.tick.doneSent ≤ x.tick.upSent := by decide +kernel
theorem test_hyp_token_child : let x := (member 1 2 id).stack 0
    nodeId x = 17 ∧ tokenMine x ⟨0, 5, 0, 17⟩ = true ∧ treeKids x = [] ∧ (treeParent x).isSome = true ∧ x.tick.goRecv ≤ fullTick x 0 := by decide +kernel

/-- TicksBeginAndEnd: work done; the barrier of the last tick, of one that goes on, of one that ends; work not done; one core that waits for nothing. -/
theorem test_hyp_done : let x := (member 0 1 (fun x => { x with kv := { x.kv with phaseTick := 1 } })).stack 0
    x.tick.phase = .run ∧ x.tick.hold = false ∧ x.tick.doneSent = tickOf x ∧ workDone x (tickOf x) = true := by decide +kernel
theorem test_hyp_barrier : let x := (member 0 1 (fun x => { x with tick := { x.tick with phase := .barrier, doneSent := 1, goRecv := 2 } })).stack 0
    x.tick.doneSent = tickOf x + 1 ∧ tickOf x = x.tick.lastTick ∧ tickOf x + 1 < x.tick.goRecv := by decide +kernel
theorem test_hyp_barrier_next : let x := (member 0 1 (fun x => { x with tick := { x.tick with phase := .barrier, doneSent := 1, goRecv := 1, lastTick := 9 } })).stack 0
    tickOf x ≠ x.tick.lastTick ∧ x.tick.ending = false ∧ goLets x (tickOf x + 1) = true := by decide +kernel
def openCore : State := member 0 1 (fun x => x.onCore 0 (fun k => { k with run := .running, participating := true }))
theorem test_hyp_runaway : let x := openCore.stack 0
    workDone x 0 = false ∧ (partCores x).filter (fun c => decide ((x.core c).run = .running)) = [0] ∧ coreWaits 0 x 0 = [] ∧ (x.core 0).tickEnd = false := by
  decide +kernel
theorem test_hyp_stall : let x := (openCore.onStack 0 (fun x => x.onCore 0 (fun k => { k with fx := [⟨0, .wait 5 true .ld, false⟩] }))).stack 0
    (coreWaits 0 x 0).length = 1 := by decide +kernel

/-! ### Near-bank units and the KV engine -/

/-- An EADD of one line of INT32: lines 0 and 1 into line 0. -/
def eadd : NbuEntry := ⟨0, 0, 0, 0⟩
def nbuRun0 (j : Option NbuJob) (p : Option Line) : NbuRun := ⟨0, 0, 0, none, [0], p, j, 0, false⟩
def nbuJob0 (e : NbuEntry) : NbuJob := ⟨0, e, 1, 0, 0, 0, 0, 0, [], [], [], [], [], 0, 0, 0⟩
def nbuHolds (e : NbuEntry) (j : Option NbuJob) (p : Option Line) : State := on0 (fun x => x.setNbu 0 ⟨[e], some (nbuRun0 j p), false, none⟩)

/-- NbuOperationsPlaceRowOps: site 2 serves vault 0; each operation of the unit has its row. -/
theorem test_hyp_nbu_site : siteCore (State.reset.stack 0) 2 = some 0 ∧ columnsHeld (State.reset.stack 0) = false := by decide +kernel
theorem test_hyp_nbu_place : ((nbuHolds eadd (some (nbuJob0 eadd)) none).stack 0).nbu 0 = ⟨[eadd], some (nbuRun0 (some (nbuJob0 eadd)) none), false, none⟩
    ∧ (∀ op ∈ [1, 2, 3, 4, 8, 9, 0xA, 0xB, 0xC, 0xD, 0x10, 0x18], (nbuCommand op site2 eadd).isSome = true) := by decide +kernel

/-- NbuEntriesStartAndComplete: an entry due with its parameter line there; a row operation that completes. -/
theorem test_hyp_nbu_start : let x := (nbuHolds eadd none (some Line.zero)).stack 0
    nbuOut x 2 = [] ∧ selPoison Line.zero eadd = false ∧ (x.nbu 0).sched[0]? = some eadd := by decide +kernel
theorem test_hyp_nbu_poison : selPoison Line.lost ⟨0, BitVec.allOnes 64, 0, 0⟩ = true := by decide +kernel
theorem test_hyp_nbu_complete : let a := { acc0 (.nbu 0 0) .read 0 with granted := 3 }
    let s := (nbuHolds eadd none none).onStack 0 (fun x => x.setVault 2 { VaultCtl.reset with flight := [a] })
    ((s.stack 0).vault 2).flight.find? isNbu = some a ∧ a.granted ≠ 0 := by decide +kernel

/-- A command of an opcode that has started at stack 0. -/
def cmd0 (op : Nat) : Cmd := ⟨ref0, 0, 0, 0, bv 64 (op * 2 ^ 16 + 1), 0, [], [], false, none⟩
def commanded (c : Cmd) (f : Stack → Stack) : State := on0 (fun x => f { x with port := { x.port with started := [c] } })

/-- Every statement on started commands: each opcode of Tables 13.4 to 13.9 and 17.6 that has a row of its own. -/
theorem test_hyp_started : ∀ op ∈ [0x0001, 0x0002, 0x0003, 0x0004, 0x0100, 0x0101, 0x0102, 0x0103, 0x0104, 0x0105, 0x0106, 0x0107, 0x0200, 0x0201, 0x0202,
    0x0203, 0x0204, 0x0205, 0x0206, 0x0207, 0x0400, 0x0401, 0x0402, 0x0500, 0x0501, 0x0502, 0x0503, 0x0504, 0x0600, 0x0601, 0x0602, 0x0700, 0x0701, 0x0702,
    0x0703, 0x0704, 0x0800, 0x0801, 0x0802], startedCmd ((commanded (cmd0 op) id).stack 0) ref0 = some (cmd0 op) ∧ (cmd0 op).op = op ∧ (cmd0 op).begun = false := by
  decide +kernel

/-- NbuCommands: with a job and without; an entry that is there and one that is not. -/
theorem test_hyp_nbu_cmd : jobHeld ((commanded (cmd0 0x0400) id).stack 0) = false
    ∧ jobHeld ((commanded (cmd0 0x0400) (fun x => { x with pstate := .running })).stack 0) = true
    ∧ rowRetired (State.reset.stack 0) 0 = false ∧ ((State.reset.stack 0).nbu 0).sched[0]? = none ∧ ((State.reset.stack 0).nbu 0).run = none := by decide +kernel
theorem test_hyp_nbu_retired : rowRetired (setReg (State.reset.stack 0) (rIdRowMap 0) (bv 64 (2 ^ 31 + 0x71F))) 0 = true := by decide +kernel

/-- KvCommandsAct: an issuer's command, a record that an agent has taken. -/
theorem test_hyp_kv : ∀ op ∈ [0x0301, 0x0302, 0x0303, 0x0304, 0x0305, 0x0306, 0x0307, 0x0308], (kvCommand op 0 (.issuer ref0)).isSome = true
    ∧ startedCmd ((commanded (cmd0 op) id).stack 0) ref0 = some (cmd0 op) ∧ (cmd0 op).op = op := by decide +kernel
theorem test_hyp_kv_agent : let rec0 : List Byte := natBytes 8 0x0308 ++ List.replicate 56 0
    let s := on0 (fun x => x.setRow 7 { Row.reset with kvTaken := some (3, rec0) })
    ((s.stack 0).row 7).kvTaken = some (3, rec0) ∧ fld (recWord rec0 0) 0 16 = 0x0308 := by decide +kernel

/-- KvCommandEffects: a pool with one class of 4 pages and one tray; sequence 0 not live. -/
def pool0 : Stack := setReg (setReg (State.reset.stack 0) rKvePool (bv 64 (2 ^ 63 + 2 ^ 48))) (rKveClass 0) (bv 64 (4 * 2 ^ 40 + 0x0101))
theorem test_hyp_kv_pool : kvConfigured pool0 = true ∧ kvPages pool0 0 ≠ 0 ∧ freeTray pool0 = some 0 := by decide +kernel
theorem test_hyp_kv_desc : (match kvDesc pool0 0 with | .ok d => !d.live | .error _ => false) = true := by decide +kernel
def liveDesc : KvDesc :=
  { live := true, cls := 0, ring := false, evict := false, owner := 0, tray := 0, npages := 0, ringPages := 0, window := 0, appended := 0, res := 0,
    staged := 0, committed := 0, unbacked := 0, high := 0 }
theorem test_hyp_kv_live : let x := { pool0 with mem := [(descAddr pool0 0, 1)] }
    (match kvDesc x 0 with | .ok d => decide (d = liveDesc) | .error _ => false) = true := by decide +kernel
theorem test_hyp_kv_slots : (match kvNextSlots pool0 0 liveDesc (min 1 liveDesc.res) with | .ok l => l.isEmpty | .error _ => false) = true := by decide +kernel
/-- A sequence of one page, page 0, with 16 free slots, that it shares with none; a child that is not live. -/
def paged : Stack := { pool0 with mem := [(descAddr pool0 0, 1), (descAddr pool0 0 + 6, 1), (descAddr pool0 0 + 519, 0x80)] }
theorem test_hyp_kv_reserve : (match kvDesc paged 0, kvTable paged 0 1, kvFreePages paged 0, kvFreeSlots paged 0 { liveDesc with npages := 1 } with
    | .ok d, .ok tab, .ok free, .ok slots => decide (d = { liveDesc with npages := 1 } ∧ tab = [(0, 0)] ∧ free.length = 4 ∧ slots.length = 16)
        && (match kvSharedOf paged 0 tab (slots.take 5) with | .ok l => l.isEmpty | .error _ => false)
    | _, _, _, _ => false) = true := by decide +kernel
theorem test_hyp_kv_fork : (match kvDesc paged 1 with | .ok c => !c.live | .error _ => false) = true ∧ freeTray paged = some 0 := by decide +kernel
/-- Lines whose accesses are missing, and lines whose accesses have all been performed. -/
theorem test_hyp_kv_ready : let y := kvTouch pool0 true [descAddr pool0 0]
    kvReady pool0 y none = false ∧ (kvMissing pool0 y none).length = 1
    ∧ (let z := { y with kv := { y.kv with asked := (kvMissing pool0 y none).map (fun e => ⟨none, e, 0, true, 0⟩) } }; kvReady z z none = true) := by decide +kernel
theorem test_hyp_kv_read : (match kvRead 2 pool0 (descAddr pool0 0) 52 with | .ok _ => true | .error _ => false) = true := by decide +kernel

/-- KvPoolAgentsAndPhases. -/
theorem test_hyp_kv_config : poolBad (bv 64 (2 ^ 48)) 0 [bv 64 (4 * 2 ^ 40 + 0x0101)] = true
    ∧ poolBad (bv 64 (2 ^ 48 + 1000)) (bv 64 (256 * 100000)) [bv 64 (4 * 2 ^ 40 + 0x0101)] = false := by
  decide +kernel
theorem test_hyp_kv_take : let s := on0 (fun x => x.setRow 0 { Row.reset with kvq := [natBytes 64 0x0301] })
    ((pushReplies (s.stack 0) 0 64).row 0).kvq = [natBytes 64 0x0301] ∧ ((pushReplies (s.stack 0) 0 64).row 0).kvTaken = none := by decide +kernel
theorem test_hyp_kv_phase : let x := { setReg pool0 rTckNumber 0 with pstate := .running, tick := { Tick.reset with phase := .run } }
    columnsHeld x = false ∧ jobRuns x = true ∧ x.kv.phaseTick < tickOf x + 1 ∧ kvConfigured x = true
    ∧ (kvPhaseFor 0 x (tickOf x + 1)).kv.phaseTick = tickOf x + 1 := by decide +kernel

/-! ### The fabric -/

/-- Stack 0 READY with node ID 1, link 0 up. -/
def linkedStack : Stack := setReg (setReg { Stack.reset with boot := .ready } rIvtNode 0x10001) (rIvtLink 0) 2
def linked (f : Stack → Stack) : State := State.reset.setStack 0 (f linkedStack)
def pkt (ty : PktType) : Packet := { ty := ty, src := 2, dst := 1, tag := 9 }

/-- RequestsOfOtherNodes: one that arrives and is taken; one turned away; one in BANKED; a refusal before; one for an address that does not exist. -/
theorem test_hyp_request : ∀ ty ∈ [PktType.rd, .wr, .wrm, .atom], arrives linkedStack 0 (pkt ty) ty = true ∧ arrives Stack.reset 0 (pkt ty) ty = false := by
  decide +kernel
theorem test_hyp_request_taken : let x := (received linkedStack 0 (pkt .rd)).2
    routerHolds x = false ∧ x.power.idle ≠ 2 ∧ atMigrating x 0 = false ∧ x.router.backoff.any (fun e => decide (e.1 = 2 ∧ 0 < e.2)) = false
    ∧ requestBad x { pkt .rd with rlen := 8 } = false ∧ requestBad x { pkt .rd with addr := 1, rlen := 8 } = true
    ∧ ¬ (fld (reg x rIvtCredit) 0 15 ≤ rspsFrom x 2 ∨ 16384 ≤ (x.router.rsps.filter (fun r => !r.multicast)).length
      ∨ (rspsFrom x 2 = 0 ∧ 4096 ≤ (sources x).length)) := by decide +kernel
theorem test_hyp_request_held : routerHolds { linkedStack with pstate := .disabling } = true
    ∧ ({ linkedStack with power := { Power.reset with idle := 2 } } : Stack).power.idle = 2
    ∧ ({ linkedStack with router := { Router.reset with backoff := [(2, 50)] } } : Stack).router.backoff.any (fun e => decide (e.1 = 2 ∧ 0 < e.2)) = true := by
  decide +kernel
theorem test_hyp_request_migrating : atMigrating { linkedStack with mend := { Mend.reset with moves := [(0, 5)] } } 0 = true := by decide +kernel

/-- ResponsesEndTransactions: an open tag, one timed out, a multicast. -/
def txn0 (st : TagState) : Txn := ⟨⟨0, 5, 0⟩, pkt .rd, 0, 0, st, 0⟩
def tagged (st : TagState) : Stack := { linkedStack with router := { Router.reset with tags := [(9, txn0 st)] } }
theorem test_hyp_response : ∀ ty ∈ [PktType.rdRsp, .wrAck, .atomRsp, .errRsp], arrives (tagged .open_) 0 (pkt ty) ty = true := by decide +kernel
theorem test_hyp_tags : openTag (tagged .open_) 9 = some (txn0 .open_) ∧ openTag linkedStack 9 = none ∧ tfind (tagged (.timedOut 3)).router.tags 9 = some (txn0 (.timedOut 3))
    ∧ tfind linkedStack.router.tags 9 = none := by decide +kernel
theorem test_hyp_mc_tag : let m : McRun := ⟨0, 5, 9, 0, 4, 0, 0, 0⟩
    ({ linkedStack with router := { Router.reset with mcs := [m] } } : Stack).router.mcs.any (fun m => decide (m.tag = 9)) = true := by decide +kernel

/-- LinkSlotsAndSymbols: a link up with a slot awaited, data outstanding; one that is down. -/
theorem test_hyp_slots : let x := linkedStack.setLink 0 { Link.reset with retry := [⟨4, 0, 4, 0, 0⟩, ⟨5, 0, 1, 0, 0⟩], fails := 3 }
    linkUp x 0 = true ∧ linkUp x 1 = false ∧ (x.link 0).rxSeq = 0 ∧ tget (fun _ => 0) x.inject (checkerKey (haLink 0) 0) = 0
    ∧ (x.link 0).retry.any (fun e => decide (e.seq = 5)) = true ∧ (x.link 0).retry.any (fun e => decide (e.seq = 6)) = false ∧ 3 ≤ (x.link 0).fails
    ∧ ((x.link 0).retry.drop 0).takeWhile (fun e => decide (e.sends < 4)) = [] ∧ ((x.link 0).retry.drop 1).takeWhile (fun e => decide (e.sends < 4)) ≠ [] := by
  decide +kernel
/-- A header slot without payload and the last payload slot of a packet over bridge 4. -/
theorem test_hyp_slot_bits : let x := setReg linkedStack (rIvtLink 4) 2
    let b := wordsSlot (headerWords (pkt .wrAck))
    (slotBits x 4 ⟨0, 0, .beat b (slotParity b) false⟩).2.1 = true ∧ (slotBits x 4 ⟨0, 0, .beat b (slotParity b ^^^ 1) false⟩).2.1 = false
    ∧ headerPacket (slotWords b) = some (pkt .wrAck) ∧ fld ((slotWords b).getD 0 0) 32 10 = 0 := by decide +kernel
theorem test_hyp_slot_asm : let a : Assembly := ⟨some (pkt .wr), 0, 8, [], 0⟩
    let x := linkedStack.setLink 0 { Link.reset with asm := some a }
    (x.link 0).asm = some a ∧ a.head = some (pkt .wr) ∧ (pkt .wr).poison.getLsbD a.got = false ∧ a.left ≤ 32 * (a.got + 1) := by decide +kernel
/-- Header words by Table 12.8: an RD of 512 bytes at 0x1000 with HOPS 64. -/
theorem test_header_words : headerWords { ty := .rd, src := 2, dst := 1, tag := 9, addr := 0x1000, rlen := 512, hops := 64 }
    = [0x0800240000020001#64, 0x1000#64, 0x80000040#64, 0#64] := by decide +kernel
/-- The generator polynomial of RS(544,514): the coefficients that IEEE 802.3 Clause 91 tabulates (PRESUMED, log 100). -/
theorem test_fec_generator : fecGenerator = [523, 834, 128, 158, 185, 127, 392, 193, 610, 788, 361, 883, 503, 942, 385, 495, 720, 94, 132, 593, 249, 282, 565,
    108, 1, 552, 230, 187, 552, 575, 1] := by decide +kernel

/-- LinksAndNodesAreLost: a link that runs, with nothing on it and with data outstanding; NODE_DOWN; packets for other nodes. -/
theorem test_hyp_lost : linkRuns linkedStack 0 = true ∧ linkRuns linkedStack 1 = false ∧ (linkedStack.link 0).retry = [] ∧ linkedStack.router.tags = []
    ∧ (linkedStack.link 0).waiting = [] ∧ (linkedStack.link 0).branch = [] ∧ arrives linkedStack 0 (pkt .nodeDown) .nodeDown = true := by decide +kernel
theorem test_hyp_forward : let k := { pkt .rd with dst := 7 }
    let x := setReg linkedStack (rIvtRoute 0) 0
    k.ty ≠ .mcWr ∧ linkUp x 0 = true ∧ k.dst ≠ nodeId x ∧ nodeId x ≠ 0xFFFF ∧ k.hops ≠ 0
    ∧ egressOf (takeReceived x 0 k).2 k.dst = .link 0 ∧ egressOf (takeReceived linkedStack 0 k).2 k.dst = .unreachable := by decide +kernel

/-- MulticastsAndCollectives. -/
theorem test_hyp_multicast : let k := { pkt .mcWr with dst := 4095 }
    groupLocal linkedStack k.dst = false ∧ groupLocal (setReg linkedStack (rIvtMcgrpB 4095) 0x40) k.dst = true ∧ k.dst < 4096 ∧ nodeId linkedStack ≠ 0xFFFF := by
  decide +kernel
theorem test_hyp_mc_answers : arrives linkedStack 0 (pkt .mcAck) .mcAck = true ∧ arrives linkedStack 0 (pkt .mcDrop) .mcDrop = true := by decide +kernel
theorem test_hyp_branch : let k := { pkt .mcWr with dst := 0 }
    let x := setReg (linkedStack.setLink 0 { Link.reset with branch := [(k, 3)] }) (rIvtMcgrpA 0) 0
    (x.link 0).branch = [(k, 3)] := by decide +kernel
theorem test_hyp_coll : columnsHeld linkedStack = false ∧ arrives linkedStack 0 (pkt .collUp) .collUp = true ∧ arrives linkedStack 0 (pkt .collDown) .collDown = true := by
  decide +kernel
theorem test_hyp_coll_entry : let y := (member 0 2 (fun x => { x with tick := { x.tick with entries := [[0, 0, 0, 0]] } })).stack 0
    let k := { pkt .collUp with domain := 5, src := 17 }
    y.tick.joined = true ∧ k.domain = domainId y ∧ y.tick.phase ≠ .idle ∧ (treeKids y).find? (fun c => decide (memberNode y c = k.src)) = some 1
    ∧ y.tick.entries[k.entry]? = some [0, 0, 0, 0] ∧ findRun y k.entry (fullTick y k.tick) = none ∧ k.addr < collN [0, 0, 0, 0] := by decide +kernel

/-! ### Registers and the command port -/

/-- RegisterWritesChangeTheirFields: TCK_CONFIG's and FLT_CFG's fields, and bits that are cleared by a 1. -/
theorem test_hyp_fields : linkedStack.boot ≠ .off ∧ regFields rFltCfg ≠ [] ∧ regFields (rIvtRoute 4095) ≠ [] ∧ regFields (rIvtLost 1023) = [.w1c 0 64] := by
  decide +kernel
/-- A write of a reserved severity leaves FLT_CFG.THRESHOLD (R591); a 1 clears its bit of IVT_LOST0, a 0 does not (R416). -/
theorem test_write_lost : after (.ivtLostWrite 0 0 1) ((linked (fun x => setReg x (rIvtLost 0) 3)).atCycle 1) (fun t => decide (reg (t.stack 0) (rIvtLost 0) = 2)) = true := by
  decide +kernel
/-- A bit that the hardware has set in the cycle of the write stays 1 (R15). -/
theorem test_write_lost_same_cycle : after (.ivtLostWrite 0 0 1) (linked (fun x => setReg x (rIvtLost 0) 3)) (fun t => decide (reg (t.stack 0) (rIvtLost 0) = 3)) = true := by
  decide +kernel
theorem test_write_reserved : after (.registerWrite 0 0x40008 7) (linked id) (fun t => decide (reg (t.stack 0) rFltCfg = reg linkedStack rFltCfg)) = true := by
  decide +kernel

/-- CommandsArriveAndStart: a command in one segment, a first segment of more; a command held that may start, one that must wait. -/
def cmdPkt (op len : Nat) : Packet := { pkt .cmd with data := wordsBytes ([bv 64 (op * 2 ^ 16 + 1), bv 64 (len * 2 ^ 32)] ++ List.replicate 14 0) }
theorem test_hyp_cmd : let k := cmdPkt 1 0
    k.ty = .cmd ∧ linkUp linkedStack 0 = true ∧ k.dst = nodeId linkedStack ∧ isProbe k = false ∧ isFetch k = false ∧ k.addr = 0
    ∧ ¬ (k.data.length < cmdLength k.data) := by decide +kernel
theorem test_hyp_cmd_more : let k := cmdPkt 0x100 512
    k.data.length < cmdLength k.data ∧ k.data.length < 65665 ∧ fld (word64At k.data 8) 32 32 ≤ 65536 ∧ columnsHeld linkedStack = false := by decide +kernel
theorem test_hyp_asm : let a : Asm := ⟨2, 9, 0, 0, [(0, (cmdPkt 0x100 512).data)]⟩
    [a].find? (fun a => decide (a.src = 2) && decide ((word64At (asmBytes a) 0 >>> 32).setWidth 32 = 0#32)) = some a := by decide +kernel
theorem test_hyp_cmdstart : let c := cmd0 1
    let x : Stack := { linkedStack with port := { Port.reset with held := [c] } }
    x.port.held = [c] ∧ c.ref = ref0 ∧ x.power.idle = 0 ∧ x.mend.since.any (fun t => decide (t ≤ c.at_)) = false ∧ x.port.started = [] := by decide +kernel

/-! ### Admin, memory, jobs -/

/-- AdminCommandsAndResets: resets of each domain that end, and a module to be removed. -/
def resetRun (d : Nat) (c : Option CmdRef) : ResetRun := ⟨d, 0, 0, c, false, [], .ready, 0, false⟩
theorem test_hyp_reset : ∀ d ∈ [1, 2, 3, 4, 5], ∃ s : State, (s.stack 0).resetting = some (resetRun d (some ref0)) ∧ startedCmd (s.stack 0) ref0 = some (cmd0 3)
    ∧ (resetRun d (some ref0)).domain = d := fun d _ => ⟨commanded (cmd0 3) (fun x => { x with resetting := some (resetRun d (some ref0)) }), rfl, by rfl, rfl⟩
theorem test_hyp_reset_lets : resetLets linkedStack 1 = true ∧ resetLets { linkedStack with resetting := some (resetRun 2 none) } 3 = false
    ∧ resetLets { linkedStack with resetting := some (resetRun 2 none) } 1 = true ∧ jobHeld { linkedStack with pstate := .admitted } = true
    ∧ jobHeld linkedStack = false := by decide +kernel
theorem test_hyp_quiesce : linkedStack.boot ≠ .off ∧ linkedStack.quiesce = none ∧ linkedStack.pstate ≠ .admitted
    ∧ ([0] : List StackIx).filter (fun i => decide (((linked id).stack i).boot ≠ .off ∧ ((linked id).stack i).boot ≠ .quiesced)) = [0] := by decide +kernel
theorem test_hyp_linkstop : let s := linked (fun x => { x with quiesce := some ⟨false, 1, true⟩ })
    (s.stack 0).quiesce = some ⟨false, 1, true⟩ := by decide +kernel
theorem test_hyp_attn : let m := { ModCtl.reset with supply := true, pwrGood := true }
    m.supply = true ∧ m.attn = none ∧ m.pwrGood = true := by decide
theorem test_hyp_retrain : let x := setReg linkedStack (rIvtLink 0) 3
    x.boot ≠ .off ∧ linkState x 0 = 3 := by decide +kernel

/-- MemoryCommands: ranges accepted and rejected; scratch of a core that runs. -/
theorem test_hyp_range : rangeRejected linkedStack 0 512 .read = false
    ∧ rangeRejected linkedStack 0xFFFFFFFFFE00 512 .read = true := by decide +kernel
theorem test_hyp_left : vaultSpan 0 512 0 = (0, 1) := by decide +kernel
theorem test_hyp_tile : let t := TileRun.of ref0 none [(0, 3, 5)] 0
    let x : Stack := { linkedStack with tiles := [t] }
    x.tiles.find? (fun t => (tfind t.left 0).isSome) = some t ∧ tfind t.left 0 = some (3, 5) ∧ siteCore x 2 = some 0 ∧ columnsHeld x = false := by decide +kernel

/-- JobAndPartitionCommands: IDLE, ADMITTED, RUNNING, DISABLING and DISABLED partitions; a core that is HALTED and one that runs; a domain to join. -/
theorem test_hyp_parts : ∀ p ∈ [PState.idle, .admitted, .running, .disabling, .disabled], partStacks (linked (fun x => { x with pstate := p })) 0 = [0]
    ∧ ((linked (fun x => { x with pstate := p })).stack 0).pstate = p := by decide +kernel
theorem test_hyp_imem : rowRetired linkedStack (coreRow 0) = false ∧ (linkedStack.core 0).run = .halted ∧ ((running id).coreAt c0).run ≠ .halted
    ∧ ¬ imemLines (coreKind 0) * 512 < 0 + 16 := by decide +kernel
theorem test_hyp_join : let k := { cmd0 0x0202 with p := [0, 1], data := natBytes 512 1 }
    nodeId linkedStack = 1 ∧ (joinMembers k).getD 0 0xFFFF = 1 ∧ (joinMembers { k with data := natBytes 512 2 }).getD 0 0xFFFF = 2 := by decide +kernel
theorem test_hyp_start_job : let s := linked (fun x => { x with pstate := .admitted })
    (∀ i ∈ partStacks s 0, (s.stack i).pstate = .admitted) ∧ (partStacks s 0).filter (fun i => (s.stack i).tick.joined) = [] := by decide +kernel
theorem test_hyp_runs : jobRuns { linkedStack with pstate := .running } = true ∧ jobRuns linkedStack = false := by decide +kernel
theorem test_hyp_map : mapParts 0 = [0, 0, 0, 0] ∧ (mapParts 0).foldl max 0 + 1 = 1 ∧ licensedParts linkedStack < 5 := by decide +kernel

/-! ### Faults, power, trust, bring-up, the pins and the sideband -/

/-- FaultRecordsAreKept: a raise with no record of its class before, one that coalesces, one that escalates, and a full collector. -/
def raise0 : Raise := { source := fCapOver, addr := haController }
def rec1 (sev : Nat) : Record :=
  { seq := 7, source := fCapOver, addr := haController, prog := sev, sev := sev, escalated := false, injected := false, fromModule := false, part := 0,
    count := 1, tick := 0, ns := 0, core := 0xFFFF, vault := 0xFFFF, detail0 := 0, detail1 := 0, job := none, cycle := 0 }
theorem test_hyp_fault_first : let s := on0 (fun x => { x with bus := [raise0] })
    (s.stack 0).bus = [raise0] ∧ latestOf (s.stack 0) fCapOver haController = none ∧ (s.stack 0).faults.records.length < 1024 := by decide +kernel
theorem test_hyp_fault_again : let x : Stack := { Stack.reset with faults := { Stack.reset.faults with records := [rec1 2] } }
    latestOf x fCapOver haController = some (rec1 2) ∧ coalesces 2500000 raise0 (rec1 2) = true ∧ coalesces 2500001 raise0 (rec1 2) = false := by decide +kernel
theorem test_hyp_fault_full : let f := fun n => (List.replicate 1024 (rec1 n)).find? (fun w => decide (w.sev < 2))
    (List.replicate 1024 (rec1 1)).length = 1024 ∧ f 1 = some (rec1 1) ∧ f 2 = none := by decide +kernel

/-- FaultCommandsAndRepairs: a pair not remembered and one that is; a core that migrates; a coil test that is due at a boundary, and one within a tick. -/
theorem test_hyp_wires : let held := fun (c : Collector) => c.wires.any (fun e => decide (e.key = 0x40 ∧ e.pair = 2))
    held Collector.reset = false ∧ held { Collector.reset with wires := [⟨0x40, 2, none, false⟩] } = true ∧ (unitCheckers 0x40).isSome = true ∧ unitCheckers 0xF000 = none
    ∧ tget (fun _ => 0) Stack.reset.inject (checkerKey 5 10) = 0 := by decide +kernel
theorem test_hyp_moves : (let x : Stack := { linkedStack with mend := { Mend.reset with moves := [(3, 9)] } }
      requestAt x 3 = false ∧ (firmwareRow 5 x (coreSite x 3) (migrateAddr 3 (coreSite x 3) 0).1 false 3).isSome = true
      ∧ requestAt { x with router := { Router.reset with rsps := [⟨0, pkt .rd, 0, false, false, false, false⟩] } } 0 = true)
    ∧ ({ Mend.reset with moves := [(3, 9)] } : Mend).moves = (3, 9) :: [] ∧ Mend.reset.moves.head?.map (fun e => e.1) ≠ some 3 := by decide +kernel
theorem test_hyp_coils : let v := { (Stack.reset.vault 0) with testDue := true }
    let x := Stack.reset.setVault 0 v
    (x.vault 0).testDue = true ∧ atBoundary x = true ∧ (Stack.reset.vault 0).testDue = false
    ∧ atBoundary { x with tick := { Tick.reset with phase := .run } } = false := by decide +kernel
theorem test_hyp_ack : (Collector.reset.records.filter (fun e => decide (e.seq = 7))) = [] ∧ ([rec1 2].filter (fun e => decide (e.seq = 7))) ≠ [] := by decide +kernel

/-- PowerCommands and PowerFollowsItsRules: targets, a stack with and without power, with and without a job, a change of point that is on its way, that is done, none. -/
theorem test_hyp_power : (cmd0 0x0500).tkind ≠ 2 ∧ (cmd0 0x0500).tkind ≠ 3 ∧ linkedStack.boot ≠ .off ∧ Stack.reset.boot = .off
    ∧ ({ cmd0 0x0501 with w1 := 3 } : Cmd).tkind = 3 ∧ ({ cmd0 0x0503 with p := [5] } : Cmd).arg 0 = 5 ∧ (cmd0 0x0501).arg 0 = 0
    ∧ tickOf (setReg linkedStack rTckNumber 0) < 5 := by decide +kernel
theorem test_hyp_cap : let x := { linkedStack with power := { Power.reset with cap := 500 } }
    limitNow x (tickOf x) * 105 / 100 < watts 4000000 ∧ watts 0 ≤ limitNow x (tickOf x) * 105 / 100 := by decide +kernel
theorem test_hyp_change : let w := { Power.reset with change := some 3, point := 3 }
    w.change = some 3 ∧ w.point = 3 ∧ w.stopped = false ∧ Power.reset.change = none ∧ ({ w with stopped := true } : Power).stopped = true := by decide +kernel
theorem test_hyp_grant : let s := on0 (fun x => { x with boot := .ready })
    { s with mc := { s.mc with grants := ⟨300, 0, 0, 0⟩ } }.mc.grants.get 0 ≠ (s.stack 0).power.grant ∧ s.mc.grants.get 0 = (s.stack 0).power.grant := by decide +kernel
theorem test_hyp_idle : let x := setReg linkedStack rPwrIdle 0x0005000000FFFFFF
    noWork linkedStack = true ∧ linkedStack.router.rsps = [] ∧ nextEvent linkedStack none = none ∧ idleState 0 x none = 2 ∧ idleState 0 linkedStack none = 1 ∧ idleState 0 linkedStack (some 100) = 0 := by decide +kernel

/-- TrustCommands: leaves left and none left, a chunk in order and out of order, a verified stage, a RUN image. The images and licences that pass their
checks rest on the opaque root hash of `Config`, so no test can show one. -/
theorem test_hyp_leaves : let x := setReg linkedStack rSecLeaf (bv 64 (1024 * 2 ^ 31))
    fld (reg x rSecLeaf) 0 31 = 0 ∧ fld (reg x rSecLeaf) 31 31 = 1024 ∧ fld (reg Stack.reset rSecLeaf) 31 31 ≤ fld (reg Stack.reset rSecLeaf) 0 31
    ∧ Stack.reset.trust.reserving = none ∧ (cmd0 0x0700).flags / 2 % 2 = 0 ∧ ({ cmd0 0x0700 with w0 := 2#64 <<< 8 } : Cmd).flags / 2 % 2 = 1 := by decide +kernel
theorem test_hyp_chunk : let k : Cmd := { cmd0 0x0702 with p := [0, 4096], data := List.replicate 512 0 }
    (k.arg 0).toNat = 0 ∧ (k.arg 1).toNat = 4096 ∧ k.data.length ≤ 4096 ∧ k.flags % 2 = 0 ∧ ({ k with w0 := 1#64 <<< 8 } : Cmd).flags % 2 = 1
    ∧ imageStatus 0 0 k.data ≠ stOk := by decide +kernel
theorem test_hyp_stage : ({ Stack.reset.trust with verified := true } : Trust).verified = true ∧ jobHeld Stack.reset = false ∧ Stack.reset.trust.verified = false
    ∧ jobHeld { Stack.reset with pstate := .running } = true ∧ ({ Stack.reset.trust with run := List.replicate 64 0 } : Trust).run.length = 64 := by decide +kernel
theorem test_hyp_licence : licenceStatus linkedStack none [] ≠ stOk := by decide +kernel

/-- FusesLeavesAndFlash. -/
theorem test_hyp_burns : ∀ b ∈ [Burn.svn 2, .revoke 2, .lfuse 2, .epoch 2, .site 3], let x := { linkedStack with burns := [b] }
    x.burns = b :: [] ∧ x.boot ≠ .off ∧ columnsHeld x = false ∧ x.commit = none := by decide +kernel
theorem test_hyp_reserving : let x := { linkedStack with trust := { Stack.reset.trust with reserving := some 1024 } }
    x.trust.reserving = some 1024 ∧ x.burns.any (fun b => match b with | .epoch _ => true | _ => false) = false := by decide +kernel
theorem test_hyp_flash : let m := { State.reset.mc with flashQueue := [0], vin := true }
    m.flashQueue.head? = some (0 : StackIx).val ∧ m.vin = true ∧ State.reset.mc.flashQueue.head? ≠ some (0 : StackIx).val := by decide +kernel

/-- HeatIsWatched: codes at the edges of what is taken as agreement. -/
theorem test_hyp_sensors : ((100#12).toInt - (76#12).toInt).natAbs = 24 ∧ ((100#12).toInt - (75#12).toInt).natAbs = 25
    ∧ ((100#12).toInt - (4#12).toInt).natAbs = 96 ∧ ((100#12).toInt - (3#12).toInt).natAbs = 97 := by decide +kernel

/-- CoolantIsWatched: before a second of samples and after it; a stop under way; its end and the return of the flow. -/
def sample0 : CoolSample := ⟨4000, 240, 320⟩
def second0 : CoolCtl := { CoolCtl.reset with samples := List.replicate 10000 sample0 }
theorem sum_replicate (n : Nat) (x a : Rat) : (List.replicate n x).foldl (fun a x => a + x) a = a + n * x := by
  induction n generalizing a with
  | zero => simp
  | succ n ih => simp [List.replicate_succ, ih]; ring
theorem meanOf_replicate (n : Nat) (x : Rat) (h : 0 < n) : meanOf (List.replicate n x) = x := by
  have h1 : max 1 n = n := by omega
  have h2 : (n : Rat) ≠ 0 := by exact_mod_cast h.ne'
  simp only [meanOf, sum_replicate, List.length_replicate, h1]
  field_simp
  ring
theorem takeSample_samples (c : CoolCtl) (x : CoolSample) : (takeSample c x).samples = (x :: c.samples).take perSecond := by
  dsimp only [takeSample]
  split
  · split <;> rfl
  · rfl
theorem second0_take : (takeSample second0 sample0).samples = List.replicate 10000 sample0 := by
  rw [takeSample_samples, second0, ← List.replicate_succ, List.take_replicate]
  rfl
theorem test_hyp_averages : averages (takeSample CoolCtl.reset sample0) = none ∧ averages (takeSample second0 sample0) = some (4, 30, 40) := by
  refine ⟨by decide +kernel, ?_⟩
  simp only [averages, second0_take, List.length_replicate, List.map_replicate, perSecond, meanOf_replicate _ _ (by decide : 0 < 10000)]
  simp [sample0]; norm_num
theorem test_hyp_cool : let c := { CoolCtl.reset with low := true, lowClear := some 5, warm := true, warmClear := some 5, stop := some 0 }
    c.low = true ∧ c.lowClear ≠ none ∧ c.warm = true ∧ c.warmClear ≠ none ∧ c.stop ≠ none ∧ c.ended = false := by decide +kernel
theorem test_hyp_hold_end : let s := { State.reset with mc := { State.reset.mc with cool := { CoolCtl.reset with stop := some 0, ended := true, flowBack := some 1 } } }
    s.mc.cool.flowBack ≠ none ∧ stopCleared s = true := by decide +kernel

/-- BringUpGoesStateByState: every state of Table 14.3, a link that probes, a fetch that is whole and one that is not, a topology that agrees and one that differs. -/
theorem test_hyp_boot : ∀ b ∈ [Boot.off, .rom, .verify, .proofing, .discover, .admitting, .ready, .held], ({ Stack.reset with boot := b } : Stack).boot = b := by
  decide +kernel
theorem test_hyp_released : released Stack.reset = true ∧ baseResetting { Stack.reset with resetting := some (resetRun 2 none) } = true
    ∧ transitHeld { Stack.reset with resetting := some (resetRun 3 none) } = true ∧ transitHeld Stack.reset = false ∧ Stack.reset.trust.fetch = none := by decide +kernel
theorem test_hyp_fetched : let f : Fetch := ⟨0, List.replicate 64 0, some 64, 0, 65536⟩
    f.total = some f.got.length ∧ imageOk Stack.reset f.got = false ∧ (Fetch.start 0).total ≠ some 0 := by decide +kernel
theorem test_hyp_probe : let k : Packet := { pkt .cmd with dst := 0xFFFF, hops := 1, data := natBytes 128 0x00010000 }
    isProbe k = true ∧ linkUp linkedStack 0 = true ∧ columnsHeld linkedStack = false := by decide +kernel
theorem test_hyp_probing : let x := { linkedStack with boot := .discover, bring := { BringUp.reset with probing := [0] } }
    x.bring.probing.contains 0 = true ∧ x.bring.probing.contains 1 = false ∧ fld (reg x rIvtNode) 16 1 = 1 := by decide +kernel
theorem test_hyp_probed : let k : Packet := { pkt .cmdRpl with data := natBytes 128 0x00010000 }
    k.ty = .cmdRpl ∧ k.dst = nodeId linkedStack ∧ k.addr = 0 ∧ fld (word64At k.data 0) 16 16 = 0x0001 ∧ fld (word64At k.data 24) 0 16 = stOk := by decide +kernel
theorem test_hyp_package : acrossBridge 0 5 = some 1 ∧ linkUp (setReg linkedStack (rIvtLink 5) 2) 5 = true ∧ nodeUsable 0xFFEF = true ∧ nodeUsable 0xFFF0 = false := by
  decide +kernel
theorem test_hyp_topology : (∀ w, mismatch w w = 0) ∧ mismatch (List.replicate 64 1) (List.replicate 64 2) ≠ 0 := by
  refine ⟨fun w => ?_, by decide +kernel⟩
  simp [mismatch, one, portAgrees]
theorem test_hyp_reaches : reaches State.reset 0 0 = true ∧ reaches State.reset 0 3 = false := by decide +kernel

/-- PinsAndSupplies and SidebandMessages. -/
def supplied : ModCtl := { State.reset.mc with supply := true, pwrEn := true, cool := { CoolCtl.reset with qualified := true } }
theorem test_hyp_supply : supplied.supply = true ∧ supplied.pwrEn = true ∧ mayPower supplied = true ∧ supplied.pwrGood = false ∧ supplied.input ≠ 2
    ∧ mayPower State.reset.mc = false ∧ State.reset.mc.supply = false ∧ mayPower { supplied with blue := 1 } = false := by decide +kernel
theorem test_hyp_dark : let m := { supplied with vin := false, blue := 1 }
    m.vin = false ∧ (m.pwrEn = false ∨ m.blue = 1) := by decide +kernel
theorem test_hyp_mctp : let s := { State.reset with mc := { supplied with eid := 9 } }
    let bs := [0x7F, 0, 0, 0xE4, 0xA9, 1, 0, 0].map (fun n => BitVec.ofNat 8 n) ++ List.replicate 128 0
    hasEid s = true ∧ hasEid State.reset = false ∧ mctpCommand bs = some (List.replicate 128 0) ∧ mctpCommand (bs.take 5) = none ∧ relayed s < 16
    ∧ (cmdOfBytes 0x10000 8 0 0 (List.replicate 128 0)).w1 = 0 := by decide +kernel
theorem test_hyp_sensor : sensorValue { State.reset with mc := supplied } 0x60 = some 0 ∧ sensorValue { State.reset with mc := supplied } 0xFFFF = none := by decide +kernel
theorem test_hyp_ready : ∀ i : StackIx, let x := { State.reset.stack i with trust := { Stack.reset.trust with verified := true } }
    jobHeld x = false ∧ x.trust.verified = true ∧ columnsHeld x = false := by decide +kernel

/-- StepTakesTheFrontCommand, RecordCopiesStayBounded and EveryCommandGoesOn hold of every state; the reset state is one. -/
theorem test_hyp_step : State.reset.pending = [] ∧ State.reset.copiesBounded := ⟨rfl, reset_copiesBounded⟩
/-- DramCodeCorrectsAndDetects: a tag, and a tag that differs in one field. -/
theorem test_hyp_tag : (0x1FFFFFF : Nat) < 2 ^ 25 ∧ 0xF % 2 ^ 0 = 0 ∧ 0xF / 2 ^ 4 = 0 := by decide +kernel

/-- A reset of the compute die cancels the injections at its sites, and keeps those of the base die (R526). -/
theorem test_inject_cancelled : (cancelInjects (unitIn 4) { Stack.reset with inject := [(checkerKey 0x0A20 0, 1), (checkerKey 0xA104 2, 1)] }).inject
    = [(checkerKey 0x0A20 0, 1)] := by decide +kernel

/-- Module flash takes the image activated last after the write in progress (R549). -/
theorem test_flash_queue : (queueFlash { State.reset with mc := { ModCtl.reset with flashQueue := [0, 2] } } 2).mc.flashQueue = [0, 2]
    ∧ (queueFlash { State.reset with mc := { ModCtl.reset with flashQueue := [0, 2] } } 0).mc.flashQueue = [0, 2, 0] := by decide +kernel

/-- The amber indicator is steady with FAULT_L and blinks with THERMTRIP_L (R583). -/
theorem test_amber : amberIndicator { ModCtl.reset with supply := true, faultL := true } = 1
    ∧ amberIndicator { ModCtl.reset with supply := true, thermtripL := true } = 2 := by decide

/-! ### Conditions of commands that run on, of targets and of the sideband -/

/-- FX-core waits: a local flag set at dawn that no WAITC has taken, and one that a WAITC has taken in the same cycle. -/
theorem test_hyp_flag_taken : let k := { Core.reset with flags := 8 }
    flagSeen 4 (((running id).stack 0).onCore 0 (fun _ => k)) 0 3 = true ∧ flagTaken 4 3 k = false ∧ flagTaken 4 3 (takeLocal 4 3 k) = true
    ∧ flagTaken 5 3 (takeLocal 4 3 k) = false := by decide +kernel

/-- AdminCommandsAndResets: a reset with the command that waits for its end; a stack without power among the targets of QUIESCE; a reset that ends; a
link that a base transit reset keeps down. -/
theorem test_hyp_abandon : let x := (commanded (cmd0 3) (fun x => { x with resetting := some (resetRun 4 (some ref0)) })).stack 0
    x.resetting = some (resetRun 4 (some ref0)) ∧ (resetRun 4 (some ref0)).cmd = some ref0 ∧ startedCmd x ref0 = some (cmd0 3) := by decide +kernel
theorem test_hyp_quiesce_status : let s := linked id
    gate s 0 (cmd0 4) 0 = stOk ∧ gate s 0 (cmd0 4) 1 = stState ∧ ({ cmd0 4 with w1 := 3 } : Cmd).tkind = 3
    ∧ ([stOk, stState].find? (fun n => decide (n ≠ stOk))) = some stState := by decide +kernel
theorem test_hyp_base_end : let x : Stack := { linkedStack with boot := .rom, resetting := some (resetRun 2 none) }
    x.resetting = some (resetRun 2 none) ∧ x.boot = .rom ∧ baseResetting x = true ∧ ModCtl.reset.activating ≠ some 0 := by decide +kernel
theorem test_hyp_retrain_held : let x := { setReg linkedStack (rIvtLink 0) 3 with resetting := some (resetRun 3 none) }
    linkState x 0 = 3 ∧ transitHeld x = true ∧ transitHeld (setReg linkedStack (rIvtLink 0) 3) = false := by decide +kernel

/-- MemoryCommands: a run with a share left, whose queue is free and is not; a run that is over; columns that a base reset holds. -/
def bulk0 (reads : Tbl (Nat × Nat)) (asked : Nat) : BulkRun := ⟨5, ref0, reads, [], [], false, asked⟩
theorem test_hyp_bulk : let x := (commanded { cmd0 0x0101 with begun := true } (fun x => { x with bulk := [bulk0 [(0, (0, 1024))] 0] })).stack 0
    startedCmd x ref0 = some { cmd0 0x0101 with begun := true } ∧ bulkOf x ref0 = some (bulk0 [(0, (0, 1024))] 0) ∧ bulkOver (bulk0 [(0, (0, 1024))] 0) = false
    ∧ bulkOver (bulk0 [] 0) = true ∧ bulkOver (bulk0 [] 1) = false ∧ (routerSite x 0).isSome = true ∧ tfind (bulk0 [(0, (0, 1024))] 0).reads 0 = some (0, 1024)
    ∧ bulkWaits x 2 5 false = false ∧ bulkWaits (x.setVault 2 { VaultCtl.reset with firm := [acc0 (.firmware 5 false) .read 0] }) 2 5 false = true := by decide +kernel
theorem test_hyp_bulk_none : bulkOf ((commanded (cmd0 0x0101) id).stack 0) ref0 = none
    ∧ columnsHeld { linkedStack with resetting := some (resetRun 2 none) } = true := by decide +kernel

/-- JobAndPartitionCommands: targets that let a command be, one that is DISABLING, one that is QUIESCED, one without power. -/
theorem test_hyp_gates : let two := fun (f : Stack → Stack) => (linked (fun x => { x with part := 1 })).setStack 2 (f { linkedStack with part := 1 })
    let k := { cmd0 0x0207 with w1 := 2 + bv 64 (1 * 4) }
    (∀ i ∈ targets (two id) 0 k, gate (two id) 0 k i = stOk ∨ (((two id).stack i).boot = .off ∧ gate (two id) 0 k i = stState))
    ∧ gates (linked id) 0 (cmd0 0x0207) = stOk ∧ gate (two (fun x => { x with pstate := .disabling })) 0 k 2 = stBusy
    ∧ gate (two (fun x => { x with boot := .quiesced })) 0 k 2 = stState ∧ gate (two (fun x => { x with boot := .off })) 0 k 2 = stState
    ∧ ((two (fun x => { x with pstate := .disabling })).stack 2).pstate = .disabling := by decide +kernel

/-- PowerCommands: SET_CAP on a module whose four stacks all let it be. -/
def four : State := { State.reset with quad := ⟨linkedStack, linkedStack, linkedStack, linkedStack⟩ }
theorem test_hyp_module_cap : ∀ i : StackIx, (four.stack i).boot ≠ .off ∧ gate four 0 { cmd0 0x0501 with w1 := 3 } i = stOk := by decide +kernel

/-- PowerFollowsItsRules: a request of Ivton that waits to send its response, one not yet performed; a job with a known next tick.
HeatIsWatched: a die whose power is known to have been steady for long enough, and one with no such record. -/
theorem test_hyp_event : let x := { linkedStack with router := { Router.reset with rsps := [⟨0, pkt .rd, 0, true, false, true, false⟩] } }
    (∀ e ∈ x.router.rsps, e.performed = true) ∧ ¬ (∀ e ∈ [(⟨0, pkt .rd, 0, true, false, false, false⟩ : Rsp)], e.performed = true)
    ∧ (nextEvent ((member 0 1 (fun x => { x with tick := { x.tick with phase := .run, doneSent := 1, goRecv := 2, lastTick := 9 } })).stack 0) (some 700)).isSome = true := by decide +kernel
theorem test_hyp_steady : steadyPower 2500000 linkedStack 15 1000 = false
    ∧ steadyPower (10 ^ 12) { linkedStack with power := { Power.reset with powerLog := [(0, ⟨1000, 1000, 1000, 1000⟩)] } } 15 1000 = true := by decide +kernel

/-- CoolantIsWatched: a command that the hold does not allow, one that it does. -/
theorem test_hyp_hold_commands : let x := { linkedStack with power := { Power.reset with coolantHold := true } }
    busyFor x 0x0100 = true ∧ busyFor x 0x0002 = false := by decide +kernel

/-- BringUpGoesStateByState: the code memory checked in a base reset; a whole fetch while module flash is being written. -/
theorem test_hyp_verify_reset : let x : Stack := { linkedStack with boot := .verify, resetting := some (resetRun 2 none) }
    baseResetting x = true ∧ released { x with boot := .rom, resetting := none } = true ∧ fld (reg x rBruState) 16 2 ≠ 2
    ∧ imageOk x (List.replicate 64 0) = false ∧ State.reset.mc.flashQueue = [] := by decide +kernel

/-- PinsAndSupplies: record copies that a loss of power keeps; links of a stack in a base transit reset. SidebandMessages: a stack that takes a command of
TKIND 3, and none that does. -/
theorem test_hyp_power_lost : let m := { supplied with lost := true, copies := Quad.all [rec1 2] }
    mayPower m = true ∧ m.pwrGood = false ∧ m.lost = true ∧ State.reset.mc.lost = false := by decide +kernel
theorem test_hyp_refclk : let x := { setReg linkedStack (rIvtLink 0) 3 with resetting := some (resetRun 3 none) }
    transitHeld x = true ∧ x.quiesce = none ∧ x.boot ≠ .off ∧ ([0, 1, 2, 3] : List Nat).filter (fun l => linkState x l = 3) = [0] := by decide +kernel
theorem test_hyp_carrier : let bs := wordsBytes ([bv 64 (4 * 2 ^ 16 + 1), 3] ++ List.replicate 14 0)
    let c := cmdOfBytes 0x10000 8 0 0 bs
    c.tkind = 3 ∧ carrier (linked id) c bs = some 0 ∧ carrier State.reset c bs = none := by decide +kernel

/-- StepTakesTheFrontCommand: links with no symbol, no pair, no reply. -/
theorem test_hyp_quiet : let x := linkedStack
    (x.router.links.all (fun e => (x.link e.1).symbols.isEmpty)) = true ∧ x.faults.wires = [] ∧ (x.sent.all (fun e => (replyOf e).isNone)) = true := by decide +kernel

end Sys2Proof.Tests
end

section
/-! PROOFS. Every command goes on (O57): each row's meaning is an operation that keeps the queue and the time, or one that moves the
clock ahead to the row's own cycle and then changes one stack. -/

namespace Sys2Proof.Machine
open Sys2Proof

/-! ### What every command leaves -/

/-- The queue is as it was, time does not go back, and no stack has more than 256 record copies if none had. -/
structure State.Goes (s t : State) : Prop where
  pending : t.pending = s.pending
  now : s.now ≤ t.now
  copies : s.copiesBounded → t.copiesBounded

theorem State.Kept.goes {s t : State} (h : s.Kept t) : s.Goes t := ⟨h.pending, h.now.ge, h.copies⟩

/-- What a meaning answers is a next state to which the state goes. -/
def GoesOn (s : State) (o : Out) : Prop := ∃ t, o = .next t ∧ s.Goes t

theorem next_goesOn {s t : State} (h : s.Kept t) : GoesOn s (.next t) := ⟨t, rfl, h.goes⟩

theorem next_goesOn_same {s t : State} (h : s.Same t) : GoesOn s (.next t) := next_goesOn h.kept

theorem onSt_goesOn (s : State) (i : StackIx) (f : Stack → Stack) : GoesOn s (onSt s i f) := next_goesOn_same (onStack_same s i f)

theorem atCycle_goes (s : State) (t : Nat) : s.Goes (s.atCycle t) := by
  unfold State.atCycle
  split
  case isTrue => exact (State.Same.refl s).kept.goes
  case isFalse h => exact ⟨rfl, (Nat.lt_of_not_le h).le, id⟩

theorem onStAt_goesOn (s : State) (i : StackIx) (t : Nat) (f : Nat → Stack → Stack) : GoesOn s (onStAt s i t f) :=
  have h := atCycle_goes s t
  ⟨_, rfl, h.pending, h.now, h.copies⟩

theorem onCmdAll_goesOn {s : State} {st : StackIx} {r : CmdRef} {op : Nat} {f : Cmd → State → State} (h : ∀ k, s.Same (f k s)) :
    GoesOn s (onCmdAll s st r op f) := by
  refine next_goesOn_same ?_
  split
  · exact .ite (h _) (.refl s)
  · exact .refl s

/-! ### Packets -/

theorem onPacket_same (s : State) (l : LinkAt) (k : Packet) (ty : PktType) (f : Stack → Packet → Stack) : s.Same (onPacket s l k ty f) :=
  .ite (onStack_same _ _ _) (.refl s)

theorem onAnswer_same (s : State) (l : LinkAt) (k : Packet) (ty : PktType) (f : Stack → Packet → Stack) : s.Same (onAnswer s l k ty f) :=
  (onPacket_same _ _ _ _ _).trans (settleJob_same _ _)

theorem onRequest_goesOn (s : State) (l : LinkAt) (k : Packet) (ty : PktType) : GoesOn s (onRequest s l k ty) :=
  next_goesOn_same ((onPacket_same _ _ _ _ _).trans (settleControl_same _ _))

theorem execCmdRpl_goesOn (l : LinkAt) (k : Packet) (s : State) : GoesOn s (execCmdRpl l k s) := by
  refine next_goesOn_same (.ite (.refl s) ?_)
  dsimp only
  refine (setStack_same s l.st _).trans (.ite (.ite (onStack_same _ _ _) (.refl _)) (.ite ?_ (.refl _)))
  split
  · exact .ite (fetchReply_same _ _ _ _) (.refl _)
  · exact .refl _

/-! ### Faults and repair -/

theorem writeTrainings_same (i : StackIx) (n : Nat) (s : State) : s.Same (writeTrainings i n s) := by
  induction n generalizing s with
  | zero => exact .refl s
  | succ n ih => exact (writeTraining_same s i).trans (ih _)

theorem execMigrationComplete_goesOn (a : CoreAt) (s : State) : GoesOn s (execMigrationComplete a s) :=
  next_goesOn_same ((onStack_same _ _ _).trans (reportGeometry_same _ _))

theorem execCoilTest_goesOn (p : SiteAt) (x : CoilTest) (s : State) : GoesOn s (execCoilTest p x s) :=
  next_goesOn_same ((onStack_same _ _ _).trans (writeTrainings_same _ _ _))

theorem execFaultAck_goesOn (st : StackIx) (c : CmdRef) (s : State) : GoesOn s (execFaultAck st c s) := by
  refine next_goesOn ?_
  split
  · refine ite_kept (ite_kept (replyAll_same _ _ _ _ _ _).kept ?_) (State.Same.refl s).kept
    exact (clearRecords_kept _ _ _ _).trans (replyAll_same _ _ _ _ _ _).kept
  · exact (State.Same.refl s).kept

/-! ### Power, heat, coolant, the pins -/

theorem arbiterPeriod_same (s : State) (vin : Nat) (draws : Quad Nat) : s.Same (arbiterPeriod s vin draws) := by
  unfold arbiterPeriod
  exact (State.Same.foldl _ (fun _ _ => onStack_same _ _ _) allStacks s).trans (mc_same _ _ (by rfl))

theorem execSensorSample_goesOn (st : StackIx) (x : List SensorSample) (s : State) : GoesOn s (execSensorSample st x s) :=
  next_goesOn_same (.ite (.refl s) ((onStack_same _ _ _).trans (.foldl _ (fun s a => sampleEvents_same _ _ s a) x _)))

theorem execThermalUpdate_goesOn (st : StackIx) (x : DiePower) (s : State) : GoesOn s (execThermalUpdate st x s) :=
  next_goesOn_same (.ite (.refl s) ((setStack_same _ _ _).trans (.foldl _ (fun s _ => sendEvent_same s _) _ _)))

theorem execThermtrip_goesOn (st : StackIx) (s : State) : GoesOn s (execThermtrip st s) :=
  next_goesOn (ite_kept (State.Same.refl s).kept
    (((onStack_same s st powerOff).kept.trans (raiseModule_kept _ _)).trans ((mc_same _ _ (by rfl)).trans (moduleOff_same _)).kept))

/-- A command that does the same on each of its targets and answers OK. -/
theorem onCmdAll_onStack_goesOn {s : State} {st : StackIx} {r : CmdRef} {op : Nat} {f : Cmd → Stack → Stack} :
    GoesOn s (onCmdAll s st r op (fun k s => runTargets s st k (fun i s => (stOk, s.onStack i (f k))))) :=
  onCmdAll_goesOn fun _ => runTargets_same _ _ _ _ fun i t => onStack_same t i _

theorem execSetCap_goesOn (st : StackIx) (c : CmdRef) (s : State) : GoesOn s (execSetCap st c s) := by
  refine onCmdAll_goesOn fun k => ?_
  dsimp only
  refine .trans (.ite (p := k.tkind = 3) (mc_same s _ (by rfl)) (.refl s)) (runTargets_same _ _ _ _ fun i t => ?_)
  split
  · dsimp only
    exact onStack_same _ _ _
  · exact setCap_same _ _ _

theorem execPhaseForecast_goesOn (st : StackIx) (c : CmdRef) (s : State) : GoesOn s (execPhaseForecast st c s) := by
  refine onCmdAll_goesOn fun k => runTargets_same _ _ _ _ fun i t => ?_
  dsimp only
  split
  · exact .refl t
  · split
    · exact .refl t
    · exact setStack_same _ _ _

theorem execEnterCold_goesOn (st : StackIx) (c : CmdRef) (s : State) : GoesOn s (execEnterCold st c s) :=
  onCmdAll_goesOn fun k => ((replyAll_same s st k _ _ _).trans (.foldl _ (fun _ _ => onStack_same _ _ _) _ _)).trans (updateFaultL_same _)

theorem execPwrEnAssert_goesOn (s : State) : GoesOn s (execPwrEnAssert s) := by
  refine next_goesOn_same (.ite (.refl s) ⟨rfl, rfl, ?_⟩)
  dsimp only
  split <;> rfl

/-- The module controller with record copies of which no stack has more than 256. -/
theorem setMc_kept {s t : State} {m : ModCtl} (h : s.Same t) (hm : s.copiesBounded → ∀ i : StackIx, (m.copies.get i).length ≤ 256) :
    s.Kept { t with mc := m } := ⟨h.pending, h.now, hm⟩

theorem execPwrGood_goesOn (s : State) : GoesOn s (execPwrGood s) := by
  refine next_goesOn (ite_kept (State.Same.refl s).kept ?_)
  have hc : s.copiesBounded → ∀ i : StackIx, ((if s.mc.lost then s.mc.copies else Quad.all []).get i).length ≤ 256 := by
    intro b i
    split
    · exact b i
    · simp
  exact .trans (setMc_kept (.foldl _ (fun _ _ => onStack_same _ _ _) allStacks s) hc) (updateFaultL_same _).kept


theorem quiesceOver_same (s : State) : s.Same (quiesceOver s) := .ite ((moduleOff_same s).trans (mc_same _ _ (by rfl))) (.refl s)

theorem execPwrEnDeassert_goesOn (s : State) : GoesOn s (execPwrEnDeassert s) :=
  next_goesOn_same (.ite (.refl s) ((moduleOff_same s).trans (mc_same _ _ (by rfl))))

theorem execAttnL_goesOn (s : State) : GoesOn s (execAttnL s) := by
  refine next_goesOn_same (.ite (.refl s) (.ite (sendEvent_same _ _) ?_))
  refine ((((sendEvent_same s _).trans (mc_same _ _ (by rfl))).trans (.foldl _ (quiesceAt_same false true) allStacks _)).trans
    (finishQuiesce_same _)).trans (quiesceOver_same _)

theorem execQuiesceAbortTimeout_goesOn (s : State) : GoesOn s (execQuiesceAbortTimeout s) :=
  next_goesOn_same (.ite (.refl s)
    ((State.Same.foldl _ (fun s i => .ite (quiesceAt_same true true s i) (.refl s)) allStacks s).trans (finishQuiesce_same _)))

theorem execRefclkLoss_goesOn (s : State) : GoesOn s (execRefclkLoss s) :=
  next_goesOn_same ((mc_same s _ (by rfl)).trans (.foldl _ (fun s i => .ite (.refl s) (onMember_same s i _)) allStacks _))

theorem execRefclkReturn_goesOn (s : State) : GoesOn s (execRefclkReturn s) :=
  next_goesOn_same ((mc_same s _ (by rfl)).trans (.foldl _ (fun s i => onStack_same s i _) allStacks _))

/-! ### The command port, resets -/

theorem abandonReset_same (s : State) (i : StackIx) : s.Same (abandonReset s i) := onStack_same _ _ _

theorem beginAll_same (s : State) (i : StackIx) (c : Cmd) : s.Same (beginAll s i c) := onStack_same _ _ _

theorem execCmd_goesOn (l : LinkAt) (k : Packet) (s : State) : GoesOn s (execCmd l k s) :=
  next_goesOn_same (.ite (.refl s) (onStack_same _ _ _))

theorem execResetDomain_goesOn (st : StackIx) (c : CmdRef) (s : State) : GoesOn s (execResetDomain st c s) := by
  refine onCmdAll_goesOn fun k => ?_
  refine .ite (replyAll_same _ _ _ _ _ _) (.ite (replyAll_same _ _ _ _ _ _) ?_)
  have h : s.Same (if k.flags % 2 = 1 then abortPart (beginAll s st k) st else beginAll s st k) :=
    .ite ((beginAll_same _ _ _).trans (abortPart_same _ _)) (beginAll_same _ _ _)
  exact ((h.trans (.ite (replyAll_same _ _ _ _ _ _) (.refl _))).trans (abandonReset_same _ _)).trans (startReset_same _ _ _ _ _)

theorem execQuiesce_goesOn (st : StackIx) (c : CmdRef) (s : State) : GoesOn s (execQuiesce st c s) := by
  refine onCmdAll_goesOn fun k => ?_
  have h : ∀ (a b : Bool) (l : List StackIx), s.Same (l.foldl (quiesceAt a b) (beginAll s st k)) := fun a b l =>
    (beginAll_same _ _ _).trans (.foldl _ (quiesceAt_same a b) l _)
  dsimp only
  split
  · exact ((h _ _ _).trans (replyAll_same _ _ _ _ _ _)).trans (finishQuiesce_same _)
  · exact (h _ _ _).trans (finishQuiesce_same _)

theorem execWatchdogExpiry_goesOn (st : StackIx) (s : State) : GoesOn s (execWatchdogExpiry st s) :=
  next_goesOn_same (.ite (.refl s) ((onStack_same _ _ _).trans (startBase_same _ _ _)))

theorem restoreColumns_same (s : State) (i : StackIx) : s.Same (restoreColumns s i) := by
  unfold restoreColumns
  split
  · exact .refl s
  · exact onStack_same _ _ _

theorem execBaseResetEnd_goesOn (st : StackIx) (s : State) : GoesOn s (execBaseResetEnd st s) := by
  refine next_goesOn_same ?_
  split
  · exact .refl s
  · exact .ite (.refl s) (((((restoreColumns_same s st).trans (onMember_same _ _ _)).trans (.ite (enterReady_same _ _) (.refl _))).trans
      (onStack_same _ _ _)).trans (.ite (activateNext_same _ _) (.refl _)))

theorem execQuiesceLinkStop_goesOn (st : StackIx) (s : State) : GoesOn s (execQuiesceLinkStop st s) := by
  refine next_goesOn_same ?_
  dsimp only
  split
  · exact .refl s
  · exact .ite (.refl s) ((setStack_same _ _ _).trans (quiesceOver_same _))

theorem execLinkRetrain_goesOn (l : LinkAt) (s : State) : GoesOn s (execLinkRetrain l s) :=
  next_goesOn_same (.ite (.refl s) (.ite (setStack_same _ _ _) ((setStack_same _ _ _).trans (writeTraining_same _ _))))

/-! ### Jobs and partitions -/

theorem execLoadImem_goesOn (st : StackIx) (c : CmdRef) (s : State) : GoesOn s (execLoadImem st c s) :=
  onCmdAll_goesOn fun _ => .ite (replyAll_same _ _ _ _ _ _) (.ite (replyAll_same _ _ _ _ _ _) (.ite (replyAll_same _ _ _ _ _ _)
    (((onStack_same _ _ _).trans (withdrawAll_same _ _)).trans (replyAll_same _ _ _ _ _ _))))

/-- A command that acts as one leaves what its effect leaves. -/
theorem onCmdAll_asOne_goesOn {s : State} {st : StackIx} {r : CmdRef} {op : Nat} {f : Cmd → State → State} (h : ∀ k, s.Same (f k s)) :
    GoesOn s (onCmdAll s st r op (fun k s => asOne s st k (f k))) := onCmdAll_goesOn fun k => asOne_same _ _ _ _ (h k)

theorem execJobAdmit_goesOn (st : StackIx) (c : CmdRef) (s : State) : GoesOn s (execJobAdmit st c s) := by
  refine onCmdAll_asOne_goesOn fun k => ?_
  split
  · exact replyAll_same _ _ _ _ _ _
  · exact ((onStacks_same _ _ _).trans (admitPorts_same _)).trans (replyAll_same _ _ _ _ _ _)

theorem execJobStart_goesOn (st : StackIx) (c : CmdRef) (s : State) : GoesOn s (execJobStart st c s) :=
  onCmdAll_asOne_goesOn fun _ => .ite (replyAll_same _ _ _ _ _ _)
    ((((State.Same.ite (.foldl _ (fun _ _ => onStack_same _ _ _) _ s) (.refl s)).trans (onStack_same _ _ _)).trans (onStacks_same _ _ _)).trans (settleJob_same _ _))

theorem execJobAbort_goesOn (st : StackIx) (c : CmdRef) (s : State) : GoesOn s (execJobAbort st c s) := by
  refine onCmdAll_asOne_goesOn fun k => ?_
  split
  · exact replyAll_same _ _ _ _ _ _
  · exact .ite ((withdrawAll_same _ _).trans (replyAll_same _ _ _ _ _ _))
      (.ite ((onStack_same _ _ _).trans (abortPart_same _ _)) (replyAll_same _ _ _ _ _ _))

theorem execPartitionSet_goesOn (st : StackIx) (c : CmdRef) (s : State) : GoesOn s (execPartitionSet st c s) :=
  onCmdAll_asOne_goesOn fun _ => .ite (replyAll_same _ _ _ _ _ _) (.ite (replyAll_same _ _ _ _ _ _)
    ((State.Same.foldl _ (fun _ _ => onStack_same _ _ _) _ s).trans (replyAll_same _ _ _ _ _ _)))

theorem execPartitionDisable_goesOn (st : StackIx) (c : CmdRef) (s : State) : GoesOn s (execPartitionDisable st c s) := by
  refine onCmdAll_asOne_goesOn fun k => ?_
  split
  · exact replyAll_same _ _ _ _ _ _
  next i _ _ =>
    exact .ite (replyAll_same _ _ _ _ _ _) ((withdrawAll_same s i).trans (.ite ((onStacks_same _ _ _).trans (replyAll_same _ _ _ _ _ _))
      ((((onStacks_same _ _ _).trans (beginAll_same _ _ _)).trans (.ite (abortPart_same _ _) (.refl _))).trans (settleJob_same _ _))))

theorem execPartitionEnable_goesOn (st : StackIx) (c : CmdRef) (s : State) : GoesOn s (execPartitionEnable st c s) :=
  onCmdAll_asOne_goesOn fun _ => .ite (replyAll_same _ _ _ _ _ _) (.ite (replyAll_same _ _ _ _ _ _)
    ((onStacks_same _ _ _).trans (replyAll_same _ _ _ _ _ _)))

/-! ### Trust -/

theorem execFuseBurn_goesOn (st : StackIx) (s : State) : GoesOn s (execFuseBurn st s) := by
  refine next_goesOn_same ?_
  dsimp only
  split
  · exact .refl s
  · exact .ite (.refl s) (((setStack_same _ _ _).trans (reportGeometry_same _ _)).trans (settleLicence_same _))

theorem execFwActivate_goesOn (st : StackIx) (c : CmdRef) (s : State) : GoesOn s (execFwActivate st c s) :=
  onCmdAll_goesOn fun _ => .ite (replyAll_same _ _ _ _ _ _) (activate_same _ _ _)

theorem execFlashImageWrite_goesOn (st : StackIx) (s : State) : GoesOn s (execFlashImageWrite st s) := by
  refine next_goesOn_same ?_
  split
  · exact .refl s
  · exact .ite (.refl s) (mc_same s _ (by rfl))

theorem execLeafReservation_goesOn (st : StackIx) (s : State) : GoesOn s (execLeafReservation st s) := by
  refine next_goesOn_same ?_
  dsimp only
  split
  · exact .refl s
  · exact .ite (.refl s) ((mc_same s _ (by rfl)).trans (setStack_same _ _ _))

theorem execAttest_goesOn (st : StackIx) (c : CmdRef) (s : State) : GoesOn s (execAttest st c s) := by
  refine onCmdAll_goesOn fun k => .ite (.ite (replyAll_same _ _ _ _ _ _) (replyAll_same _ _ _ _ _ _)) (.ite ?_ (.ite ?_ ?_))
  · refine .trans ?_ (replyAll_same _ _ _ _ _ _)
    exact ⟨rfl, rfl, rfl⟩
  · exact (onStack_same _ _ _).trans (replyAll_same _ _ _ _ _ _)
  · exact replyAll_same _ _ _ _ _ _

theorem execLicenceInstall_goesOn (st : StackIx) (c : CmdRef) (s : State) : GoesOn s (execLicenceInstall st c s) := by
  refine onCmdAll_goesOn fun k => .ite (replyAll_same _ _ _ _ _ _) ?_
  refine ((((mc_same s _ (by rfl)).trans (onStacks_same _ _ _)).trans (beginAll_same _ _ _)).trans (onStack_same _ _ _)).trans (settleLicence_same _)

/-! ### Bring-up -/

theorem flipFlash_copies (m : ModCtl) (e : Nat × Fin 8) : (flipFlash m e).copies = m.copies := by
  unfold flipFlash
  split
  · rfl
  · split
    · rfl
    · unfold putArea
      split <;> rfl

theorem foldl_flipFlash_copies (m : ModCtl) (l : List (Nat × Fin 8)) : (l.foldl flipFlash m).copies = m.copies := by
  induction l generalizing m with
  | nil => rfl
  | cons e l ih => exact (ih _).trans (flipFlash_copies m e)

theorem execRomComplete_goesOn (st : StackIx) (x : RomSample) (s : State) : GoesOn s (execRomComplete st x s) := by
  exact next_goesOn_same (.ite (.refl s) (.trans (mc_same s _ (foldl_flipFlash_copies _ _)) (.ite (.ite (.refl _) (setStack_same _ _ _))
    (((setStack_same _ _ _).trans (updateFaultL_same _)).trans (.ite (resetLeaf_same _ _) (.refl _))))))

theorem execVerifyComplete_goesOn (st : StackIx) (x : VerifyFrom) (s : State) : GoesOn s (execVerifyComplete st x s) := by
  refine next_goesOn_same (.ite (.refl s) ?_)
  split
  · exact .ite (toProofing_same _ _ _ _) ((setStack_same _ _ _).trans (askSource_same _ _))
  · refine .ite (.refl s) (.ite ((toProofing_same _ _ _ _).trans (.ite (.refl _) (mc_same _ _ (by rfl)))) (nextSource_same _ _))
  · exact .refl s

theorem execFwFetchTimeout_goesOn (st : StackIx) (s : State) : GoesOn s (execFwFetchTimeout st s) :=
  next_goesOn_same (.ite (.refl s) (nextSource_same _ _))

theorem execProofingComplete_goesOn (st : StackIx) (x : Proofing) (s : State) : GoesOn s (execProofingComplete st x s) := by
  exact next_goesOn_same (.ite (.refl s) ((((setStack_same _ _ _).trans (reportGeometry_same _ _)).trans (.ite (writeTraining_same _ _) (.refl _))).trans (onStack_same _ _ _)))

theorem execPackageRecord_goesOn (l : LinkAt) (x : PackageRec) (s : State) : GoesOn s (execPackageRecord l x s) :=
  next_goesOn_same (.ite (.refl s) ((setStack_same _ _ _).trans (learnPeers_same _)))

theorem execTopologyCompare_goesOn (st : StackIx) (s : State) : GoesOn s (execTopologyCompare st s) := by
  refine next_goesOn_same ?_
  split
  · exact .ite (compareTopology_same _ _ _) (.refl s)
  · exact .refl s

theorem execExpectTopology_goesOn (st : StackIx) (c : CmdRef) (s : State) : GoesOn s (execExpectTopology st c s) := by
  refine onCmdAll_goesOn fun k => ?_
  have h := onTargets_same s (targets s st k) (fun i t => if gate t st k i ≠ stOk then (gate t st k i, t) else expectAt k.data i t) fun i t => by
    split
    · exact .refl t
    · exact expectAt_same _ _ _
  exact (h.trans (.ite (mc_same _ _ (by rfl)) (.refl _))).trans (replyAll_same _ _ _ _ _ _)

theorem execSetNodeId_goesOn (st : StackIx) (c : CmdRef) (s : State) : GoesOn s (execSetNodeId st c s) :=
  have r : ∀ (c : Cmd) (n : Nat), s.Same (replyAll s st c n [] []) := fun _ _ => replyAll_same _ _ _ _ _ _
  onCmdAll_goesOn fun _ => .ite (r _ _) (.ite (r _ _) (.ite (r _ _) (.ite (r _ _) ((r _ _).trans (assignId_same _ _ _)))))

/-! ### The sideband -/

theorem execMctpMessage_goesOn (m : List Byte) (s : State) : GoesOn s (execMctpMessage m s) := by
  refine next_goesOn_same (.ite (.refl s) ?_)
  split
  · exact .refl s
  · refine .ite (say_same _ _) (.ite (say_same _ _) (.ite (.ite ?_ (say_same _ _)) (.ite ?_ (setStack_same _ _ _))))
    · exact (coldExit_same _ _).trans (say_same _ _)
    · exact (startStack_same _ _ _).trans (say_same _ _)

theorem execPldmSensorRead_goesOn (n : Nat) (s : State) : GoesOn s (execPldmSensorRead n s) := by
  refine next_goesOn_same (.ite (.refl s) ?_)
  split <;> exact say_same _ _

theorem execRequestFirmwareData_goesOn (c : FwChunk) (s : State) : GoesOn s (execRequestFirmwareData c s) := by
  have h := onTargets_same s allStacks (chunkAt c) (chunkAt_same c)
  refine next_goesOn_same (.ite (.refl s) ?_)
  generalize onTargets s allStacks (chunkAt c) = e at h
  exact h.trans (say_same _ _)

theorem execActivateFirmware_goesOn (s : State) : GoesOn s (execActivateFirmware s) :=
  next_goesOn_same (.ite (.refl s) (.ite (say_same _ _) ((say_same _ _).trans (activateNext_same _ _))))

/-! ### Every row -/

/-- A row that makes at most one change, where its condition holds. -/
theorem ite_goesOn {s t : State} {p : Prop} [Decidable p] (h : s.Same t) : GoesOn s (.next (if p then t else s)) :=
  next_goesOn_same (.ite h (.refl s))

theorem ite_not_goesOn {s t : State} {p : Prop} [Decidable p] (h : s.Same t) : GoesOn s (.next (if p then s else t)) :=
  next_goesOn_same (.ite (.refl s) h)

/-- Every command answers a next state to which the state goes: the rows that act on the module are named, every other row changes one stack. -/
theorem exec_goesOn (c : Instr) (s : State) : GoesOn s (exec c s) := by
  cases c
  case vaultRequestArrive p id t => exact onStAt_goesOn s p.st t (fun now x => vaultArrive now x p.s.val id)
  case vaultGrant p t u => exact onStAt_goesOn s p.st t (fun now x => vaultGrant now x p.s.val u)
  case rateWindowStart p t => exact onStAt_goesOn s p.st t (fun now x => rateWindow now x p.s.val)
  case refreshDue p bank layer t => exact onStAt_goesOn s p.st t (fun now x => refreshDue now x p.s.val bank.val layer.val)
  case startToken | doneToken | goToken | abortToken | tickDoneSend | tickStart | dataSlotReceive | linkDown | linkLockLoss | linkAckTimeout | reqTimeout =>
    exact next_goesOn_same (onMember_same _ _ _)
  case rd | wr | wrm | atomPacket => exact onRequest_goesOn _ _ _ _
  case rdRsp | wrAck | atomRsp | errRsp | nodeDown | mcAck | mcDrop => exact next_goesOn_same (onAnswer_same _ _ _ _ _)
  case collUp | collDown => exact ite_not_goesOn (onPacket_same _ _ _ _ _)
  case mcWr | packetForward => exact ite_not_goesOn (onStack_same _ _ _)
  case cmd => exact execCmd_goesOn _ _ _
  case cmdRpl => exact execCmdRpl_goesOn _ _ _
  case topAccessComplete => exact next_goesOn_same ((onStack_same _ _ _).trans (settleControl_same _ _))
  case ivtLostWrite | ivtRouteWrite | registerWrite => exact next_goesOn_same (registerWrite_same _ _ _ _)
  case resetDomain => exact execResetDomain_goesOn _ _ _
  case quiesce => exact execQuiesce_goesOn _ _ _
  case watchdogExpiry => exact execWatchdogExpiry_goesOn _ _
  case baseResetEnd => exact execBaseResetEnd_goesOn _ _
  case quiesceLinkStop => exact execQuiesceLinkStop_goesOn _ _
  case linkRetrain => exact execLinkRetrain_goesOn _ _
  case attnL => exact execAttnL_goesOn _
  case quiesceAbortTimeout => exact execQuiesceAbortTimeout_goesOn _
  case loadImem => exact execLoadImem_goesOn _ _ _
  case jobAdmit => exact execJobAdmit_goesOn _ _ _
  case jobStart => exact execJobStart_goesOn _ _ _
  case jobAbort => exact execJobAbort_goesOn _ _ _
  case partitionSet => exact execPartitionSet_goesOn _ _ _
  case partitionDisable => exact execPartitionDisable_goesOn _ _ _
  case partitionEnable => exact execPartitionEnable_goesOn _ _ _
  case setLatencyTolerance | phaseOpp => exact onCmdAll_onStack_goesOn
  case setCap => exact execSetCap_goesOn _ _ _
  case phaseForecast => exact execPhaseForecast_goesOn _ _ _
  case enterCold => exact execEnterCold_goesOn _ _ _
  case faultRecordArrive => exact next_goesOn (faultArrive_kept _ _)
  case errorWire => exact next_goesOn_same ((onStack_same _ _ _).trans (updateFaultL_same _))
  case faultAck => exact execFaultAck_goesOn _ _ _
  case migrationComplete => exact execMigrationComplete_goesOn _ _
  case coilTest => exact execCoilTest_goesOn _ _ _
  case capCheck | oppChangeComplete | meringueAdjust | grantArrive | grantWait | idleChoose | governorUpdate | thermalModelUpdate | aclkRestart =>
    exact next_goesOn_same (onLive_same _ _ _)
  case idleExitComplete => exact next_goesOn_same ((onLive_same _ _ _).trans (settleControl_same _ _))
  case arbiterPeriod => exact ite_goesOn (arbiterPeriod_same _ _ _)
  case sensorSample => exact execSensorSample_goesOn _ _ _
  case thermalUpdate => exact execThermalUpdate_goesOn _ _ _
  case thermtrip => exact execThermtrip_goesOn _ _
  case coolantSample => exact next_goesOn (coolantSample_kept _ _)
  case coolantMessageRepeat => exact next_goesOn_same (repeatMessage_same _ _)
  case coolantDerateLift => exact next_goesOn_same (derateLift_same _ _)
  case coolantStopDeadline => exact next_goesOn_same (stopDeadline_same _)
  case coolantHoldEnd => exact next_goesOn_same (holdEnd_same _)
  case attest => exact execAttest_goesOn _ _ _
  case licenceInstall => exact execLicenceInstall_goesOn _ _ _
  case fwActivate => exact execFwActivate_goesOn _ _ _
  case fuseBurn => exact execFuseBurn_goesOn _ _
  case leafReservation => exact execLeafReservation_goesOn _ _
  case flashImageWrite => exact execFlashImageWrite_goesOn _ _
  case expectTopology => exact execExpectTopology_goesOn _ _ _
  case getTopology => exact onCmdAll_asOne_goesOn fun _ => replyAll_same _ _ _ _ _ _
  case setNodeId => exact execSetNodeId_goesOn _ _ _
  case romComplete => exact execRomComplete_goesOn _ _ _
  case verifyComplete => exact execVerifyComplete_goesOn _ _ _
  case fwFetchTimeout => exact execFwFetchTimeout_goesOn _ _
  case proofingComplete => exact execProofingComplete_goesOn _ _ _
  case packageRecord => exact execPackageRecord_goesOn _ _ _
  case topologyCompare => exact execTopologyCompare_goesOn _ _
  case housekeepingStart => exact ite_not_goesOn ((mc_same _ _ (by rfl)).trans (updateFaultL_same _))
  case pwrEnAssert => exact execPwrEnAssert_goesOn _
  case pwrEnDeassert => exact execPwrEnDeassert_goesOn _
  case pwrGood => exact execPwrGood_goesOn _
  case inputUndervoltage | inputOvervoltage | inputOvercurrent => exact ite_not_goesOn ((moduleOff_same _).trans (mc_same _ _ (by rfl)))
  case inputRestore => exact ite_not_goesOn (mc_same _ _ (by rfl))
  case refclkLoss => exact execRefclkLoss_goesOn _
  case refclkReturn => exact execRefclkReturn_goesOn _
  case removeIndicator | setdasa | entdaa | eventReceiver => exact ite_goesOn (mc_same _ _ (by rfl))
  case setEndpointId => exact ite_not_goesOn ((mc_same _ _ (by rfl)).trans (say_same _ _))
  case getEndpointId | getMctpVersionSupport | getMessageTypeSupport => exact ite_not_goesOn (say_same _ _)
  case mctpMessage => exact execMctpMessage_goesOn _ _
  case pldmBase => exact ite_goesOn (say_same _ _)
  case pldmSensorRead => exact execPldmSensorRead_goesOn _ _
  case requestFirmwareData => exact execRequestFirmwareData_goesOn _ _
  case activateFirmware => exact execActivateFirmware_goesOn _
  all_goals exact onSt_goesOn _ _ _

/-- Settles O57: `exec_goesOn` says it of every row, and of the record copies too. -/
theorem everyCommandGoesOn : Obligations.EveryCommandGoesOn := by
  intro c s
  obtain ⟨t, ht, hg⟩ := exec_goesOn c s
  exact ⟨t, ht, hg.pending, hg.now⟩

end Sys2Proof.Machine
end

section
/-! PROOFS. Register writes (O40): a bit of IVT_LOST that the hardware sets again in the cycle of the write stays 1, also where the cycle found
it set (R15). -/

namespace Sys2Proof.Machine
open Sys2Proof

/-- A stack with power whose IVT_LOST0 marks node 0 since an earlier cycle, and whose router marks it again in the present one. -/
def lostAgain : State :=
  ((State.reset.setStack 0 (setReg { Stack.reset with boot := .ready } (rIvtLost 0) 1)).atCycle 1).onStack 0 (fun x => nodeDown 1 x 0)

theorem lostAgain_boot : (lostAgain.stack 0).boot ≠ .off := by decide +kernel

/-- The write of a 1 does not clear the bit. -/
theorem lostAgain_bit_stays :
    exec (.ivtLostWrite 0 0 1) lostAgain = .next (registerWrite lostAgain 0 (rIvtLost 0) 1)
    ∧ reg ((registerWrite lostAgain 0 (rIvtLost 0) 1).stack 0) (rIvtLost 0) = 1 := ⟨rfl, by decide +kernel⟩

/-- The word that the statement has the register take, by what the cycle found in it: the bit cleared. -/
theorem lostAgain_bit_cleared :
    let x := lostAgain.stack 0
    let w := reg x (rIvtLost 0) &&& ~~~(1#64 &&& tget resetValue (lostAgain.dawn.get 0) (rIvtLost 0))
    reg (setReg x (rIvtLost 0) w) (rIvtLost 0) = 0 := by decide +kernel

/-- Refutes O40: IVT_LOST0 found with bit 0 set, the bit set again by the hardware in the cycle in which a 1 is written to it. The bit stays 1, as R15
has it; the statement clears every bit that the cycle found set. -/
theorem not_registerWritesChangeTheirFields : ¬ Obligations.RegisterWritesChangeTheirFields := by
  intro h
  obtain ⟨-, -, hlost⟩ := h lostAgain 0 lostAgain_boot
  obtain ⟨hexec, hstays⟩ := lostAgain_bit_stays
  have hcleared := Host.Outcome.next.inj (hexec.symm.trans (hlost 0 1))
  rw [hcleared, State.stack_setStack_same] at hstays
  exact absurd (lostAgain_bit_cleared.symm.trans hstays) (by decide)

end Sys2Proof.Machine
end

section
/-! PROOFS. Admin commands, resets, quiesce and link retraining (O42). -/

namespace Sys2Proof.Machine
open Sys2Proof

/-! ### What changes the stacks alone -/

/-- Nothing but the stacks has changed: the module controller, the time, the queue stand. -/
def State.StacksAlone (s t : State) : Prop := t = { s with quad := t.quad }

theorem State.StacksAlone.refl (s : State) : s.StacksAlone s := rfl

theorem State.StacksAlone.trans {s t u : State} (a : s.StacksAlone t) (b : t.StacksAlone u) : s.StacksAlone u := by
  rw [State.StacksAlone, b, a]

theorem State.StacksAlone.ite {s t u : State} {p : Prop} [Decidable p] (a : s.StacksAlone t) (b : s.StacksAlone u) :
    s.StacksAlone (if p then t else u) := by
  split
  · exact a
  · exact b

theorem State.StacksAlone.foldl {α : Type} (f : State → α → State) (h : ∀ (s : State) (a : α), s.StacksAlone (f s a)) (l : List α) (s : State) :
    s.StacksAlone (l.foldl f s) := by
  induction l generalizing s with
  | nil => exact .refl s
  | cons a l ih => exact (h s a).trans (ih (f s a))

theorem State.StacksAlone.mc {s t : State} (h : s.StacksAlone t) : t.mc = s.mc := by rw [h]

theorem onStack_stacksAlone (s : State) (i : StackIx) (f : Stack → Stack) : s.StacksAlone (s.onStack i f) := rfl

theorem onStacks_stacksAlone (s : State) (l : List StackIx) (f : Stack → Stack) : s.StacksAlone (s.onStacks l f) :=
  .foldl _ (fun s i => onStack_stacksAlone s i f) l s

theorem answerAll_stacksAlone (s : State) (cs : List (StackIx × Cmd)) (tick : Word) (status : Nat) (r : List Word) :
    s.StacksAlone (answerAll s cs tick status r) := .foldl _ (fun _ _ => onStack_stacksAlone _ _ _) _ _

theorem endJob_stacksAlone (s : State) (p : Nat) : s.StacksAlone (endJob s p) := by
  unfold endJob
  exact .ite (.refl s) ((((onStacks_stacksAlone _ _ _).trans (answerAll_stacksAlone _ _ _ _ _)).trans (answerAll_stacksAlone _ _ _ _ _)).trans
    (.ite ((onStacks_stacksAlone _ _ _).trans (answerAll_stacksAlone _ _ _ _ _)) (.refl _)))

theorem finishDisable_stacksAlone (s : State) (p : Nat) : s.StacksAlone (finishDisable s p) := by
  unfold finishDisable
  exact .ite (.refl s) ((onStacks_stacksAlone _ _ _).trans (answerAll_stacksAlone _ _ _ _ _))

theorem finishQuiesce_stacksAlone (s : State) : s.StacksAlone (finishQuiesce s) := by
  unfold finishQuiesce
  exact (State.StacksAlone.foldl _ (fun _ _ => onStack_stacksAlone _ _ _) allStacks s).trans
    (.foldl _ (fun _ _ => .ite (onStack_stacksAlone _ _ _) (.refl _)) _ _)

theorem onMember_stacksAlone (s : State) (i : StackIx) (f : Stack → Stack) : s.StacksAlone (onMember s i f) :=
  (((onStack_stacksAlone s i f).trans (endJob_stacksAlone _ _)).trans (finishDisable_stacksAlone _ _)).trans (finishQuiesce_stacksAlone _)

theorem restoreColumns_stacksAlone (s : State) (i : StackIx) : s.StacksAlone (restoreColumns s i) := by
  unfold restoreColumns
  split
  · exact .refl s
  · exact onStack_stacksAlone _ _ _

theorem enterReady_activating (s : State) (i : StackIx) : (enterReady s i).mc.activating = s.mc.activating := by
  unfold enterReady queueFlash
  dsimp only
  split
  · split <;> rfl
  · rfl

/-- A change of a stack that leaves it as it is. -/
theorem onStack_id {s : State} {i : StackIx} {f : Stack → Stack} (h : f (s.stack i) = s.stack i) : s.onStack i f = s := by
  rw [State.onStack, h, State.setStack_self]

/-! ### RESET_DOMAIN -/

section ResetDomain
variable {s : State} {st : StackIx} {r : CmdRef} {k : Cmd} (h : CmdStarted s st r 0x0003 k)
include h

theorem resetDomain_busy (hl : resetLets (s.stack st) (k.arg 0).toNat = false) :
    exec (.resetDomain st r) s = .next (replyAll s st k stBusy [] []) := by
  change execResetDomain st r s = _
  rw [execResetDomain, onCmdAll_started _ h]
  simp [hl]

theorem resetDomain_refused (hl : resetLets (s.stack st) (k.arg 0).toNat = true) (hf : ¬ k.flags % 2 = 1) (hj : jobHeld (s.stack st) = true) :
    exec (.resetDomain st r) s = .next (replyAll s st k stState [] []) := by
  change execResetDomain st r s = _
  rw [execResetDomain, onCmdAll_started _ h]
  simp [hl, hj, show k.flags % 2 = 0 by omega]

/-- A RESET_DOMAIN that may start: where a job is held FORCE ends it, domains 1 to 3 answer, and the reset is asserted. -/
theorem resetDomain_starts (hl : resetLets (s.stack st) (k.arg 0).toNat = true) (hf : k.flags % 2 = 1 ∨ jobHeld (s.stack st) = false) :
    exec (.resetDomain st r) s = .next (
      let t := if k.flags % 2 = 1 then abortPart (beginAll s st k) st else beginAll s st k
      let u := if (k.arg 0).toNat ≤ 3 then replyAll t st { k with acted := some (targetTick s st k) } stOk [] [] else t
      startReset (abandonReset u st) st (k.arg 0).toNat k.core r) := by
  change execResetDomain st r s = _
  rw [execResetDomain, onCmdAll_started _ h]
  have hr : ¬ (k.flags % 2 = 0 ∧ jobHeld (s.stack st) = true) := by
    rintro ⟨h0, hj⟩
    rcases hf with hf | hf
    · omega
    · simp [hj] at hf
  simp only [hl, Bool.not_true, Bool.false_eq_true, if_false, if_neg hr]

/-- Domains 1 to 3 are answered before the reset. -/
theorem resetDomain_answers {d : Nat} (hl : resetLets (s.stack st) (k.arg 0).toNat = true) (hf : k.flags % 2 = 1 ∨ jobHeld (s.stack st) = false)
    (hd : (k.arg 0).toNat = d) (h3 : d ≤ 3) :
    exec (.resetDomain st r) s = .next (
      let t := if k.flags % 2 = 1 then abortPart (beginAll s st k) st else beginAll s st k
      startReset (abandonReset (replyAll t st { k with acted := some (targetTick s st k) } stOk [] []) st) st d k.core r) := by
  rw [resetDomain_starts h hl hf]
  simp only [hd, if_pos h3]

/-- Domains 4 and 5 wait for the reset's end. -/
theorem resetDomain_waits {d : Nat} (hl : resetLets (s.stack st) (k.arg 0).toNat = true) (hf : k.flags % 2 = 1 ∨ jobHeld (s.stack st) = false)
    (hd : (k.arg 0).toNat = d) (h3 : 3 < d) :
    exec (.resetDomain st r) s = .next (
      let t := if k.flags % 2 = 1 then abortPart (beginAll s st k) st else beginAll s st k
      startReset (abandonReset t st) st d k.core r) := by
  rw [resetDomain_starts h hl hf]
  simp only [hd, if_neg (Nat.not_le.mpr h3)]

end ResetDomain

theorem abandonReset_answers {s : State} {st : StackIx} {rr : ResetRun} {r : CmdRef} {k : Cmd} (h : (s.stack st).resetting = some rr)
    (hr : rr.cmd = some r) (hk : startedCmd (s.stack st) r = some k) :
    abandonReset s st = s.setStack st (answerCmd s.now (s.stack st) k stAborted) := by
  simp [abandonReset, State.onStack, h, hr, hk]

theorem abandonReset_idle {s : State} {st : StackIx} (h : (s.stack st).resetting = none) : abandonReset s st = s :=
  onStack_id (by simp [h])

/-! ### QUIESCE -/

/-- The status with which target `i` takes a QUIESCE. -/
def quiesceStatus (s : State) (st : StackIx) (k : Cmd) (i : StackIx) : Nat :=
  if gate s st k i ≠ stOk then gate s st k i else if (s.stack i).boot = .off ∨ (s.stack i).boot = .quiesced then stState else stOk

/-- The module with each target that takes a QUIESCE in it. -/
def quiesceGo (s : State) (st : StackIx) (k : Cmd) : State :=
  ((targets s st k).filter (fun i => quiesceStatus s st k i = stOk)).foldl (quiesceAt (decide (k.flags % 2 = 1)) (decide (k.tkind = 3))) (beginAll s st k)

/-- A started QUIESCE: each target that takes it enters it, and the first that does not has it answered at once. -/
theorem quiesce_eq {s : State} {st : StackIx} {r : CmdRef} {k : Cmd} (h : CmdStarted s st r 0x0004 k) :
    exec (.quiesce st r) s = .next (finishQuiesce ((((targets s st k).map (quiesceStatus s st k)).find? (fun n => n ≠ stOk)).elim (quiesceGo s st k)
      (fun e => replyAll (quiesceGo s st k) st { k with acted := some (targetTick s st k) } e [] []))) := by
  change execQuiesce st r s = _
  rw [execQuiesce, onCmdAll_started _ h]
  change Host.Outcome.next (match ((targets s st k).map (quiesceStatus s st k)).find? (fun n => n ≠ stOk) with | some e => _ | none => _) = _
  cases ((targets s st k).map (quiesceStatus s st k)).find? (fun n => n ≠ stOk) <;> rfl

theorem quiesce_waits {s : State} {st : StackIx} {r : CmdRef} {k : Cmd} (h : CmdStarted s st r 0x0004 k)
    (ht : ∀ i ∈ targets s st k, quiesceStatus s st k i = stOk) : exec (.quiesce st r) s = .next (finishQuiesce (quiesceGo s st k)) := by
  have hn : ((targets s st k).map (quiesceStatus s st k)).find? (fun n => n ≠ stOk) = none := by simpa using ht
  rw [quiesce_eq h, hn, Option.elim_none]

theorem quiesce_refused {s : State} {st : StackIx} {r : CmdRef} {k : Cmd} {e : Nat} (h : CmdStarted s st r 0x0004 k)
    (ht : ((targets s st k).map (quiesceStatus s st k)).find? (fun n => n ≠ stOk) = some e) :
    exec (.quiesce st r) s = .next (finishQuiesce (replyAll (quiesceGo s st k) st { k with acted := some (targetTick s st k) } e [] [])) := by
  rw [quiesce_eq h, ht, Option.elim_some]

theorem withdrawAll_idle {s : State} {st : StackIx} (h : (s.stack st).pstate ≠ .admitted) : withdrawAll s st = s := if_neg h

theorem quiesceAt_enters {s : State} {st : StackIx} (all : Bool) (ho : (s.stack st).boot ≠ .off) (hq : (s.stack st).quiesce = none)
    (hp : (s.stack st).pstate ≠ .admitted) :
    quiesceAt false all s st =
      { s.setStack st { s.stack st with boot := .quiesced, quiesce := some { abort := false, stage := 0, all := all } } with mc := { s.mc with blue := 1 } } := by
  unfold quiesceAt
  simp only [hq, if_neg ho, Bool.false_eq_true, if_false]
  refine withdrawAll_idle ?_
  simpa using hp

/-! ### RESET_COMPLETE -/

/-- The domain of Table 15.6 that a RESET_COMPLETE ends. -/
def endsReset (d : ResetDomain) (r : ResetRun) : Bool :=
  match d with
  | .stack => decide (r.domain = 1)
  | .transit => decide (r.domain = 3)
  | .computeDie => decide (r.domain = 4)
  | .core c => decide (r.domain = 5 ∧ r.core = c.val)

/-- A stack whose reset has ended, before the command that waits for it is answered. -/
def resetOver (s : State) (x : Stack) (r : ResetRun) : Stack :=
  let y : Stack := { x with resetting := none }
  let y := if r.domain = 1 then { y with bring := { y.bring with since := s.now, stateAt := s.now } } else y
  if r.domain = 3 then transitBack s.now (partnerThere s y) y (r.runs.map (fun e => e.1)) else y

theorem resetOver_stack (s : State) (x : Stack) {r : ResetRun} (h : r.domain = 1) :
    resetOver s x r = { x with resetting := none, bring := { x.bring with since := s.now, stateAt := s.now } } := by
  simp only [resetOver, h, if_pos, if_neg (show ¬ (1 : Nat) = 3 by decide)]

theorem resetOver_transit (s : State) (x : Stack) {r : ResetRun} (h : r.domain = 3) :
    resetOver s x r = transitBack s.now (partnerThere s { x with resetting := none }) { x with resetting := none } (r.runs.map (fun e => e.1)) := by
  simp only [resetOver, h, if_pos, if_neg (show ¬ (3 : Nat) = 1 by decide)]

theorem resetOver_other (s : State) (x : Stack) {r : ResetRun} (h1 : r.domain ≠ 1) (h3 : r.domain ≠ 3) :
    resetOver s x r = { x with resetting := none } := by
  simp only [resetOver, if_neg h1, if_neg h3]

/-- The command that waits for the end of a reset answered. -/
def answerReset (now : Nat) (r : ResetRun) (y : Stack) : Stack :=
  match r.cmd.bind (startedCmd y) with
  | some k => answerCmd now y k stOk
  | none => y

theorem answerReset_started {now : Nat} {rr : ResetRun} {y : Stack} {r : CmdRef} {k : Cmd} (hc : rr.cmd = some r) (hk : startedCmd y r = some k) :
    answerReset now rr y = answerCmd now y k stOk := by
  simp only [answerReset, hc, Option.bind_some, hk]

theorem answerReset_none {now : Nat} {rr : ResetRun} {y : Stack} (hc : rr.cmd = none) : answerReset now rr y = y := by
  simp only [answerReset, hc, Option.bind_none]

theorem resetComplete_none {s : State} {st : StackIx} (d : ResetDomain) (h : (s.stack st).resetting = none) :
    exec (.resetComplete st d) s = .next s := congrArg Host.Outcome.next (onStack_id (by simp only [h]))

theorem resetComplete_other {s : State} {st : StackIx} {d : ResetDomain} {r : ResetRun} (h : (s.stack st).resetting = some r)
    (hd : endsReset d r = false) : exec (.resetComplete st d) s = .next s := by
  refine congrArg Host.Outcome.next (onStack_id ?_)
  simp only [h]
  exact if_pos (congrArg (!·) hd)

theorem resetComplete_ends {s : State} {st : StackIx} {d : ResetDomain} {r : ResetRun} (h : (s.stack st).resetting = some r)
    (hd : endsReset d r = true) :
    exec (.resetComplete st d) s = .next (s.setStack st (answerReset s.now r (resetOver s (s.stack st) r))) := by
  refine congrArg (fun y => Host.Outcome.next (s.setStack st y)) ?_
  simp only [h]
  exact if_neg (fun e => absurd ((congrArg (!·) hd).symm.trans e) (by decide))

/-- A command that waits for the end of a reset of domain 4 or 5 is answered with it. -/
theorem resetComplete_answers {s : State} {st : StackIx} {d : ResetDomain} {rr : ResetRun} {r : CmdRef} {k : Cmd}
    (h : (s.stack st).resetting = some rr) (hd : endsReset d rr = true) (h45 : rr.domain = 4 ∨ rr.domain = 5) (hc : rr.cmd = some r)
    (hk : startedCmd (s.stack st) r = some k) :
    exec (.resetComplete st d) s = .next (s.setStack st (answerCmd s.now { s.stack st with resetting := none } k stOk)) := by
  rw [resetComplete_ends h hd, resetOver_other s _ (by omega) (by omega)]
  exact congrArg (fun y => Host.Outcome.next (s.setStack st y)) (answerReset_started hc hk)

/-! ### The end of a base non-transit reset -/

/-- The module after the end of a base non-transit reset, before a command that waits for it is answered and a next activation begins. -/
def baseResetOver (s : State) (st : StackIx) : State :=
  let t := onMember (restoreColumns s st) st (baseResetEnd s.now)
  if (t.stack st).boot = .ready then enterReady t st else t

theorem baseResetOver_activating (s : State) (st : StackIx) : (baseResetOver s st).mc.activating = s.mc.activating := by
  have hmc : (onMember (restoreColumns s st) st (baseResetEnd s.now)).mc = s.mc :=
    (onMember_stacksAlone _ _ _).mc.trans (restoreColumns_stacksAlone _ _).mc
  unfold baseResetOver
  dsimp only
  split
  · rw [enterReady_activating, hmc]
  · rw [hmc]

/-- With no command that waits for the end and no activation of this stack nothing follows. -/
theorem baseResetEnd_ends {s : State} {st : StackIx} {r : ResetRun} (h : (s.stack st).resetting = some r) (hd : r.domain = 2)
    (hb : (s.stack st).boot = .rom) (hc : r.cmd = none) (ha : s.mc.activating ≠ some st.val) :
    exec (.baseResetEnd st) s = .next (baseResetOver s st) := by
  have hnow : (restoreColumns s st).now = s.now := by rw [restoreColumns_stacksAlone s st]
  change Host.Outcome.next (match (s.stack st).resetting with | none => s | some r => _) = _
  rw [h]
  simp only [hd, hb, hc, hnow, ne_eq, not_true_eq_false, or_self, if_false, Option.bind_none]
  change Host.Outcome.next (if ((baseResetOver s st).onStack st (fun x => x)).mc.activating = some st.val then _ else _) = _
  rw [if_neg (by rw [State.onStack_mc, baseResetOver_activating]; exact ha)]
  exact congrArg _ (onStack_id rfl)

theorem baseResetEnd_none {s : State} {st : StackIx} (h : (s.stack st).resetting = none) : exec (.baseResetEnd st) s = .next s := by
  change Host.Outcome.next (match (s.stack st).resetting with | none => s | some r => _) = _
  rw [h]

theorem baseResetEnd_other {s : State} {st : StackIx} {r : ResetRun} (h : (s.stack st).resetting = some r)
    (hn : r.domain ≠ 2 ∨ (s.stack st).boot ≠ .rom) : exec (.baseResetEnd st) s = .next s := by
  change Host.Outcome.next (match (s.stack st).resetting with | none => s | some r => _) = _
  rw [h]
  exact congrArg _ (if_pos hn)

/-! ### The watchdog -/

theorem watchdogExpiry_off {s : State} {st : StackIx} (h : (s.stack st).boot = .off) : exec (.watchdogExpiry st) s = .next s :=
  congrArg _ (if_pos h)

theorem watchdogExpiry_resets {s : State} {st : StackIx} (h : (s.stack st).boot ≠ .off) :
    exec (.watchdogExpiry st) s =
      .next (startBase (s.setStack st (raise (s.stack st) { source := fWatchdog, addr := haController })) st 6) :=
  congrArg _ (if_neg h)

/-! ### A module to be removed (R506) -/

theorem attnL_idle {s : State} (h : s.mc.supply = false ∨ s.mc.attn ≠ none) : exec .attnL s = .next s := by
  refine congrArg _ (if_pos ?_)
  rcases h with h | h
  · exact .inl (by rw [h]; rfl)
  · exact .inr (Option.isSome_iff_ne_none.mpr h)

theorem attnL_dark {s : State} (hs : s.mc.supply = true) (ha : s.mc.attn = none) (hp : s.mc.pwrGood = false) :
    exec .attnL s = .next (sendEvent s .removalRequest) := by
  change Host.Outcome.next (if _ then _ else _) = _
  rw [if_neg (by simp [hs, ha]), if_pos (by simp [hp])]

theorem attnL_quiesces {s : State} (hs : s.mc.supply = true) (ha : s.mc.attn = none) (hp : s.mc.pwrGood = true) :
    exec .attnL s = .next (
      let t := sendEvent s .removalRequest
      quiesceOver (finishQuiesce (allStacks.foldl (quiesceAt false true) { t with mc := { t.mc with attn := some s.now } }))) := by
  change Host.Outcome.next (if _ then _ else _) = _
  rw [if_neg (by simp [hs, ha]), if_neg (by simp [hp])]
  dsimp only
  rw [(sendEvent_same s .removalRequest).now]

theorem quiesceAbortTimeout_idle {s : State} (h : s.mc.attn = none) : exec .quiesceAbortTimeout s = .next s :=
  congrArg _ (if_pos (by rw [h]; rfl))

theorem quiesceAbortTimeout_aborts {s : State} (h : s.mc.attn ≠ none) :
    exec .quiesceAbortTimeout s = .next
      (finishQuiesce (allStacks.foldl (fun t i => if (t.stack i).quiesce.isSome then quiesceAt true true t i else t) s)) :=
  congrArg _ (if_neg (by simpa using h))

/-! ### The links of a quiesced stack -/

theorem quiesceLinkStop_idle {s : State} {st : StackIx} (h : (s.stack st).quiesce = none) : exec (.quiesceLinkStop st) s = .next s := by
  change Host.Outcome.next (match (s.stack st).quiesce with | none => s | some q => _) = _
  rw [h]

theorem quiesceLinkStop_early {s : State} {st : StackIx} {q : Quiesce} (h : (s.stack st).quiesce = some q) (hq : q.stage ≠ 1) :
    exec (.quiesceLinkStop st) s = .next s := by
  change Host.Outcome.next (match (s.stack st).quiesce with | none => s | some q => _) = _
  rw [h]
  exact congrArg _ (if_pos hq)

/-- Step 5 of R505 at a stack: NODE_DOWN on each port that is up. -/
def sayNodeDown (now : Nat) (x : Stack) : Stack :=
  (([0, 1, 2, 3] : List Nat).filter (linkUp x)).foldl (fun y l =>
    sendOn now y l { ty := .nodeDown, src := nodeId y, dst := (partnerOf y l).getD 0xFFFF, data := moduleIds y }) x

/-- Step 6 of R505: LINK_DOWN on every link that runs, and the link down. -/
def stopLinks (now : Nat) (x : Stack) : Stack :=
  ((List.range 8).filter (linkRuns x)).foldl (fun y l =>
    (dropWaiting (setReg (sendLinkDown now y l) (rIvtLink l) (setFld (reg y (rIvtLink l)) 0 3 3)) l).setLink l Link.reset) x

theorem quiesceLinkStop_stops {s : State} {st : StackIx} {q : Quiesce} (h : (s.stack st).quiesce = some q) (hq : q.stage = 1) :
    exec (.quiesceLinkStop st) s = .next (quiesceOver (s.setStack st
      { stopLinks s.now (sayNodeDown s.now (s.stack st)) with quiesce := some { q with stage := 2 } })) := by
  change Host.Outcome.next (match (s.stack st).quiesce with | none => s | some q => _) = _
  rw [h]
  exact congrArg _ (if_neg (not_not.mpr hq))

/-! ### Retraining (R383, R572) -/

/-- Whether a link of a stack may train again. -/
def MayRetrain (s : State) (st : StackIx) (l : Nat) : Prop :=
  let x := s.stack st
  x.boot ≠ .off ∧ linkState x l = 3 ∧ ¬ (∃ q, x.quiesce = some q ∧ 2 ≤ q.stage) ∧ partnerThere s x l = true ∧ transitHeld x = false

/-- Whether the links of a stack stay down for a QUIESCE. -/
def linksStopped (x : Stack) : Bool := match x.quiesce with | some q => decide (2 ≤ q.stage) | none => false

theorem linksStopped_iff (x : Stack) : linksStopped x = true ↔ ∃ q, x.quiesce = some q ∧ 2 ≤ q.stage := by
  unfold linksStopped
  cases x.quiesce <;> simp

/-- The row's condition for a link that stays down. -/
theorem not_mayRetrain_iff (s : State) (st : StackIx) (l : Nat) :
    (let x := s.stack st
     x.boot = .off ∨ linkState x l ≠ 3 ∨ linksStopped x = true ∨ (!partnerThere s x l) = true ∨ transitHeld x = true) ↔ ¬ MayRetrain s st l := by
  simp only [MayRetrain, not_and_or, not_not, linksStopped_iff, Bool.not_eq_true', Bool.not_eq_true, Bool.not_eq_false, ne_eq]

theorem linkRetrain_stays {s : State} {st : StackIx} {l : LinkIx} (h : ¬ MayRetrain s st l.val) : exec (.linkRetrain ⟨st, l⟩) s = .next s :=
  congrArg _ (if_pos ((not_mayRetrain_iff s st l.val).mpr h))

theorem linkRetrain_trains {s : State} {st : StackIx} {l : LinkIx} (h : MayRetrain s st l.val) :
    exec (.linkRetrain ⟨st, l⟩) s = .next (
      let new := spareGroup s.now l.val (retrained (s.stack st) l.val)
      let t := s.setStack st (trainLink s.now (s.stack st) l.val new)
      if new.align = (retrained (s.stack st) l.val).align then t else writeTraining t st) :=
  congrArg _ (if_neg fun e => (not_mayRetrain_iff s st l.val).mp e h)

theorem spareGroup_port {now l : Nat} {t : LinkTrain} (h : l < 4) : spareGroup now l t = t := if_pos (.inl h)

/-! ### The statement -/

/-- Settles O42, row by row from the lemmas above. -/
theorem adminCommandsAndResets : Obligations.AdminCommandsAndResets := by
  intro s st x
  refine ⟨fun r k h => onCmd_started _ h, fun r k h => onCmd_started _ h, fun r k h => ⟨resetDomain_busy h, resetDomain_refused h, fun hl hf => ?starts⟩,
    ⟨fun rr r k => abandonReset_answers, abandonReset_idle⟩, fun r k h => ⟨quiesce_waits h, fun e => quiesce_refused h⟩, fun all => quiesceAt_enters all,
    fun d => ⟨resetComplete_none d, fun rr h h2 => ?base, fun rr h h1 => ?stack, fun rr r k h h4 hc hk => ?computeDie,
      fun rr r k c h h5 hc hk => ⟨fun hx => ?core, fun hx => ?otherCore⟩, fun rr h h3 hc => ?transit⟩,
    watchdogExpiry_resets, watchdogExpiry_off, baseResetEnd_none, fun rr h => ⟨baseResetEnd_other h, baseResetEnd_ends h⟩,
    attnL_idle, fun hs ha => ⟨attnL_dark hs ha, attnL_quiesces hs ha⟩, quiesceAbortTimeout_idle, quiesceAbortTimeout_aborts,
    quiesceLinkStop_idle, fun q h => ⟨quiesceLinkStop_early h, fun hq => ⟨fun hn => ?stays, fun ho ha => ?off⟩⟩,
    fun l => ⟨linkRetrain_trains, spareGroup_port, linkRetrain_stays⟩⟩
  case starts =>
    exact ⟨fun hd => resetDomain_answers h hl hf hd (by decide), fun hd => resetDomain_answers h hl hf hd (by decide),
      fun hd => resetDomain_answers h hl hf hd (by decide), fun hd => resetDomain_waits h hl hf hd (by decide),
      fun hd => resetDomain_waits h hl hf hd (by decide)⟩
  case base => exact resetComplete_other h (by cases d <;> simp [endsReset, h2])
  case stack =>
    rw [resetComplete_ends (d := .stack) h (decide_eq_true h1), resetOver_stack s _ h1]
    rfl
  case computeDie => exact resetComplete_answers h (decide_eq_true h4) (.inl h4) hc hk
  case core => exact resetComplete_answers h (decide_eq_true ⟨h5, hx⟩) (.inr h5) hc hk
  case otherCore => exact resetComplete_other h (decide_eq_false fun e => hx e.2)
  case transit => rw [resetComplete_ends (d := .transit) h (decide_eq_true h3), resetOver_transit s _ h3, answerReset_none hc]
  case stays => exact (quiesceLinkStop_stops h hq).trans (congrArg _ (if_neg hn))
  case off => exact (quiesceLinkStop_stops h hq).trans (congrArg _ (if_pos ⟨ho, ha⟩))

end Sys2Proof.Machine
end

section
/-! PROOFS. Fuse burns, leaf reservations and the image in module flash (O49). -/

namespace Sys2Proof.Machine
open Sys2Proof

/-! ### FUSE_BURN -/

theorem fuseBurn_idle {s : State} {st : StackIx} (h : (s.stack st).burns = [] ∨ (s.stack st).boot = .off ∨ columnsHeld (s.stack st) = true) :
    exec (.fuseBurn st) s = .next s := by
  change execFuseBurn st s = _
  simp only [execFuseBurn]
  cases hb : (s.stack st).burns with
  | nil => rfl
  | cons b rest => exact congrArg _ (if_pos (h.resolve_left (by simp [hb])))

/-- The oldest burn of a stack that burns at all is done, and what waits for it goes on. -/
theorem fuseBurn_burns {s : State} {st : StackIx} {b : Burn} {rest : List Burn} (hb : (s.stack st).burns = b :: rest)
    (hp : (s.stack st).boot ≠ .off) (hc : columnsHeld (s.stack st) = false) :
    exec (.fuseBurn st) s =
      .next (settleLicence (reportGeometry s (s.setStack st (burnDone s.now { s.stack st with burns := rest } b)))) := by
  change execFuseBurn st s = _
  simp only [execFuseBurn, hb]
  rw [if_neg (by simp [hp, hc])]

@[simp] theorem updateSpares_commit (x : Stack) (p : Nat) : (updateSpares x p).commit = x.commit := by
  rw [updateSpares, setReg_commit]

/-- A repair burn outside a commit: the entry is a fuse, and the soft entry is clear (R286). -/
theorem burnDone_repair {now p n : Nat} {f : Repair} {x : Stack} (h : x.commit = none) :
    burnDone now x (.repair p n f)
      = updateSpares (setReg (x.setVault p { x.vault p with fuses := (x.vault p).fuses ++ [f] }) (rVltSoftRepair p n) 0) p := by
  simp [burnDone, h]

/-! ### LEAF_RESERVATION -/

/-- Whether an epoch fuse is still to be burnt. -/
def epochBurnOwed (x : Stack) : Bool := x.burns.any (fun b => match b with | .epoch _ => true | _ => false)

theorem leafReservation_none {s : State} {st : StackIx} (h : (s.stack st).trust.reserving = none) :
    exec (.leafReservation st) s = .next s := by
  change execLeafReservation st s = _
  simp only [execLeafReservation, h]

theorem leafReservation_waits {s : State} {st : StackIx} {e : Nat} (h : (s.stack st).trust.reserving = some e)
    (hw : epochBurnOwed (s.stack st) = true ∨ columnsHeld (s.stack st) = true) : exec (.leafReservation st) s = .next s := by
  change execLeafReservation st s = _
  simp only [execLeafReservation, h]
  exact congrArg _ (if_pos hw)

/-- The trees of a stack with the level-1 tree that leaf `e - 1` enters. -/
def treesFor (x : Stack) (e : Nat) : List Nat :=
  if x.trust.trees.contains ((e - 1) / 32768) then x.trust.trees else x.trust.trees ++ [(e - 1) / 32768]

/-- A reservation whose epoch burns are done (R552): the tree is built, the leaf record written, END moved. -/
theorem leafReservation_ends {s : State} {st : StackIx} {e : Nat} (h : (s.stack st).trust.reserving = some e)
    (hw : ¬ (epochBurnOwed (s.stack st) = true ∨ columnsHeld (s.stack st) = true)) :
    exec (.leafReservation st) s = .next
      { s.setStack st (setReg { s.stack st with trust := { (s.stack st).trust with reserving := none, trees := treesFor (s.stack st) e } } rSecLeaf
          (setFld (reg (s.stack st) rSecLeaf) 31 31 e)) with
        mc := { s.mc with leaves := s.mc.leaves.set st (writeLeaf st.val (s.mc.leaves.get st) e) } } := by
  change execLeafReservation st s = _
  simp only [execLeafReservation, h]
  exact congrArg _ (if_neg hw)

/-! ### FLASH_IMAGE_WRITE -/

theorem flashImageWrite_writes {s : State} {st : StackIx} {i : Nat} {rest : List Nat} (hq : s.mc.flashQueue = i :: rest) (hi : i = st.val)
    (hv : s.mc.vin = true) :
    exec (.flashImageWrite st) s = .next
      { s with mc := { s.mc with
          flashQueue := rest, flashOpen := decide ((s.stack st).trust.run = [])
          flash := if (s.stack st).trust.run = [] then s.mc.flash else (s.stack st).trust.run } } := by
  change execFlashImageWrite st s = _
  simp only [execFlashImageWrite, hq]
  rw [if_neg (by simp [hi, hv])]

/-- Module flash is not written out of the stack's turn, nor without VIN_PKG. -/
theorem flashImageWrite_idle {s : State} {st : StackIx} (h : s.mc.flashQueue.head? ≠ some st.val ∨ s.mc.vin = false) :
    exec (.flashImageWrite st) s = .next s := by
  change execFlashImageWrite st s = _
  rw [execFlashImageWrite]
  cases hq : s.mc.flashQueue with
  | nil => rfl
  | cons i rest => exact congrArg _ (if_pos (by simpa [hq] using h))

/-! ### The statement -/

/-- Settles O49: the burn in each of its kinds, the reservation and the flash write, from the lemmas above. -/
theorem fusesLeavesAndFlash : Obligations.FusesLeavesAndFlash := by
  intro s st x
  refine ⟨fuseBurn_idle, fun rest hp hc => ?burns, leafReservation_none, fun e h => ⟨leafReservation_waits h, leafReservation_ends h⟩,
    fun i rest => flashImageWrite_writes, flashImageWrite_idle⟩
  have burn : ∀ b, x.burns = b :: rest → exec (.fuseBurn st) s = .next
      (settleLicence (reportGeometry s (s.setStack st (burnDone s.now { x with burns := rest } b)))) := fun _ hb => fuseBurn_burns hb hp hc
  refine ⟨fun n => burn (.svn n), fun n => burn (.revoke n), fun n => burn (.lfuse n), fun n => burn (.epoch n), fun p => burn (.site p),
    fun p n f hb hm => ?_⟩
  rw [burn _ hb, burnDone_repair (x := { x with burns := rest }) hm]

end Sys2Proof.Machine
end

section
/-! PROOFS. Bring-up from ROM to READY or HELD (O53), state by state. -/

namespace Sys2Proof.Machine
open Sys2Proof

/-! ### ROM (R18-R20, R485, R486, R501) -/

/-- A stack whose stack controller is released is in no base non-transit reset. -/
theorem baseResetting_of_released {x : Stack} (h : released x = true) : baseResetting x = false := by
  unfold released at h
  cases hr : x.resetting with
  | none => simp [baseResetting, hr]
  | some r => simp_all [baseResetting]

/-- The module with the bits of flash flipped that a ROM sample names. -/
def flashFlipped (s : State) (m : RomSample) : State := { s with mc := m.flips.foldl flipFlash s.mc }

/-- A stack whose fuses and senses the ROM has sampled, with the path that it names. -/
def romSampled (t : State) (x : Stack) (m : RomSample) : Stack :=
  let y := loadFuses (setReg x rIdPosition (positionWord m.edges))
  setReg y rBruState (setFld (reg y rBruState) 16 2 (pathCode t y))

/-- A stack that enters VERIFY. -/
def enterVerify (now : Nat) (x : Stack) : Stack := { x with boot := .verify, bring := { x.bring with stateAt := now } }

section Rom
variable {s : State} {st : StackIx} (m : RomSample)

theorem romComplete_idle (h : (s.stack st).boot ≠ .rom ∨ (released (s.stack st) = false ∧ baseResetting (s.stack st) = false)) :
    exec (.romComplete st m) s = .next s := congrArg _ (if_pos (by simpa using h))

/-- In a base non-transit reset the ROM checks the code memory. -/
theorem romComplete_checks (hb : (s.stack st).boot = .rom) (hr : baseResetting (s.stack st) = true) :
    exec (.romComplete st m) s
      = .next (if m.code then flashFlipped s m else (flashFlipped s m).setStack st { s.stack st with boot := .verify }) := by
  refine congrArg _ ((if_neg (by simp [hb, hr])).trans ?_)
  exact if_pos hr

/-- With the stack controller released the ROM samples and goes on to VERIFY. -/
theorem romComplete_samples (hb : (s.stack st).boot = .rom) (hr : released (s.stack st) = true) :
    exec (.romComplete st m) s = .next (
      let t := flashFlipped s m
      let x := s.stack st
      let z := romSampled t x m
      let cold := x.bring.powerOn || x.bring.fromCold
      let u := updateFaultL (t.setStack st (enterVerify s.now
        (if cold then { z with faults := takeBack (t.mc.copies.get st) z.faults, portsOpen := storedPorts t.mc } else z)))
      if cold then resetLeaf u st else u) := by
  refine congrArg _ ((if_neg (by simp [hb, hr])).trans ?_)
  exact if_neg (by simp [baseResetting_of_released hr])

theorem romComplete_cold (hb : (s.stack st).boot = .rom) (hr : released (s.stack st) = true)
    (hc : (s.stack st).bring.powerOn = true ∨ (s.stack st).bring.fromCold = true) :
    exec (.romComplete st m) s = .next (
      let t := flashFlipped s m
      let z := romSampled t (s.stack st) m
      resetLeaf (updateFaultL (t.setStack st (enterVerify s.now
        { z with faults := takeBack (t.mc.copies.get st) z.faults, portsOpen := storedPorts t.mc }))) st) := by
  have cold : ((s.stack st).bring.powerOn || (s.stack st).bring.fromCold) = true := by simpa using hc
  rw [romComplete_samples m hb hr]
  simp only [cold, if_true]

theorem romComplete_warm (hb : (s.stack st).boot = .rom) (hr : released (s.stack st) = true)
    (hc : ¬ ((s.stack st).bring.powerOn = true ∨ (s.stack st).bring.fromCold = true)) :
    exec (.romComplete st m) s = .next (updateFaultL ((flashFlipped s m).setStack st
      (enterVerify s.now (romSampled (flashFlipped s m) (s.stack st) m)))) := by
  have warm : ((s.stack st).bring.powerOn || (s.stack st).bring.fromCold) = false := by simpa using hc
  rw [romComplete_samples m hb hr]
  simp only [warm, Bool.false_eq_true, if_false]

end Rom

/-! ### VERIFY (R501, R546-R548) -/

/-- Whether a stack in VERIFY takes its own RUN image, and not that of module flash. -/
def takesRun (x : Stack) : Bool := decide (fld (reg x rBruState) 16 2 = 2) && !x.bring.fromCold && !baseResetting x

theorem takesRun_iff (x : Stack) :
    takesRun x = true ↔ fld (reg x rBruState) 16 2 = 2 ∧ x.bring.fromCold = false ∧ baseResetting x = false := by
  simp [takesRun, and_assoc]

/-- The image that the path of a stack names. -/
def pathImage (s : State) (st : StackIx) : List Byte := if takesRun (s.stack st) then (s.stack st).trust.run else flashImage s.mc

section Verify
variable {s : State} {st : StackIx}

theorem verifyComplete_idle (h : (s.stack st).boot ≠ .verify) (f : VerifyFrom) : exec (.verifyComplete st f) s = .next s :=
  congrArg _ (if_pos h)

theorem fwFetchTimeout_idle (h : (s.stack st).boot ≠ .verify) : exec (.fwFetchTimeout st) s = .next s := congrArg _ (if_pos h)

theorem fwFetchTimeout_next (h : (s.stack st).boot = .verify) : exec (.fwFetchTimeout st) s = .next (nextSource s st) :=
  congrArg _ (if_neg (not_not.mpr h))

variable (h : (s.stack st).boot = .verify)
include h

theorem verifyComplete_own (hf : (s.stack st).trust.fetch = none) :
    exec (.verifyComplete st .own) s = .next (
      if imageOk (s.stack st) (pathImage s st) then toProofing s st (pathImage s st) (if takesRun (s.stack st) then 1 else 0)
      else askSource (s.setStack st { s.stack st with trust := { (s.stack st).trust with fetch := some (Fetch.start 0) } }) st) := by
  change execVerifyComplete st .own s = _
  simp only [execVerifyComplete, h, hf, ne_eq, not_true_eq_false, if_false]
  rfl

theorem verifyComplete_run (hf : (s.stack st).trust.fetch = none) (hw : takesRun (s.stack st) = true)
    (ho : imageOk (s.stack st) (s.stack st).trust.run = true) :
    exec (.verifyComplete st .own) s = .next (toProofing s st (s.stack st).trust.run 1) := by
  rw [verifyComplete_own h hf]
  simp only [pathImage, hw, if_true, ho]

theorem verifyComplete_flash (hf : (s.stack st).trust.fetch = none) (hw : takesRun (s.stack st) = false)
    (ho : imageOk (s.stack st) (flashImage s.mc) = true) : exec (.verifyComplete st .own) s = .next (toProofing s st (flashImage s.mc) 0) := by
  rw [verifyComplete_own h hf]
  simp only [pathImage, hw, Bool.false_eq_true, if_false, ho, if_true]

/-- The image that the path names fails its checks: a recovery begins at the first source. -/
theorem verifyComplete_recovers (hf : (s.stack st).trust.fetch = none) (ho : imageOk (s.stack st) (pathImage s st) = false) :
    exec (.verifyComplete st .own) s = .next
      (askSource (s.setStack st { s.stack st with trust := { (s.stack st).trust with fetch := some (Fetch.start 0) } }) st) := by
  rw [verifyComplete_own h hf]
  simp only [ho, Bool.false_eq_true, if_false]

variable {f : Fetch} (hf : (s.stack st).trust.fetch = some f)
include hf

theorem verifyComplete_fetching : exec (.verifyComplete st .own) s = .next s := by
  change execVerifyComplete st .own s = _
  simp only [execVerifyComplete, h, hf, ne_eq, not_true_eq_false, if_false]

theorem verifyComplete_partial (ht : f.total ≠ some f.got.length) : exec (.verifyComplete st .fetched) s = .next s := by
  change execVerifyComplete st .fetched s = _
  simp only [execVerifyComplete, h, hf, ne_eq, not_true_eq_false, if_false]
  exact congrArg _ (if_pos ht)

/-- A fetch that is whole: its image passes, or the next source is asked. -/
theorem verifyComplete_whole (ht : f.total = some f.got.length) :
    exec (.verifyComplete st .fetched) s = .next (
      if imageOk (s.stack st) f.got then
        let t := toProofing s st f.got (if (fetchSources (s.stack st)).getD f.source 0 < 4 then 3 else 2)
        if s.mc.flashQueue ≠ [] ∨ imageOk (s.stack st) (flashImage s.mc) = true then t
        else { t with mc := { t.mc with flashQueue := s.mc.flashQueue ++ [st.val] } }
      else nextSource s st) := by
  change execVerifyComplete st .fetched s = _
  simp only [execVerifyComplete, h, hf, ne_eq, not_true_eq_false, if_false]
  exact congrArg _ (if_neg (not_not.mpr ht))

theorem verifyComplete_rejects (ht : f.total = some f.got.length) (ho : imageOk (s.stack st) f.got = false) :
    exec (.verifyComplete st .fetched) s = .next (nextSource s st) := by
  rw [verifyComplete_whole h hf ht]
  simp only [ho, Bool.false_eq_true, if_false]

theorem verifyComplete_accepts (ht : f.total = some f.got.length) (ho : imageOk (s.stack st) f.got = true)
    (hq : s.mc.flashQueue ≠ [] ∨ imageOk (s.stack st) (flashImage s.mc) = true) :
    exec (.verifyComplete st .fetched) s = .next
      (toProofing s st f.got (if (fetchSources (s.stack st)).getD f.source 0 < 4 then 3 else 2)) := by
  rw [verifyComplete_whole h hf ht, if_pos ho]
  exact congrArg _ (if_pos hq)

/-- An image fetched because module flash holds none that passes is written there (R549). -/
theorem verifyComplete_repairsFlash (ht : f.total = some f.got.length) (ho : imageOk (s.stack st) f.got = true)
    (hq : s.mc.flashQueue = []) (hm : imageOk (s.stack st) (flashImage s.mc) = false) :
    exec (.verifyComplete st .fetched) s = .next (
      let t := toProofing s st f.got (if (fetchSources (s.stack st)).getD f.source 0 < 4 then 3 else 2)
      { t with mc := { t.mc with flashQueue := [st.val] } }) := by
  rw [verifyComplete_whole h hf ht, if_pos ho]
  simp only [hq, hm, ne_eq, not_true_eq_false, Bool.false_eq_true, or_self, if_false, List.nil_append]

end Verify

/-! ### An image accepted -/

/-- What PROOFING's training states leave of a stack. -/
theorem trainingLinks_keeps (x : Stack) :
    (trainingLinks x).trust = x.trust ∧ (trainingLinks x).boot = x.boot ∧ (trainingLinks x).bring = x.bring :=
  List.foldlRecOn (motive := fun (y : Stack) => y.trust = x.trust ∧ y.boot = x.boot ∧ y.bring = x.bring) _ _ ⟨rfl, rfl, rfl⟩ fun _ h _ _ => h

/-- A stack whose image has passed: in PROOFING, or back in the reset that wanted its code memory. -/
def accepted (now : Nat) (x : Stack) (bs : List Byte) (source : Nat) : Stack :=
  let y := runImage { x with trust := { x.trust with fetch := none } } bs source
  if baseResetting y then { y with boot := .rom }
  else trainingLinks { y with boot := .proofing, bring := { y.bring with proofAt := now, stateAt := now } }

theorem toProofing_eq (s : State) (st : StackIx) (bs : List Byte) (source : Nat) :
    toProofing s st bs source = s.setStack st (accepted s.now (s.stack st) bs source) := by
  simp only [toProofing, State.onStack, accepted]

@[simp] theorem runImage_trust (x : Stack) (bs : List Byte) (source : Nat) : (runImage x bs source).trust = { x.trust with run := bs } := by
  rw [runImage, setReg_trust]
@[simp] theorem runImage_resetting (x : Stack) (bs : List Byte) (source : Nat) : (runImage x bs source).resetting = x.resetting := by
  rw [runImage, setReg_resetting]
@[simp] theorem runImage_baseResetting (x : Stack) (bs : List Byte) (source : Nat) :
    baseResetting (runImage x bs source) = baseResetting x := by
  rw [baseResetting, runImage_resetting, baseResetting]

/-- The image runs and no recovery is in progress. -/
theorem accepted_trust (now : Nat) (x : Stack) (bs : List Byte) (source : Nat) :
    (accepted now x bs source).trust = { x.trust with run := bs, fetch := none } := by
  simp only [accepted]
  split
  · simp only [runImage_trust]
  · simp only [trainingLinks_keeps, runImage_trust]

theorem accepted_proofing {now : Nat} {x : Stack} (bs : List Byte) (source : Nat) (h : baseResetting x = false) :
    (accepted now x bs source).boot = .proofing ∧ (accepted now x bs source).bring.proofAt = now := by
  have hr : ¬ baseResetting { x with trust := { x.trust with fetch := none } } = true := by simpa [baseResetting] using h
  simp only [accepted, runImage_baseResetting, if_neg hr, trainingLinks_keeps, and_self]

theorem accepted_resetting {now : Nat} {x : Stack} (bs : List Byte) (source : Nat) (h : baseResetting x = true) :
    (accepted now x bs source).boot = .rom ∧ (accepted now x bs source).resetting = x.resetting := by
  have hr : baseResetting { x with trust := { x.trust with fetch := none } } = true := by simpa [baseResetting] using h
  simp only [accepted, runImage_baseResetting, if_pos hr, runImage_resetting, and_self]

/-! ### PROOFING (R20, R45, R488) -/

section Proof
variable {s : State} {st : StackIx} (p : Proofing)

theorem proofingComplete_idle (h : (s.stack st).boot ≠ .proofing ∨ transitHeld (s.stack st) = true) :
    exec (.proofingComplete st p) s = .next s := congrArg _ (if_pos h)

/-- The module once PROOFING has ended at a stack and its records stand, before the stack goes on. -/
def proofed (s : State) (st : StackIx) (p : Proofing) : State :=
  let d := proof s st p (s.stack st)
  let t := reportGeometry (s.setStack st d.1) (s.setStack st d.2)
  if p.bad ≠ [] ∨ d.2.bring.copy = none then writeTraining t st else t

theorem proofed_now (s : State) (st : StackIx) (p : Proofing) : (proofed s st p).now = s.now := by
  have h : s.Same (proofed s st p) := by
    have hr := (setStack_same s st (proof s st p (s.stack st)).2).trans
      (reportGeometry_same (s.setStack st (proof s st p (s.stack st)).1) _)
    exact .ite (hr.trans (writeTraining_same _ _)) hr
  exact h.now

theorem proofingComplete_ends (hb : (s.stack st).boot = .proofing) (ht : transitHeld (s.stack st) = false) :
    exec (.proofingComplete st p) s = .next ((proofed s st p).setStack st (
      let y := (proofed s st p).stack st
      if geometryClass y = 0 then toHeld s.now 3 0 y else enterDiscover s.now y)) := by
  refine (congrArg Host.Outcome.next (if_neg (by simp [hb, ht]))).trans ?_
  rw [← proofed_now s st p]
  rfl

end Proof

/-- An invalid position holds a stack (R20). -/
theorem enterDiscover_held {now : Nat} {x : Stack} (h : fld (reg x rIdPosition) 7 1 = 0) : (enterDiscover now x).boot = .held := by
  rw [enterDiscover, if_pos h]
  rfl

/-! ### Packets that a stack in bring-up takes -/

/-- What a received packet's slots can have given it is its poison. -/
theorem received_packet (x : Stack) (l : Nat) (k : Packet) : ∃ b, (received x l k).1 = { k with poison := b } := by
  unfold received takeReceived
  dsimp only
  split
  · exact ⟨_, rfl⟩
  · exact ⟨k.poison, rfl⟩

theorem takeReceived_keeps (x : Stack) (l : Nat) (k : Packet) :
    (takeReceived x l k).2.boot = x.boot ∧ (takeReceived x l k).2.bring = x.bring := by
  unfold takeReceived
  dsimp only
  split
  · exact ⟨Stack.setLink_boot _ _ _, Stack.setLink_bring _ _ _⟩
  · exact ⟨rfl, rfl⟩

theorem freeSlots_keeps (x : Stack) (l : Nat) (k : Packet) : (freeSlots x l k).boot = x.boot ∧ (freeSlots x l k).bring = x.bring := by
  simp only [freeSlots, sendSymbol, queueSymbol, Stack.setLink_boot, Stack.setLink_bring, and_self]

/-- The stack that has received a packet is in the state it was in. -/
theorem received_keeps (x : Stack) (l : Nat) (k : Packet) :
    (received x l k).2.boot = x.boot ∧ (received x l k).2.bring = x.bring := by
  obtain ⟨tboot, tbring⟩ := takeReceived_keeps x l k
  obtain ⟨fboot, fbring⟩ := freeSlots_keeps (takeReceived x l k).2 l (takeReceived x l k).1
  exact ⟨fboot.trans tboot, fbring.trans tbring⟩

/-! ### DISCOVER (R492-R495) -/

theorem settleDiscover_of_discover {now : Nat} {x : Stack} (h : x.boot = .discover) :
    settleDiscover now x = if fld (reg x rIvtNode) 16 1 = 1 ∧ x.bring.probing = [] then
      { x with boot := .admitting, bring := { x.bring with stateAt := now } } else x := by
  simp only [settleDiscover, h, true_and]

section Discover
variable {s : State} {st : StackIx} {l : LinkIx}

theorem neighbourProbe_answers {k : Packet} (hu : linkUp (s.stack st) l.val = true) (hk : isProbe k = true) :
    exec (.neighbourProbe ⟨st, l⟩ k) s = .next (s.setStack st (
      let k' := (received (s.stack st) l.val k).1
      let y := (received (s.stack st) l.val k).2
      let c := cmdOfBytes k'.src l.val k'.tag s.now k'.data
      let bytes := if columnsHeld y then replyBytes s.now (actTick y) c stBusy [] [] false
        else replyBytes s.now (actTick y) c stOk (identifyWords y ++ [bv 64 (4 * stackIndex y + l.val)]) [] false
      sendOn s.now y l.val { ty := .cmdRpl, tag := k'.tag, src := nodeId y, dst := k'.src, data := bytes })) :=
  congrArg (fun y => Host.Outcome.next (s.setStack st y)) (if_neg (by simp [hu, hk]))

theorem probeTimeout_idle (h : (s.stack st).boot ≠ .discover ∨ (s.stack st).bring.probing.contains l.val = false) :
    exec (.probeTimeout ⟨st, l⟩) s = .next s := by
  refine congrArg Host.Outcome.next (onStack_id (if_pos ?_))
  rwa [← Bool.not_eq_true'] at h

theorem probeTimeout_settles (hb : (s.stack st).boot = .discover) (hp : (s.stack st).bring.probing.contains l.val = true) :
    exec (.probeTimeout ⟨st, l⟩) s = .next (s.setStack st (settleDiscover s.now { s.stack st with
      bring := { (s.stack st).bring with probing := (s.stack st).bring.probing.filter (fun m => decide (m ≠ l.val)) } })) := by
  refine congrArg (fun y => Host.Outcome.next (s.setStack st y)) (if_neg ?_)
  rw [hp]
  simp [hb]

/-- A probe's answer that is OK is taken, whatever poison its slots carried. -/
theorem cmdRpl_probed {k : Packet} (hk : k.ty = .cmdRpl) (hu : linkUp (s.stack st) l.val = true) (hd : k.dst = nodeId (s.stack st))
    (hb : (s.stack st).boot = .discover) (hp : (s.stack st).bring.probing.contains l.val = true) (ha : k.addr = 0)
    (ho : fld (word64At k.data 0) 16 16 = 0x0001) (hs : fld (word64At k.data 24) 0 16 = stOk) :
    exec (.cmdRpl ⟨st, l⟩ k) s = .next (s.setStack st (probeReply s.now (received (s.stack st) l.val k).2 l.val k)) := by
  obtain ⟨b, hr⟩ := received_packet (s.stack st) l.val k
  obtain ⟨hboot, hbring⟩ := received_keeps (s.stack st) l.val k
  refine (congrArg Host.Outcome.next (if_neg (by simp [hk, hu, hd]))).trans ?_
  dsimp only
  rw [if_pos ⟨hboot.trans hb, by rw [hbring]; exact hp, by rw [hr]; exact ha, by rw [hr]; exact ho⟩, if_pos (by rw [hr]; exact hs), hr]
  simp only [State.onStack, State.stack_setStack_same, State.setStack_setStack, State.setStack_now]
  rfl

/-- Outside DISCOVER and VERIFY a stack awaits no reply: it takes the packet and that is all. -/
theorem cmdRpl_unawaited {k : Packet} (hk : k.ty = .cmdRpl) (hu : linkUp (s.stack st) l.val = true) (hd : k.dst = nodeId (s.stack st))
    (hb : (s.stack st).boot ≠ .discover) (hv : (s.stack st).boot ≠ .verify) :
    exec (.cmdRpl ⟨st, l⟩ k) s = .next (s.setStack st (received (s.stack st) l.val k).2) := by
  have hboot := (received_keeps (s.stack st) l.val k).1
  refine (congrArg Host.Outcome.next (if_neg (by simp [hk, hu, hd]))).trans ?_
  dsimp only
  rw [if_neg (fun e => hb (hboot.symm.trans e.1)), if_neg (fun e => hv (hboot.symm.trans e))]

/-- The field of IVT_NODE that holds the node ID of the neighbour on link `l`. -/
def peerField (x : Stack) (l : Nat) : Nat := if (bridgeLinks x).head? = some l then 48 else 32

/-- A package record that agrees with its bridge is kept, and its node ID learnt; no answer is due in DISCOVER, nor for what is known (R492). -/
theorem packageRecord_learns {r : PackageRec} (hl : 4 ≤ l.val) (hu : linkUp (s.stack st) l.val = true)
    (hi : acrossBridge (stackIndex (s.stack st)) l.val = some r.index.toNat) (hs : r.serial = Config.serial)
    (hb : (s.stack st).boot = .discover ∨ ((s.stack st).boot ≠ .off ∧ (s.stack st).bring.packages.contains (l.val, r.index.toNat) = true
      ∧ fld (reg (s.stack st) rIvtNode) (peerField (s.stack st) l.val) 16 = r.node.toNat)) :
    exec (.packageRecord ⟨st, l⟩ r) s = .next (learnPeers (s.setStack st (setReg { s.stack st with bring := { (s.stack st).bring with
      packages := (s.stack st).bring.packages.filter (fun e => decide (e.1 ≠ l.val)) ++ [(l.val, r.index.toNat)] } } rIvtNode
        (setFld (reg (s.stack st) rIvtNode) (peerField (s.stack st) l.val) 16 r.node.toNat)))) := by
  have hon : (s.stack st).boot ≠ .off := hb.elim (fun h => by simp [h]) (fun h => h.1)
  have ok : decide (acrossBridge (stackIndex (s.stack st)) l.val = some r.index.toNat ∧ r.serial = Config.serial) = true :=
    decide_eq_true ⟨hi, hs⟩
  change execPackageRecord ⟨st, l⟩ r s = _
  simp only [execPackageRecord, ok, if_true]
  rw [if_neg (by simp [hon, hu, hl])]
  refine congrArg (fun y => Host.Outcome.next (learnPeers (s.setStack st y))) (if_neg ?_)
  rcases hb with hb | ⟨-, hp, hn⟩
  · simp [hb]
  · rw [peerField] at hn
    rw [hp]
    simp [hn]

end Discover

/-! ### SET_NODE_ID (R493) -/

/-- Whether a SET_NODE_ID names no node ID that may be given, or another module (R493). -/
def nodeIdBad (s : State) (k : Cmd) : Prop :=
  4 ≤ (k.arg 3).toNat ∨ 65536 ≤ (k.arg 0).toNat ∨ nodeUsable (k.arg 0).toNat = false ∨ k.arg 1 ≠ Config.serial
    ∨ (k.arg 2).toNat ≠ s.mc.slotId.toNat

theorem nodeIdBad_iff (s : State) (k : Cmd) :
    (4 ≤ (k.arg 3).toNat ∨ 65536 ≤ (k.arg 0).toNat ∨ (!nodeUsable (k.arg 0).toNat) = true ∨ k.arg 1 ≠ Config.serial
      ∨ (k.arg 2).toNat ≠ s.mc.slotId.toNat) ↔ nodeIdBad s k := by
  simp only [nodeIdBad, Bool.not_eq_true']

section SetNodeId
variable {s : State} {st : StackIx} {r : CmdRef} {k : Cmd} (h : CmdStarted s st r 0x0802 k)
include h

theorem setNodeId_late (hb : (s.stack st).boot ≠ .discover) : exec (.setNodeId st r) s = .next (replyAll s st k stState [] []) := by
  change execSetNodeId st r s = _
  rw [execSetNodeId, onCmdAll_started _ h]
  exact congrArg _ (if_pos hb)

variable (hb : (s.stack st).boot = .discover)
include hb

theorem setNodeId_refused (hn : nodeIdBad s k) : exec (.setNodeId st r) s = .next (replyAll s st k stInvalidParam [] []) := by
  change execSetNodeId st r s = _
  rw [execSetNodeId, onCmdAll_started _ h]
  exact congrArg _ ((if_neg (not_not.mpr hb)).trans (if_pos ((nodeIdBad_iff s k).mpr hn)))

variable (hn : ¬ nodeIdBad s k)
include hn

theorem setNodeId_lost (hr : reaches s (stackIndex (s.stack st)) (k.arg 3).toNat = false) :
    exec (.setNodeId st r) s = .next (replyAll s st k stNodeLost [] []) := by
  change execSetNodeId st r s = _
  rw [execSetNodeId, onCmdAll_started _ h]
  refine congrArg _ ((if_neg (not_not.mpr hb)).trans ((if_neg (fun e => hn ((nodeIdBad_iff s k).mp e))).trans (if_pos ?_)))
  exact congrArg (!·) hr

/-- A stack reaches itself: the node ID meant for it is given. -/
theorem setNodeId_assigns (ht : (k.arg 3).toNat = stackIndex (s.stack st)) :
    exec (.setNodeId st r) s = .next (assignId (replyAll s st k stOk [] []) st (k.arg 0).toNat) := by
  have hr : reaches s (stackIndex (s.stack st)) (k.arg 3).toNat = true := by simp [reaches, ht]
  change execSetNodeId st r s = _
  rw [execSetNodeId, onCmdAll_started _ h]
  refine congrArg _ ((if_neg (not_not.mpr hb)).trans ((if_neg (fun e => hn ((nodeIdBad_iff s k).mp e))).trans ((if_neg ?_).trans ?_)))
  · simp [hr]
  · simp [ht, hb]

end SetNodeId

/-! ### Topology agreement (R496-R498) -/

section Topology
variable {s : State} {st : StackIx}

theorem topologyCompare_idle (h : s.mc.expected = none ∨ (s.stack st).boot ≠ .admitting) : exec (.topologyCompare st) s = .next s := by
  change execTopologyCompare st s = _
  rw [execTopologyCompare]
  cases he : s.mc.expected with
  | none => rfl
  | some w => exact congrArg _ (if_neg (h.resolve_left (by simp [he])))

theorem topologyCompare_compares {w : List Byte} (he : s.mc.expected = some w) (hb : (s.stack st).boot = .admitting) :
    exec (.topologyCompare st) s = .next (compareTopology s st w) := by
  change execTopologyCompare st s = _
  rw [execTopologyCompare, he]
  exact congrArg _ (if_pos hb)

theorem compareTopology_agrees {w : List Byte} (h : mismatch w (topologyRecord s st) = 0) : compareTopology s st w = toReady s st := if_pos h

/-- A stack whose topology differs when it compares is HELD for it, and says so. -/
theorem compareTopology_differs {w : List Byte} (h : mismatch w (topologyRecord s st) ≠ 0) (hb : (s.stack st).boot = .admitting) :
    compareTopology s st w = s.setStack st
      (raise (toHeld s.now 2 (mismatch w (topologyRecord s st)) (s.stack st)) { source := fTopologyHeld, addr := haController }) :=
  (if_neg h).trans (congrArg (s.setStack st) (if_neg (by simp [hb])))

theorem getTopology_answers {r : CmdRef} {k : Cmd} (h : CmdStarted s st r 0x0801 k) (hg : gates s st k = stOk) :
    exec (.getTopology st r) s = .next (replyAll s st k stOk [] (topologyRecord s st)) := by
  change execGetTopology st r s = _
  rw [execGetTopology, onCmdAll_started _ h, asOne_acts hg]

theorem targets_self (s : State) (st : StackIx) {k : Cmd} (h2 : k.tkind ≠ 2) (h3 : k.tkind ≠ 3) : targets s st k = [st] := by
  simp only [targets, if_neg h2, if_neg h3]

/-- A command carried out on the stack that has received it alone, which has power. -/
theorem onTargets_one {i : StackIx} (f : StackIx → State → Nat × State) (h : (s.stack i).boot ≠ .off) : onTargets s [i] f = f i s := by
  simp [onTargets, h]

theorem expectAt_ready {want : List Byte} (h : (s.stack st).boot = .ready) :
    expectAt want st s = (if mismatch want (topologyRecord s st) = 0 then stOk else stTopologyMismatch, s) := by
  simp [expectAt, h]

/-- EXPECT_TOPOLOGY of a READY stack alone: the record is kept where it agrees. -/
theorem expectTopology_ready {r : CmdRef} {k : Cmd} (h : CmdStarted s st r 0x0800 k) (h2 : k.tkind ≠ 2) (h3 : k.tkind ≠ 3)
    (hb : (s.stack st).boot = .ready) :
    exec (.expectTopology st r) s = .next (
      if mismatch k.data (topologyRecord s st) = 0 then replyAll { s with mc := { s.mc with expected := some k.data } } st k stOk [] []
      else replyAll s st k stTopologyMismatch [] []) := by
  change execExpectTopology st r s = _
  rw [execExpectTopology, onCmdAll_started _ h]
  simp only [targets_self s st h2 h3, onTargets_one _ (show (s.stack st).boot ≠ .off by simp [hb]), gate_self, ne_eq, not_true_eq_false,
    if_false, expectAt_ready hb]
  split <;> rfl

end Topology

/-! ### The statement -/

/-- Settles O53, state by state from the lemmas above. -/
theorem bringUpGoesStateByState : Obligations.BringUpGoesStateByState := by
  intro s st x
  refine ⟨fun m => ⟨romComplete_idle m, fun hb hr => ?checks, fun hb hr => ⟨romComplete_cold m hb hr, romComplete_warm m hb hr⟩⟩,
    fun h => ⟨verifyComplete_idle h, fwFetchTimeout_idle h⟩,
    fun h => ⟨fwFetchTimeout_next h, fun hf => ?own, fun f hf => ⟨verifyComplete_fetching h hf, verifyComplete_partial h hf,
      verifyComplete_rejects h hf, fun ht ho => ⟨verifyComplete_accepts h hf ht ho, verifyComplete_repairsFlash h hf ht ho⟩⟩⟩,
    fun bs n => ?image, fun p => ⟨proofingComplete_idle p, proofingComplete_ends p⟩, enterDiscover_held,
    fun l k => neighbourProbe_answers,
    fun l => ⟨probeTimeout_idle, fun hb hp => ?timeout, fun k => cmdRpl_probed, fun k => cmdRpl_unawaited,
      fun r hl hu hi hs => packageRecord_learns hl hu hi hs⟩,
    fun r k h => ⟨setNodeId_late h, setNodeId_refused h, setNodeId_lost h, setNodeId_assigns h⟩,
    fun w he hb => ⟨fun hm => ?agrees, fun hm => ?differs⟩, topologyCompare_idle, fun r k => getTopology_answers,
    fun r k h h2 h3 hb => ⟨fun hm => ?expected, fun hm => ?mismatched⟩⟩
  case checks =>
    exact ⟨fun hc => (romComplete_checks m hb hr).trans (congrArg _ (if_pos hc)),
      fun hc => (romComplete_checks m hb hr).trans (congrArg _ (if_neg (by simp [hc])))⟩
  case own =>
    simp only [← takesRun_iff, Bool.not_eq_true]
    exact ⟨verifyComplete_run h hf, verifyComplete_flash h hf, fun bs e ho => verifyComplete_recovers h hf (by rwa [pathImage, ← e])⟩
  case image =>
    have ht := accepted_trust s.now x bs n
    refine ⟨accepted s.now x bs n, toProofing_eq s st bs n, congrArg Trust.run ht, congrArg Trust.fetch ht, accepted_proofing bs n,
      accepted_resetting bs n⟩
  case timeout => exact (probeTimeout_settles hb hp).trans (congrArg (fun y => Host.Outcome.next (s.setStack st y)) (settleDiscover_of_discover hb))
  case agrees => rw [topologyCompare_compares he hb, compareTopology_agrees hm]
  case differs => rw [topologyCompare_compares he hb, compareTopology_differs hm hb]
  case expected => exact (expectTopology_ready h h2 h3 hb).trans (congrArg _ (if_pos hm))
  case mismatched => exact (expectTopology_ready h h2 h3 hb).trans (congrArg _ (if_neg hm))

end Sys2Proof.Machine
end

section
/-! PROOFS. The tokens of the tick tree at a member (O26): a token and its copy, a token for another node, and each type at its member. -/

namespace Sys2Proof.Machine
open Sys2Proof

/-- A change of a member depends on the member's stack alone. -/
theorem onMember_at {s : State} {st : StackIx} {f : Stack → Stack} {y : Stack} (h : f (s.stack st) = y) :
    onMember s st f = onMember s st (fun _ => y) := by
  subst h
  rfl

/-! ### A token and its copy (R375) -/

/-- The tokens received of which a copy may still come. -/
def openTokens (now : Nat) (x : Stack) : List (TokenTy × Token × Nat) :=
  x.router.tokens.filter (fun e => decide (now ≤ e.2.2 + copyCycles))

/-- Whether a token is the copy of one received. -/
def isCopy (now : Nat) (x : Stack) (ty : TokenTy) (k : Token) : Bool := (openTokens now x).any (fun e => decide (e.1 = ty ∧ e.2.1 = k))

/-- The stack that has noted a token, of which a copy may come. -/
def tokenCame (now : Nat) (x : Stack) (ty : TokenTy) (k : Token) : Stack :=
  { x with router := { x.router with tokens := openTokens now x ++ [(ty, k, now)] } }

/-- The stack to which the copy of a token has come: it waits for that copy no more. -/
def copyCame (now : Nat) (x : Stack) (ty : TokenTy) (k : Token) : Stack :=
  { x with router := { x.router with tokens := (openTokens now x).eraseP (fun e => decide (e.1 = ty ∧ e.2.1 = k)) } }

theorem tokenOnce_copy {now : Nat} {x : Stack} {ty : TokenTy} {k : Token} (f : Stack → Token → Stack) (h : isCopy now x ty k = true) :
    tokenOnce now x ty k f = copyCame now x ty k := if_pos h

theorem tokenOnce_first {now : Nat} {x : Stack} {ty : TokenTy} {k : Token} (f : Stack → Token → Stack) (h : isCopy now x ty k = false) :
    tokenOnce now x ty k f = f (tokenCame now x ty k) k := if_neg (Bool.eq_false_iff.mp h)

/-- The row of each type of token. -/
def tokenRow (st : StackIx) (k : Token) : TokenTy → Instr
  | .start => .startToken st k
  | .done => .doneToken st k
  | .go => .goToken st k
  | .abort => .abortToken st k

/-- What each type of token does at a member. -/
def tokenAct (now : Nat) : TokenTy → Stack → Token → Stack
  | .start => startToken now
  | .done => doneToken now
  | .go => goToken now
  | .abort => abortToken now

section Token
variable {s : State} {st : StackIx} {k : Token} {ty : TokenTy}

theorem exec_tokenRow (s : State) (st : StackIx) (k : Token) (ty : TokenTy) :
    exec (tokenRow st k ty) s = .next (onMember s st (fun x => tokenOnce s.now x ty k (tokenAct s.now ty))) := by
  cases ty <;> rfl

theorem exec_tokenRow_copy (h : isCopy s.now (s.stack st) ty k = true) :
    exec (tokenRow st k ty) s = .next (onMember s st (fun _ => copyCame s.now (s.stack st) ty k)) :=
  (exec_tokenRow s st k ty).trans (congrArg _ (onMember_at (tokenOnce_copy _ h)))

/-- The first copy of a token acts on the stack that has noted it. -/
theorem exec_tokenRow_first {y : Stack} (h : isCopy s.now (s.stack st) ty k = false)
    (hy : tokenAct s.now ty (tokenCame s.now (s.stack st) ty k) k = y) :
    exec (tokenRow st k ty) s = .next (onMember s st (fun _ => y)) :=
  (exec_tokenRow s st k ty).trans (congrArg _ (onMember_at ((tokenOnce_first _ h).trans hy)))

end Token

/-- A token of any type for another node is sent on (R381). -/
theorem tokenAct_forwards {x : Stack} {k : Token} (now : Nat) (ty : TokenTy) (h : k.dest.toNat ≠ nodeId x) :
    tokenAct now ty x k = forwardToken x ty k := by
  cases ty
  case start => exact if_pos h
  case done => exact if_pos h
  case go => exact if_pos h
  case abort => exact if_pos h

/-! ### A token at its member (R54, R55, R59, R70) -/

theorem tryStart_waits {x : Stack} (now : Nat) (h : x.tick.ownStart = false) : tryStart now x = x := if_pos (by simp [h])

/-- Nothing goes up before the member's own work of the tick is done. -/
theorem sendUp_waits {x : Stack} (now n : Nat) (h : x.tick.doneSent ≤ x.tick.upSent) : sendUp now n x = x := by
  cases n with
  | zero => rfl
  | succ n => exact if_pos (by simp [h])

/-- The START of a child kept with its configuration. -/
def keepStart (x : Stack) (k : Token) : Stack :=
  { x with tick := { x.tick with starts := x.tick.starts.filter (fun e => decide (e.1 ≠ k.member.toNat)) ++ [(k.member.toNat, k.tick)] } }

/-- The ticks of a child counted as done up to that of its DONE. -/
def countDone (x : Stack) (k : Token) : Stack :=
  let n := max (tget (fun _ => 0) x.tick.doneRecv k.member.toNat) (fullTick x k.tick.toNat + 1)
  { x with tick := { x.tick with doneRecv := tset (fun _ => 0) x.tick.doneRecv k.member.toNat n } }

section Member
variable {now : Nat} {x : Stack} {k : Token} (hd : k.dest.toNat = nodeId x)
include hd

theorem startToken_kept (hm : tokenMine (wakeSimmer now x) k = true) (hk : (treeKids (wakeSimmer now x)).contains k.member.toNat = true)
    (hp : (wakeSimmer now x).pstate = .admitted) (ho : (wakeSimmer now x).tick.ownStart = false) :
    startToken now x k = keepStart (wakeSimmer now x) k :=
  (if_neg (not_not.mpr hd)).trans ((if_pos ⟨hm, hk, .inl hp⟩).trans (tryStart_waits now ho))

theorem doneToken_counted (hm : tokenMine (wakeSimmer now x) k = true) (hk : (treeKids (wakeSimmer now x)).contains k.member.toNat = true)
    (hj : jobOn (wakeSimmer now x) = true) (hu : (wakeSimmer now x).tick.doneSent ≤ (wakeSimmer now x).tick.upSent) :
    doneToken now x k = countDone (wakeSimmer now x) k :=
  (if_neg (not_not.mpr hd)).trans ((if_pos ⟨hm, hk, hj⟩).trans (sendUp_waits now 4 hu))

end Member

/-- The member that has seen go(t). -/
def goSeen (x : Stack) (t : Nat) : Stack := { x with tick := { x.tick with goRecv := t + 1 } }

/-- A go that the member has not seen goes on to its children; then the member starts tick 0, ends its job, or goes on. -/
theorem actGo_new {x : Stack} {t : Nat} (now : Nat) (h : x.tick.goRecv ≤ t) :
    actGo now x t =
      let r := sendTokens (goSeen x t) .go (treeKids x) (t % 65536)
      if !r.1 then abortJob now r.2 none 0
      else if r.2.tick.phase = .starting ∧ t = 0 ∧ !r.2.tick.hold then beginTick now r.2 0
      else if r.2.tick.phase = .barrier ∧ tickOf r.2 = r.2.tick.lastTick ∧ r.2.tick.lastTick < t then endMember now r.2
      else r.2 := if_neg (Nat.not_lt.mpr h)

theorem sendTokens_nil (x : Stack) (ty : TokenTy) (field : Nat) : sendTokens x ty [] field = (true, x) := rfl

/-- A go at a member that runs and has no children: its gates see it. -/
theorem actGo_leaf {x : Stack} {t : Nat} (now : Nat) (hp : x.tick.phase = .run) (hk : treeKids x = []) (ht : x.tick.goRecv ≤ t) :
    actGo now x t = goSeen x t := by
  have hrun : (goSeen x t).tick.phase = .run := hp
  rw [actGo_new now ht, hk, sendTokens_nil]
  simp [hrun]

theorem jobOn_of_run {x : Stack} (h : x.tick.phase = .run) : jobOn x = true := by simp [jobOn, h]

theorem goToken_leaf {now : Nat} {x : Stack} {k : Token} (hd : k.dest.toNat = nodeId x) (hm : tokenMine (wakeSimmer now x) k = true)
    (hu : (treeParent (wakeSimmer now x)).isSome = true) (hp : (wakeSimmer now x).tick.phase = .run) (hk : treeKids (wakeSimmer now x) = [])
    (ht : (wakeSimmer now x).tick.goRecv ≤ fullTick (wakeSimmer now x) k.tick.toNat) :
    goToken now x k = goSeen (wakeSimmer now x) (fullTick (wakeSimmer now x) k.tick.toNat) :=
  (if_neg (not_not.mpr hd)).trans ((if_pos ⟨hm, hu, jobOn_of_run hp⟩).trans (actGo_leaf now hp hk ht))

/-- The member marked to end its job under R70. -/
def toEnd (x : Stack) (source : Nat) : Stack := { x with tick := { x.tick with ending := true, aborted := true, endSource := source } }

/-- A member that an ABORT reaches sends it on over its other edges, and ends its job at once where it may not wait for the boundary. -/
theorem abortJob_from {x : Stack} (now i source : Nat) (hj : jobOn x = true) (ha : x.tick.aborted = false) :
    abortJob now x (some i) source =
      let y := (sendTokens (toEnd x source) .abort ((treeEdges x).filter (fun j => decide (some j ≠ some i))) 0).2
      if y.tick.phase = .starting ∨ y.tick.phase = .barrier ∨ gateWaiting y then endMember now y else y := by
  rw [abortJob, if_neg (by simp [hj, ha])]
  simp only [reduceCtorEq, and_false, if_false]
  rfl

/-- An ABORT from the only edge of a member that runs goes to no other edge, and the job goes on to the boundary. -/
theorem abortJob_onlyEdge {x : Stack} {i : Nat} (now source : Nat) (hp : x.tick.phase = .run) (ha : x.tick.aborted = false)
    (he : treeEdges x = [i]) (hg : gateWaiting x = false) : abortJob now x (some i) source = toEnd x source := by
  have hrun : (toEnd x source).tick.phase = .run := hp
  have hgate : gateWaiting (toEnd x source) = false := hg
  have hnone : [i].filter (fun j => decide (some j ≠ some i)) = [] := by simp
  rw [abortJob_from now i source (jobOn_of_run hp) ha, he, hnone, sendTokens_nil]
  simp [hrun, hgate]

theorem abortToken_onlyEdge {now : Nat} {x : Stack} {k : Token} (hd : k.dest.toNat = nodeId x) (hm : tokenMine x k = true)
    (hp : (wakeSimmer now x).tick.phase = .run) (ha : (wakeSimmer now x).tick.aborted = false) (hh : (wakeSimmer now x).tick.hold = false)
    (he : treeEdges (wakeSimmer now x) = [k.member.toNat]) (hg : gateWaiting (wakeSimmer now x) = false) :
    abortToken now x k = toEnd (wakeSimmer now x) 0 :=
  calc abortToken now x k
      = abortJob now (wakeSimmer now x) (some k.member.toNat) 0 := by simp [abortToken, hd, hm, hh, jobOn_of_run hp]
    _ = toEnd (wakeSimmer now x) 0 := abortJob_onlyEdge now 0 hp ha he hg

/-- Settles O26: each type of token in its first copy and its second, for the member and for another node. -/
theorem tokensAtAMember : Obligations.TokensAtAMember := by
  intro s st t held copy came gone away
  have forwards : ∀ ty, t.dest.toNat ≠ nodeId (s.stack st) → copy ty = false →
      exec (tokenRow st t ty) s = .next (onMember s st (fun _ => away ty)) :=
    fun ty hd hc => exec_tokenRow_first hc (tokenAct_forwards s.now ty hd)
  refine ⟨⟨exec_tokenRow_copy (ty := .start), exec_tokenRow_copy (ty := .done), exec_tokenRow_copy (ty := .go),
      exec_tokenRow_copy (ty := .abort)⟩,
    fun hd => ⟨forwards .start hd, forwards .done hd, forwards .go hd, forwards .abort hd⟩, ?start, ?done, ?go, ?abort⟩
  case start =>
    rintro w rfl hc hd hm hk hp ho
    exact exec_tokenRow_first (ty := .start) hc (startToken_kept hd hm hk hp ho)
  case done =>
    rintro w rfl hc hd hm hk hj hu
    exact exec_tokenRow_first (ty := .done) hc (doneToken_counted hd hm hk hj hu)
  case go =>
    rintro w rfl hc hd hm hu hp hk ht
    exact exec_tokenRow_first (ty := .go) hc (goToken_leaf hd hm hu hp hk ht)
  case abort =>
    rintro w rfl hc hd hm hp ha hh he hg
    exact exec_tokenRow_first (ty := .abort) hc (abortToken_onlyEdge hd hm hp ha hh he hg)

end Sys2Proof.Machine
end

section
/-! PROOFS. The end of a tick's work, the tick boundary, the overrun and the close of a tick (O27). -/

namespace Sys2Proof.Machine
open Sys2Proof

/-! ### The work done (R50, R67) -/

/-- By how much an overrun tick was late, kept as the maximum so far. -/
def noteLate (x : Stack) (late : Nat) : Stack :=
  if x.tick.overrun then
    setReg x rTckOverrun (setFld (reg x rTckOverrun) 32 32 (max (fld (reg x rTckOverrun) 32 32) (min 0xFFFFFFFF late)))
  else x

@[simp] theorem noteLate_tick (x : Stack) (late : Nat) : (noteLate x late).tick = x.tick := by
  unfold noteLate
  split
  · exact setReg_tick _ _ _
  · rfl

theorem tickDoneSend_sends {now : Nat} {x : Stack} (late : Nat) (bad : List Nat) (hp : x.tick.phase = .run) (hh : x.tick.hold = false)
    (hd : x.tick.doneSent = tickOf x) (hw : workDone x (tickOf x) = true) :
    tickDoneSend now x late bad = beginTest (sendUp now 4 (collBegin now
      { noteLate x late with tick := { x.tick with doneSent := tickOf x + 1, overrun := false } } (tickOf x) bad)) := by
  rw [← noteLate_tick x late]
  exact if_neg (by simp [hp, hh, hd, hw])

/-! ### The tick boundary (R60, R70, R439) -/

/-- The member at E(t): a tick that it has run is learned, and it stands at the barrier. -/
def atBarrier (now : Nat) (x : Stack) (m : TickMeasure) : Stack :=
  let w := if x.tick.phase = .run then learnTick now x m else x
  { w with tick := { w.tick with phase := .barrier } }

theorem not_barred {x : Stack} (hp : x.tick.phase = .run ∨ x.tick.phase = .barrier) (hh : x.tick.hold = false) :
    ¬ (x.tick.hold = true ∨ (x.tick.phase ≠ .run ∧ x.tick.phase ≠ .barrier)) := by
  rcases hp with hp | hp <;> simp [hp, hh]

/-- A member that is to end its job and whose exchange access waits at the gate ends it at once (R70). -/
theorem tickStart_gateWaits {now : Nat} {x : Stack} (m : TickMeasure) (hp : x.tick.phase = .run ∨ x.tick.phase = .barrier)
    (hh : x.tick.hold = false) (ha : x.tick.aborted = true) (hg : gateWaiting x = true) : tickStart now x m = endMember now x :=
  (if_neg (not_barred hp hh)).trans (if_pos ⟨ha, hg⟩)

section Boundary
variable {now : Nat} {x : Stack} (m : TickMeasure) (hp : x.tick.phase = .run ∨ x.tick.phase = .barrier) (hh : x.tick.hold = false)
  (ha : x.tick.aborted = false) (hd : x.tick.doneSent = tickOf x + 1)
include hp hh ha hd

/-- What the boundary decides for a member that has sent its done and is not aborted. -/
theorem tickStart_decides :
    tickStart now x m =
      let y := atBarrier now x m
      if tickOf x = y.tick.lastTick ∧ tickOf x + 1 < y.tick.goRecv then endMember now { y with tick := { y.tick with aborted := false } }
      else if y.tick.ending then endMember now y
      else if tickOf x = y.tick.lastTick ∨ !goLets y (tickOf x + 1) then y
      else if grantLets y then beginTick now y (tickOf x + 1)
      else { y with power := { y.power with grantWait := true } } :=
  (if_neg (not_barred hp hh)).trans ((if_neg (by simp [ha])).trans (if_neg (not_not.mpr hd)))

theorem tickStart_normalEnd (hl : tickOf x = (atBarrier now x m).tick.lastTick) (hg : tickOf x + 1 < (atBarrier now x m).tick.goRecv) :
    tickStart now x m = endMember now { atBarrier now x m with tick := { (atBarrier now x m).tick with aborted := false } } :=
  (tickStart_decides m hp hh ha hd).trans (if_pos ⟨hl, hg⟩)

theorem tickStart_ends (hl : tickOf x ≠ (atBarrier now x m).tick.lastTick) (he : (atBarrier now x m).tick.ending = true) :
    tickStart now x m = endMember now (atBarrier now x m) :=
  (tickStart_decides m hp hh ha hd).trans ((if_neg (fun h => hl h.1)).trans (if_pos he))

theorem tickStart_waits (hl : tickOf x ≠ (atBarrier now x m).tick.lastTick) (he : (atBarrier now x m).tick.ending = false)
    (hg : goLets (atBarrier now x m) (tickOf x + 1) = false) : tickStart now x m = atBarrier now x m :=
  (tickStart_decides m hp hh ha hd).trans ((if_neg (fun h => hl h.1)).trans ((if_neg (by simp [he])).trans (if_pos (.inr (by simp [hg])))))

theorem tickStart_begins (hl : tickOf x ≠ (atBarrier now x m).tick.lastTick) (he : (atBarrier now x m).tick.ending = false)
    (hg : goLets (atBarrier now x m) (tickOf x + 1) = true) (hr : grantLets (atBarrier now x m) = true) :
    tickStart now x m = beginTick now (atBarrier now x m) (tickOf x + 1) :=
  (tickStart_decides m hp hh ha hd).trans ((if_neg (fun h => hl h.1)).trans ((if_neg (by simp [he])).trans
    ((if_neg (by simp [hl, hg])).trans (if_pos hr))))

end Boundary

/-! ### The overrun (R48, R67) -/

theorem tickOverrun_raises {x : Stack} (hp : x.tick.phase = .run) (hh : x.tick.hold = false) (hd : x.tick.doneSent = tickOf x)
    (ho : x.tick.overrun = false) (hg : gateWaiting x = false) (hw : workDone x (tickOf x) = false) :
    tickOverrun x = raise (setReg { x with tick := { x.tick with overrun := true } } rTckOverrun (addSat (reg x rTckOverrun) 0 32 1))
      { source := fTickOverrun, addr := haController } :=
  if_neg (by simp [hp, hh, hd, ho, hg, hw])

theorem tickOverrun_idle {x : Stack} (h : x.tick.phase ≠ .run ∨ x.tick.overrun = true ∨ gateWaiting x = true ∨ workDone x (tickOf x) = true) :
    tickOverrun x = x :=
  if_pos (by tauto)

/-! ### The close (R68, R69, R190, R204) -/

theorem tickClose_idle {now : Nat} {x : Stack}
    (h : x.tick.phase ≠ .run ∨ x.tick.closed = true ∨ x.tick.overrun = false ∨ gateWaiting x = true) : tickClose now x = x :=
  if_pos (by simp only [Bool.not_eq_true']; tauto)

/-- The tick of a stack marked as closed. -/
def closing (x : Stack) : Stack := { x with tick := { x.tick with closed := true } }

/-- The severity with which a close makes a core FAULTED. -/
def closeSev (x : Stack) : Nat := fld (reg x rTckConfig) 16 3

/-- A wait logged in TCK_STALL_LOGn where that is free. -/
def logStall (words : List Word) (z : Stack) (n : Nat) : Stack :=
  match words[n]? with
  | some w => if fld (reg z (rTckStallLog n)) 63 1 = 1 then z else setReg z (rTckStallLog n) w
  | none => z

theorem logStall_nil (z : Stack) (n : Nat) : logStall [] z n = z := rfl

/-- The cores of the partition that run. -/
def runningCores (x : Stack) : List Nat := (partCores x).filter (fun c => decide ((x.core c).run = .running))

/-- A core that neither waits nor has ended its tick: TICK_RUNAWAY (R190). -/
def runAway (x z : Stack) (c : Nat) : Stack :=
  let w := setFld (coreReport z fTickRunaway .seq 0) 8 3 (closeSev x)
  faultCore (raise z { source := fTickRunaway, addr := haSite (coreSite z c), core := some c, detail0 := w }) c w (closeSev x)

/-- A core with pending waits: SYNC_STALL for each, the first one named in the report (R69). -/
def stallCore (x z : Stack) (c : Nat) (w : Nat × Nat × Nat × Nat) (ws : List (Nat × Nat × Nat × Nat)) (d1 : Word) : Stack :=
  let r : Raise := { source := fSyncStall, addr := haSite (coreSite z c), core := some c, detail0 := stallWord (tickOf x) c w, detail1 := d1 }
  faultCore ((w :: ws).foldl (fun z _ => raise z r) z) c
    (bv 64 (2 ^ 63 + tickOf x % 65536 * 2 ^ 32 + fSyncStall * 2 ^ 20 + w.1 * 2 ^ 16 + w.2.1 % 32 * 2 ^ 11)) (closeSev x)

section Close
variable {now : Nat} {x : Stack} {c : Nat}
  (ho : x.tick.phase = .run ∧ x.tick.hold = false ∧ x.tick.doneSent = tickOf x ∧ x.tick.closed = false ∧ x.tick.overrun = true
    ∧ gateWaiting x = false)
  (hc : runningCores x = [c])
include ho hc

/-- The close of a tick in which one core runs. -/
theorem tickClose_one :
    tickClose now x =
      let words := (coreWaits now x c).map (stallWord (tickOf x) c)
      let z := logStall words (logStall words (closing x) 0) 1
      collStall (match coreWaits now x c with
        | [] => if (z.core c).tickEnd then z else runAway x z c
        | w :: ws => stallCore x z c w ws (reg z (rTckStallLog 1))) (tickOf x) := by
  obtain ⟨hp, hh, hd, hn, hv, hg⟩ := ho
  refine (if_neg (by simp [hp, hh, hd, hn, hv, hg])).trans ?_
  rw [show (partCores x).filter _ = [c] from hc]
  simp only [List.map_cons, List.map_nil, List.flatMap_cons, List.flatMap_nil, List.append_nil, List.foldl_cons, List.foldl_nil]
  cases coreWaits now x c with
  | nil => rfl
  | cons w ws => rfl

theorem tickClose_runaway (hw : coreWaits now x c = []) (he : ((closing x).core c).tickEnd = false) :
    tickClose now x = collStall (runAway x (closing x) c) (tickOf x) := by
  rw [tickClose_one ho hc, hw]
  simp only [List.map_nil, logStall_nil, he, Bool.false_eq_true, if_false]

theorem tickClose_stalls {w : Nat × Nat × Nat × Nat} {ws : List (Nat × Nat × Nat × Nat)} (hw : coreWaits now x c = w :: ws) :
    tickClose now x =
      let words := (w :: ws).map (stallWord (tickOf x) c)
      let z := logStall words (logStall words (closing x) 0) 1
      collStall (stallCore x z c w ws (reg z (rTckStallLog 1))) (tickOf x) := by
  rw [tickClose_one ho hc, hw]

end Close

/-! ### The rows -/

section Rows
variable {s : State} {st : StackIx} {y : Stack}

theorem exec_tickDoneSend {late : Nat} {bad : List Nat} (h : tickDoneSend s.now (s.stack st) late bad = y) :
    exec (.tickDoneSend st late bad) s = .next (onMember s st (fun _ => y)) := congrArg Host.Outcome.next (onMember_at h)

theorem exec_tickStart {m : TickMeasure} (h : tickStart s.now (s.stack st) m = y) :
    exec (.tickStart st m) s = .next (onMember s st (fun _ => y)) := congrArg Host.Outcome.next (onMember_at h)

theorem exec_tickOverrun (h : tickOverrun (s.stack st) = y) : exec (.tickOverrun st) s = .next (s.setStack st y) :=
  congrArg (fun z => Host.Outcome.next (s.setStack st z)) h

theorem exec_tickClose (h : tickClose s.now (s.stack st) = y) : exec (.tickClose st) s = .next (s.setStack st y) :=
  congrArg (fun z => Host.Outcome.next (s.setStack st z)) h

end Rows

/-- Settles O27: the work done, the boundary, the overrun, and the close with one core that runs. -/
theorem ticksBeginAndEnd : Obligations.TicksBeginAndEnd := by
  refine ⟨?steps, ?closes⟩
  case steps =>
    intro s st x t
    refine ⟨fun late bad hp hh hd hw => ?done, fun m hp hh ha hd => ?boundary, fun hp hh ha hg m => ?gate,
      fun hp hh hd ho hg hw => ?overrun, fun h => ?noOverrun⟩
    case done => exact exec_tickDoneSend (tickDoneSend_sends late bad hp hh hd hw)
    case boundary =>
      exact ⟨fun hl hg hw hr => exec_tickStart (tickStart_normalEnd m hp hh ha hd (hl.trans hw.symm) (hg.trans_eq hr.symm)),
        fun hl he => exec_tickStart (tickStart_ends m hp hh ha hd hl he),
        fun hl he hg hr => exec_tickStart (tickStart_begins m hp hh ha hd hl he hg hr),
        fun hl he hg => exec_tickStart (tickStart_waits m hp hh ha hd hl he hg)⟩
    case gate => exact exec_tickStart (tickStart_gateWaits m hp hh ha hg)
    case overrun => exact exec_tickOverrun (tickOverrun_raises hp hh hd ho hg hw)
    case noOverrun => exact (exec_tickOverrun (tickOverrun_idle h)).trans (congrArg _ (State.setStack_self s st))
  case closes =>
    intro s st c x t sev y
    refine ⟨fun ho hc => ⟨fun hw he => ?runaway, fun w ws hw => ?stalls⟩, fun h => ?noClose⟩
    case runaway => exact exec_tickClose (tickClose_runaway ho hc hw he)
    case stalls => exact exec_tickClose (tickClose_stalls ho hc hw)
    case noClose => exact (exec_tickClose (tickClose_idle h)).trans (congrArg _ (State.setStack_self s st))

end Sys2Proof.Machine
end

section
/-! PROOFS. The line of a VX element operation (O12): the bits and the poison marks of a packed line, a line as 128 elements of 32 bits, and the
element operation as a function of the element's number. -/

namespace Sys2Proof.Machine
open Sys2Proof

/-! ### A packed line bit by bit (R89, R99) -/

/-- Element `i` holds bits `w * i` to `w * i + w - 1` of the line's data. -/
theorem lineEl_eq_extract (w : Nat) (l : Line) (i : Nat) : lineEl w l i = (l.data.extractLsb' (w * i) w).toNat := by
  rw [lineEl, BitVec.extractLsb'_toNat, Nat.shiftRight_eq_div_pow]

/-- The first element adds its own `w` bits in its place to the line of the rest. -/
theorem packFrom_cons_bit {q : Nat} (hq : q < 4096) (w n : Nat) (e : Nat × Bool) (r : List (Nat × Bool)) :
    (packFrom w n (e :: r)).data.getLsbD q
      = ((packFrom w (n + 1) r).data.getLsbD q || (decide (w * n ≤ q) && (decide (q - w * n < w) && e.1.testBit (q - w * n)))) := by
  have hs : q - w * n < 4096 := by omega
  simp only [packFrom, BitVec.getLsbD_or, BitVec.getLsbD_shiftLeft, BitVec.getLsbD_ofNat, Nat.testBit_mod_two_pow, hq, hs, decide_true,
    Bool.true_and, ← decide_not, Nat.not_lt]

/-- A bit of a packed line is the bit of the element in whose place it lies, and 0 below the first element and past the last. -/
theorem packFrom_bit {w i b : Nat} (hb : b < w) (hi : w * (i + 1) ≤ 4096) (els : List (Nat × Bool)) (n : Nat) :
    (packFrom w n els).data.getLsbD (w * i + b) = (decide (n ≤ i) && (els.getD (i - n) (0, false)).1.testBit b) := by
  have hw : w * (i + 1) = w * i + w := Nat.mul_succ w i
  induction els generalizing n with
  | nil => simp [packFrom]
  | cons e r ih =>
    rw [packFrom_cons_bit (by omega), ih]
    rcases Nat.lt_trichotomy i n with h | rfl | h
    · have below : w * (i + 1) ≤ w * n := Nat.mul_le_mul_left w h
      simp [show ¬ n + 1 ≤ i by omega, show ¬ n ≤ i by omega, show ¬ w * n ≤ w * i + b by omega]
    · simp [hb]
    · have above : w * (n + 1) ≤ w * i := Nat.mul_le_mul_left w h
      have hn : w * (n + 1) = w * n + w := Nat.mul_succ w n
      simp [show n + 1 ≤ i by omega, show n ≤ i by omega, show ¬ w * i + b - w * n < w by omega, show i - n = i - (n + 1) + 1 by omega]

/-- A word of a packed line is poisoned where a poisoned element has its first or its last bit in it (R99). -/
theorem packFrom_mark {w m : Nat} (hm : m < 16) (els : List (Nat × Bool)) (n : Nat) :
    (packFrom w n els).marks.getLsbD m = true
      ↔ ∃ j, (els.getD j (0, false)).2 = true ∧ (w * (n + j) / 256 = m ∨ (w * (n + j) + w - 1) / 256 = m) := by
  have mark : ∀ q, ((1#16 <<< q).getLsbD m = true ↔ q = m) := by
    intro q
    rw [← BitVec.twoPow_eq, BitVec.getLsbD_twoPow]
    simp
    omega
  induction els generalizing n with
  | nil => simp [packFrom]
  | cons e r ih =>
    obtain ⟨c, p⟩ := e
    rw [← Nat.or_exists_add_one]
    cases p with
    | false => simp [packFrom, ih, Nat.add_assoc, Nat.add_comm 1]
    | true =>
      simp only [packFrom, if_true, BitVec.getLsbD_or, Bool.or_eq_true, mark, ih]
      simp [Nat.add_assoc, Nat.add_comm 1, or_assoc, or_comm, or_left_comm]

/-! ### A line as 128 elements of 32 bits -/

/-- An element of 32 bits lies in one word, eight elements to each (R89). -/
theorem elPoison_32 (l : Line) (i : Nat) : elPoison 32 l i = l.marks.getLsbD (i / 8) := by
  rw [elPoison, show 32 * i / 256 = i / 8 by omega, show (32 * i + 32 - 1) / 256 = i / 8 by omega, Bool.or_self]

/-- The elements of a line are those that `lineEl` and `elPoison` give one by one. -/
theorem line32_eq (l : Line) : line32 l = (List.range 128).map (fun i => (bv 32 (lineEl 32 l i), elPoison 32 l i)) := by
  have el : ∀ i, (l.data >>> (32 * i)).setWidth 32 = bv 32 (lineEl 32 l i) := by
    intro i
    rw [lineEl_eq_extract, bv, BitVec.ofNat_toNat, BitVec.setWidth_eq]
    rfl
  simp only [line32, el, elPoison_32]

section Tabulated
variable (f : Nat → BitVec 32 × Bool) {i : Nat}

/-- The line whose element of each number is given by a function of the number. -/
def lineOf : Line := pack32 ((List.range 128).map f)

theorem lineEl_lineOf (hi : i < 128) : lineEl 32 (lineOf f) i = (f i).1.toNat := by
  rw [lineEl_eq_extract]
  congr 1
  apply BitVec.eq_of_getLsbD_eq
  intro b hb
  rw [BitVec.getLsbD_extractLsb', lineOf, pack32, packFrom_bit hb (by omega)]
  simp [hi, hb, BitVec.getLsbD]

/-- A word is poisoned where one of its eight elements is. -/
theorem elPoison_lineOf (hi : i < 128) : elPoison 32 (lineOf f) i = true ↔ ∃ j < 128, j / 8 = i / 8 ∧ (f j).2 = true := by
  rw [elPoison_32, lineOf, pack32, packFrom_mark (by omega)]
  refine exists_congr fun j => ?_
  have place : (32 * (0 + j) / 256 = i / 8 ∨ (32 * (0 + j) + 32 - 1) / 256 = i / 8) ↔ j / 8 = i / 8 := by omega
  rw [place]
  by_cases hj : j < 128
  · simp [hj, and_comm]
  · simp [hj]

/-- Where the eight elements of a word are poisoned together, each element keeps its poison. -/
theorem elPoison_lineOf_of_word (hf : ∀ j, j / 8 = i / 8 → (f j).2 = (f i).2) (hi : i < 128) : elPoison 32 (lineOf f) i = (f i).2 := by
  rw [Bool.eq_iff_iff, elPoison_lineOf f hi]
  constructor
  · rintro ⟨j, -, hj, hp⟩
    rwa [← hf j hj]
  · exact fun h => ⟨i, hi, rfl, h⟩

end Tabulated

/-! ### The element operation -/

/-- Element `i` of the result and its poison, of elements `i` of the operands. -/
def vxEl (k : VxK) (t : Bool) (a b c : Line) (i : Nat) : BitVec 32 × Bool :=
  (vxElem k t (bv 32 (lineEl 32 a i)) (bv 32 (lineEl 32 b i)) (bv 32 (lineEl 32 c i)),
    elPoison 32 a i || (vxUsesB k && elPoison 32 b i) || (vxUsesC k && elPoison 32 c i))

theorem vxLine_eq_lineOf (k : VxK) (t : Bool) (a b c : Line) : vxLine k t a b c = lineOf (vxEl k t a b c) := by
  rw [vxLine, line32_eq, line32_eq, line32_eq, List.zip_map', List.zipWith_map, List.zipWith_self]
  rfl

/-- Settles O12: the line is tabulated from `vxEl`, whose poison is that of the word. -/
theorem vxLineIsElementByElement : Obligations.VxLineIsElementByElement := by
  intro k t a b c i hi
  rw [vxLine_eq_lineOf]
  have word : ∀ j, j / 8 = i / 8 → (vxEl k t a b c j).2 = (vxEl k t a b c i).2 := by
    intro j hj
    simp only [vxEl, elPoison_32, hj]
  exact ⟨lineEl_lineOf _ hi, elPoison_lineOf_of_word _ word hi⟩

end Sys2Proof.Machine
end

section
/-! PROOFS. The passes of an MX engine (O6, O7, O8): the operation that each row finds, and what it makes of its pass. -/

namespace Sys2Proof.Machine
open Sys2Proof

section MxRow
variable {s : State} {a : CoreAt} {i : Instr} {f : Stack → Stack}

/-- At a running core a row of the MX engine changes its own stack by what the engine does. -/
theorem mxDo_running (h : (s.coreAt a).run = .running) : mxDo s a f = .next (s.setStack a.st (f (s.stack a.st))) := by
  have runs : coreRuns (s.stack a.st) a.c.val = true := decide_eq_true h
  rw [mxDo, onSt, State.onStack, if_pos runs]

theorem exec_mxRow {y : Stack} (hi : exec i s = mxDo s a f) (h : (s.coreAt a).run = .running) (hf : f (s.stack a.st) = y) :
    exec i s = .next (s.setStack a.st y) := by
  rw [hi, mxDo_running h, hf]

theorem exec_mxRow_idle (hi : exec i s = mxDo s a f) (h : (s.coreAt a).run = .running) (hf : f (s.stack a.st) = s.stack a.st) :
    exec i s = .next s := by
  rw [exec_mxRow hi h hf, State.setStack_self]

end MxRow

/-! ### PASS and PASS_START (R114, R117, R118, R217) -/

/-- A started PASS operation that has not named its descriptor. -/
def awaitsName (y : QEntry) : Bool := y.started && !y.done && isPass y && y.pass.isNone

/-- A PASS operation that PASS_START has not started, named or not. -/
def awaitsStart (y : QEntry) : Bool := !y.done && isPass y && (match y.pass with | some p => !p.started | none => true)

/-- The pass that PASS `o` gives to its operation `q`. -/
def namedPass (x : Stack) (c : Nat) (o : PassOp) (q : QEntry) : PassRun :=
  ⟨resolvePass x c o, false, q.tick, q.ord, [], 0, 0, false, false, false, none⟩

section Start
variable {x : Stack} {c : Nat} {q : QEntry} {p : PassRun}

theorem passName_names {o : PassOp} (h : (x.core c).mx.find? awaitsName = some q) (ho : q.op = some (.pass o)) :
    passName x c o = putOp x c .mx { q with pass := some (namedPass x c o q) } := by
  unfold passName
  split
  next none_awaits => cases none_awaits.symm.trans h
  next found =>
    cases found.symm.trans h
    exact if_neg (not_not_intro ho)

theorem passStart_unnamed (h : (x.core c).mx.find? awaitsStart = some q) (hp : q.pass = none) : passStart x c = x := by
  unfold passStart
  split
  next => rfl
  next found =>
    cases found.symm.trans h
    rw [hp]

theorem passStart_named (h : (x.core c).mx.find? awaitsStart = some q) (hp : q.pass = some p) :
    passStart x c = if passValid x c q.uid p.d then putOp x c .mx { q with pass := some { p with started := true } }
      else putOp (raiseCore x c .mx (qposOf (x.core c).mx q.uid) fMxDesc) c .mx { q with done := true, pass := none } := by
  unfold passStart
  split
  next none_awaits => cases none_awaits.symm.trans h
  next found =>
    cases found.symm.trans h
    rw [hp]

end Start

/-- Settles O6: PASS gives its operation `namedPass`; PASS_START treats the oldest pass that awaits its start. -/
theorem passNamesAndStarts : Obligations.PassNamesAndStarts := by
  intro s a run x c
  refine ⟨fun o q found named => ?_, fun q p found => ⟨fun unnamed => ?_, fun pass => ?_⟩⟩
  · exact ⟨namedPass x c o q, exec_mxRow rfl run (passName_names found named),
      rfl, rfl, rfl, rfl, rfl, rfl, rfl, rfl, rfl, rfl, rfl, rfl, rfl⟩
  · exact exec_mxRow_idle rfl run (passStart_unnamed found unnamed)
  · exact exec_mxRow rfl run (passStart_named found pass)

/-! ### PASS_STEP_COMPLETE (R121, R129, R134) -/

/-- Of a mismatch a pass keeps the note alone. -/
theorem noteMiss_eq (x : Stack) (c : Nat) (p : PassRun) (kind : Nat) (k : Checks) : ∃ m, noteMiss x c p kind k = { p with miss := m } := by
  unfold noteMiss
  split
  case h_1 => exact ⟨p.miss, rfl⟩
  case h_2 => split <;> exact ⟨_, rfl⟩

theorem noteMiss_passed {x : Stack} {c kind : Nat} {p : PassRun} {k : Checks} (h : k.failed = none) : noteMiss x c p kind k = p := by
  rw [noteMiss, h]

/-- What a step with results `outs` makes of a pass: `failed` says whether a column check failed. -/
def stepped (p n : PassRun) (failed : Bool) (outs : List (Nat × List (BitVec 32 × Bool))) : PassRun :=
  { n with
      res := if failed = true ∧ p.replay = false then p.res else p.res ++ outs.map (fun e => e.2)
      cell := if failed = true ∧ p.replay = true then true else p.cell
      broken := failed && !p.replay }

section Step
variable {x : Stack} {c : Nat} {q : QEntry} {p : PassRun} {flips : List Flip}

theorem stepComplete_steps {outs : List (Nat × List (BitVec 32 × Bool))} {y : Stack} {k : Checks} (hs : stepPass x c = some (q, p))
    (hr : operandsReady x c q.uid p.d = true) (hb : p.broken = false) (ho : stepOuts x c q p flips = outs)
    (hk : stepChecks x c q p outs = (y, k)) :
    stepComplete x c flips = flushOldest (putOp (crustEffects y c q p 0 k) c .mx
      { q with pass := some (stepped p (noteMiss y c p 0 k) k.failed.isSome outs) }) c := by
  obtain ⟨m, hm⟩ := noteMiss_eq y c p 0 k
  simp only [stepComplete, hs, hr, if_true, ho, hk, hm]
  cases hf : k.failed with
  | none => simp [stepped, hb]
  | some e =>
    cases hp : p.replay with
    | false => simp [stepped, hp]
    | true => simp [stepped, hp, hb]

theorem stepComplete_idle (h : stepPass x c = none) : stepComplete x c flips = x := by
  rw [stepComplete, h]

theorem stepComplete_waits (hs : stepPass x c = some (q, p)) (hr : operandsReady x c q.uid p.d = false) : stepComplete x c flips = x := by
  simp [stepComplete, hs, hr]

end Step

/-- Settles O7: the pass that steps becomes `stepped`, by the outcome of its column checks. -/
theorem passStepLeavesTheArray : Obligations.PassStepLeavesTheArray := by
  intro s a flips run x c
  refine ⟨fun q p next ready whole => ?_, ?_⟩
  · exact exec_mxRow rfl run (stepComplete_steps next ready whole rfl rfl)
  · rintro (idle | ⟨q, p, next, missing⟩)
    · exact exec_mxRow_idle rfl run (stepComplete_idle idle)
    · exact exec_mxRow_idle rfl run (stepComplete_waits next missing)

/-! ### PASS_REPLAY and PASS_RETIRE (R118, R120, R129, R134) -/

/-- An operation whose pass waits for its replay. -/
def awaitsReplay (y : QEntry) : Bool := !y.done && (match y.pass with | some p => p.broken | none => false)

/-- The pass of operation `y`, where it has one, back at step 0; it is a replay where `y` is the operation `uid` whose check failed. -/
def startAgain (c uid : Nat) (x : Stack) (y : QEntry) : Stack :=
  match y.pass with
  | some p => putOp x c .mx { y with pass := some { p with
      res := [], wrote := 0, pushed := 0, cell := false, broken := false, replay := p.replay || y.uid == uid } }
  | none => x

section Retire
variable {now : Nat} {x : Stack} {c : Nat} {q : QEntry} {p : PassRun}

theorem passReplay_restarts {b : QEntry} (h : (x.core c).mx.find? awaitsReplay = some b) :
    passReplay x c = ((x.core c).mx.dropWhile (fun y => decide (y.uid ≠ b.uid))).foldl (startAgain c b.uid) x := by
  unfold passReplay
  dsimp only
  split
  next none_awaits => cases none_awaits.symm.trans h
  next found =>
    cases found.symm.trans h
    rfl

/-- Without a failed replay, what a retiring pass held is freed, shown and told, and the next pass makes its writes. -/
theorem retirePass_intact (h : p.cell = false) :
    retirePass now x c q p =
      let y1 := match p.d.wq with | some i => dqDropN x c i (passWLines p.d) | none => x
      let y2 := match p.d.aq with | some i => dqDropN y1 c i (passALines p.d) | none => y1
      let y3 := if passDrain p.d then showHeld y2 c p.d.dq q.uid else y2
      flushOldest (putOp (writeFlag now y3 c p.d.flag true) c .mx { q with done := true, pass := some p }) c := by
  unfold retirePass
  rw [h]
  rfl

theorem passRetire_works (ho : oldestPass (flushOldest x c) c = some (q, p)) (hf : flushed p = false) :
    passRetire now x c = flushOldest x c := by
  simp [passRetire, ho, hf]

/-- A pass with its work done is judged by its row checks. -/
theorem passRetire_checks {y : Stack} {k : Checks} (ho : oldestPass (flushOldest x c) c = some (q, p)) (hb : p.broken = false)
    (hf : flushed p = true) (hk : rowChecks (flushOldest x c) c q p = (y, k)) :
    (k.failed = none → passRetire now x c = retirePass now (crustEffects y c q p 1 k) c q p)
    ∧ (k.failed ≠ none → p.replay = false → passRetire now x c
        = putOp (crustEffects y c q p 1 k) c .mx { q with pass := some { noteMiss y c p 1 k with broken := true } }) := by
  simp only [passRetire, ho, hf, hb, hk]
  cases fails : k.failed with
  | none => simp [noteMiss_passed fails]
  | some e =>
    obtain ⟨m, hm⟩ := noteMiss_eq y c p 1 k
    simp +contextual [hm]

end Retire

/-- Settles O8: PASS_REPLAY folds `startAgain` over the operations from the failed one on; PASS_RETIRE goes by the row checks. -/
theorem passReplaysAndRetires : Obligations.PassReplaysAndRetires := by
  constructor
  · intro s a b run found
    exact exec_mxRow rfl run (passReplay_restarts found)
  · intro s a q p run c x oldest whole y
    refine ⟨fun done passed sound => ?_, fun done fails first => ?_, fun works => ?_⟩
    · exact exec_mxRow rfl run (((passRetire_checks oldest whole done rfl).1 passed).trans (retirePass_intact sound))
    · exact exec_mxRow rfl run ((passRetire_checks oldest whole done rfl).2 fails first)
    · exact exec_mxRow rfl run (passRetire_works oldest works)

end Sys2Proof.Machine
end

section
/-! PROOFS. Rows that change one stack, and the flags (O21): what a row makes of its stack it makes of the module. -/

namespace Sys2Proof.Machine
open Sys2Proof

section StackRow
variable {s : State} {st : StackIx} {i : Instr} {f : Stack → Stack}

theorem exec_stackRow {y : Stack} (hi : exec i s = onSt s st f) (hf : f (s.stack st) = y) : exec i s = .next (s.setStack st y) := by
  rw [hi, onSt, State.onStack, hf]

/-- A row that leaves its stack leaves the module. -/
theorem exec_stackRow_idle (hi : exec i s = onSt s st f) (hf : f (s.stack st) = s.stack st) : exec i s = .next s := by
  rw [exec_stackRow hi hf, State.setStack_self]

end StackRow

/-! ### Bits of a flag register (R148, R185, R186) -/

theorem flagBits_getLsbD (x : BitVec 64) (g : Nat) (v : Bool) {f : Nat} (hf : f < 64) :
    (flagBits x g v).getLsbD f = if g = f then v else x.getLsbD f := by
  have bit : (1#64 <<< g).getLsbD f = decide (g = f) := by
    rw [← BitVec.twoPow_eq, BitVec.getLsbD_twoPow]
    simp
    omega
  cases v with
  | true =>
    rw [flagBits, if_pos rfl, BitVec.getLsbD_or, bit]
    by_cases h : g = f <;> simp [h]
  | false =>
    rw [flagBits, if_neg Bool.false_ne_true, BitVec.getLsbD_and, BitVec.getLsbD_not, bit]
    by_cases h : g = f <;> simp [h, hf]

/-- Of several writes the last of a flag gives it its value; a flag that none writes keeps its own. -/
theorem foldl_flagBits_getLsbD {α : Type} (flag : α → Nat) (val : α → Bool) (l : List α) (x : BitVec 64) {f : Nat} (hf : f < 64) :
    (l.foldl (fun b a => flagBits b (flag a) (val a)) x).getLsbD f
      = ((l.filter (fun a => decide (flag a = f))).getLast?).elim (x.getLsbD f) val := by
  induction l using List.reverseRecOn with
  | nil => rfl
  | append_singleton l a ih =>
    rw [List.foldl_concat, flagBits_getLsbD _ _ _ hf, List.filter_append]
    by_cases h : flag a = f
    · simp [h]
    · simp [h, ih]

/-! ### SIGNAL_DELIVER (R187, R192) -/

theorem signalDeliver_arrives {now t f c : Nat} {x : Stack} (h : (List.range 168).find? (fun c => (x.core c).signals.contains (t, f)) = some c) :
    signalDeliver now x t f =
      let y := x.onCore c (fun k => { k with signals := k.signals.erase (t, f) })
      if (y.core t).run = .faulted then y else setLocalFlag now y t f true := by
  rw [signalDeliver, h]

theorem signalDeliver_idle {now t f : Nat} {x : Stack} (h : (List.range 168).find? (fun c => (x.core c).signals.contains (t, f)) = none) :
    signalDeliver now x t f = x := by
  rw [signalDeliver, h]

/-! ### ROW_FLAG_TEST (R148, R186) -/

/-- The tests that ROW_FLAG_TEST grants at row `r`: the flag with the core and the entry of its WAITC. -/
def rowGrants (x : Stack) (r : Nat) : List (Nat × Nat × Nat) :=
  (List.range 64).filterMap (fun f => if (x.row r).flags.getLsbD f then (rowGrant x r f).map (fun g => (f, g)) else none)

/-- The stack with a granted test noted at its WAITC. -/
def noteGrant (x : Stack) (g : Nat × Nat × Nat) : Stack :=
  x.onCore g.2.1 (fun k => { k with fx := k.fx.map (fun y => if y.uid = g.2.2 then { y with granted := true } else y) })

/-- The row's flags with those of the granted tests cleared. -/
def grantedCleared (x : Stack) (r : Nat) : BitVec 64 := (rowGrants x r).foldl (fun fl g => flagBits fl g.1 false) (x.row r).flags

/-- The writes of earlier cycles that stand. -/
def writesDue (now : Nat) (x : Stack) (r : Nat) : List (Nat × Bool × Nat) :=
  standingOps ((x.row r).flagOps.filter (fun o => decide (o.1 < now)))

section RowFlags
variable {now r : Nat} {x : Stack}

theorem rowFlagTest_once (h : (x.row r).flagTest = some now) : rowFlagTest now x r = x := if_pos h

theorem rowFlagTest_tests (h : (x.row r).flagTest ≠ some now) :
    rowFlagTest now x r = ((rowGrants x r).foldl noteGrant x).setRow r { x.row r with
      flags := (writesDue now x r).foldl (fun fl o => flagBits fl o.2.2 o.2.1) (grantedCleared x r)
      flagOps := (x.row r).flagOps.filter (fun o => decide (now ≤ o.1))
      flagTest := some now } := if_neg h

theorem foldl_noteGrant_keeps (l : List (Nat × Nat × Nat)) (x : Stack) :
    (l.foldl noteGrant x).rows = x.rows ∧ (l.foldl noteGrant x).mem = x.mem ∧ (l.foldl noteGrant x).regs = x.regs := by
  induction l generalizing x with
  | nil => exact ⟨rfl, rfl, rfl⟩
  | cons g l ih => exact ih (noteGrant x g)

/-- A granted test is on a flag that reads 1, and there is one for each such flag that a WAITC can take. -/
theorem exists_mem_rowGrants_iff {f : Nat} (hf : f < 64) :
    (∃ g ∈ rowGrants x r, g.1 = f) ↔ (x.row r).flags.getLsbD f = true ∧ (rowGrant x r f).isSome = true := by
  simp only [rowGrants, List.mem_filterMap, List.mem_range, Option.ite_none_right_eq_some, Option.map_eq_some_iff]
  constructor
  · rintro ⟨_, ⟨_, -, one, w, hw, rfl⟩, rfl⟩
    exact ⟨one, Option.isSome_of_eq_some hw⟩
  · rintro ⟨one, some_⟩
    obtain ⟨w, hw⟩ := Option.isSome_iff_exists.mp some_
    exact ⟨(f, w), ⟨f, hf, one, w, hw, rfl⟩, rfl⟩

theorem grantedCleared_getLsbD {f : Nat} (hf : f < 64) :
    (grantedCleared x r).getLsbD f = ((x.row r).flags.getLsbD f && (rowGrant x r f).isNone) := by
  rw [grantedCleared, foldl_flagBits_getLsbD (fun g : Nat × Nat × Nat => g.1) (fun _ => false) _ _ hf]
  have granted := exists_mem_rowGrants_iff (x := x) (r := r) hf
  cases last : ((rowGrants x r).filter (fun g => decide (g.1 = f))).getLast? with
  | none =>
    have unflagged : ¬ ∃ g ∈ rowGrants x r, g.1 = f := by
      rintro ⟨g, hg, on_f⟩
      exact List.filter_eq_nil_iff.mp (List.getLast?_eq_none_iff.mp last) g hg (decide_eq_true on_f)
    rw [granted] at unflagged
    cases grant : rowGrant x r f with
    | none => simp
    | some w => simpa [grant] using unflagged
  | some g =>
    have mem := List.mem_filter.mp (List.mem_of_getLast? last)
    obtain ⟨one, some_⟩ := granted.mp ⟨g, mem.1, of_decide_eq_true mem.2⟩
    simp [Option.isNone_eq_false_iff.mpr some_]

end RowFlags

/-- Settles O21: the writes of a row's flags in their order, the clears of granted tests before them. -/
theorem flagsAreApplied : Obligations.FlagsAreApplied := by
  intro s
  refine ⟨fun a f => ⟨fun c sent => ?_, fun none_sent => ?_⟩, fun r tested => ?_, fun r untested => ?_⟩
  · exact exec_stackRow rfl (signalDeliver_arrives sent)
  · exact exec_stackRow_idle rfl (signalDeliver_idle none_sent)
  · exact exec_stackRow_idle rfl (rowFlagTest_once tested)
  · obtain ⟨rows, mem, regs⟩ := foldl_noteGrant_keeps (rowGrants (s.stack r.st) r.r.val) (s.stack r.st)
    refine ⟨_, _, exec_stackRow rfl (rowFlagTest_tests untested), rows, mem, regs, fun f hf => ?_⟩
    rw [foldl_flagBits_getLsbD (fun o : Nat × Bool × Nat => o.2.2) (fun o => o.2.1) _ _ hf, grantedCleared_getLsbD hf, writesDue]
    cases List.getLast? _ <;> rfl

end Sys2Proof.Machine
end

section
/-! PROOFS. The neighbour links (O19): the two acts of a SEND of one line, the line that lands, the line that is sent again. -/

namespace Sys2Proof.Machine
open Sys2Proof

/-! ### SEND (R154, R156) -/

/-- An operation that acts once and then waits keeps what the act has made of it. -/
theorem runActs_acts_then_waits {now c n kind object : Nat} {op : CoreOp} {stop : QEntry → Bool} {x y : Stack} {q q' : QEntry}
    (act : engineAct now x c op q = .go y q') (goes : stop q' = false) (wait : engineAct now y c op q' = .wait kind object) :
    runActs now c op stop (n + 2) x q = putOp y c (opEngine op) q' := by
  simp [runActs, act, goes, wait]

theorem runOp_started {now c : Nat} {op : CoreOp} {x : Stack} {q : QEntry} (h : startedOp x c op = some q) (hr : (x.core c).run = .running) :
    runOp now x c op = runActs now c op (fun _ => false) actFuel x q := by
  simp [runOp, h, coreRuns, hr]

section Send
variable {x y : Stack} {c t : Nat} {o : NlOp} {q : QEntry} {line : Line}

/-- The line that is due sets out for one credit. -/
theorem nlAct_sends (due : q.prog.i < o.n.toNat + 1) (dest : neighbour x c o.dir = some t) (credit : 0 < (linkIn x t (incoming o.dir)).credits)
    (read : readEnd x c o.src q.prog.i = .go line y) :
    nlAct x c o q =
      let l := linkIn x t (incoming o.dir)
      .go (setLinkIn y t (incoming o.dir) { l with credits := l.credits - 1, flight := l.flight ++ [⟨q.uid, o.rq.val, line, 1⟩] })
        { q with prog := { q.prog with i := q.prog.i + 1 } } := by
  simp only [nlAct, if_neg (Nat.not_le.mpr due), dest, if_neg (Nat.ne_of_gt credit), read]

/-- With all its lines sent a SEND waits until they are pushed. -/
theorem nlAct_sent (sent : o.n.toNat + 1 ≤ q.prog.i) (unpushed : q.prog.fin < o.n.toNat + 1) : nlAct x c o q = .wait 4 0 := by
  simp only [nlAct, ge_iff_le, if_pos sent, if_neg (Nat.not_le.mpr unpushed)]

theorem nlSend_oneLine {now : Nat} (one : o.n = 0) (run : (x.core c).run = .running) (started : startedOp x c (.send o) = some q)
    (fresh : q.prog = {}) (dest : neighbour x c o.dir = some t) (credit : 0 < (linkIn x t (incoming o.dir)).credits)
    (read : readEnd x c o.src 0 = .go line y) :
    runOp now x c (.send o) =
      let l := linkIn x t (incoming o.dir)
      putOp (setLinkIn y t (incoming o.dir) { l with credits := l.credits - 1, flight := l.flight ++ [⟨q.uid, o.rq.val, line, 1⟩] })
        c .nl { q with prog := { i := 1 } } := by
  have act := nlAct_sends (q := q) (by simp [fresh]) dest credit (by rw [fresh]; exact read)
  rw [fresh] at act
  exact (runOp_started started run).trans (runActs_acts_then_waits (n := 69998) act rfl (nlAct_sent (by simp [one]) (by simp)))

end Send

/-! ### LINK_LINE_LAND and LINK_CREDIT_RETURN (R154, R155, R158, R159) -/

theorem takeInject_none {x : Stack} {unit checker : Nat} (h : tget (fun _ => 0) x.inject (checkerKey unit checker) = 0) :
    takeInject x unit checker = (false, x) := if_pos h

section Land
variable {x : Stack} {c : Nat} {d : Dir} {failing : BitVec 16} {m : LinkLine} {r : List LinkLine}

theorem linkLand_lands (flight : (linkIn x c d).flight = m :: r)
    (noInject : tget (fun _ => 0) x.inject (checkerKey (segmentOf x c d).1 0) = 0) (intact : failing = 0) :
    linkLand x c d failing =
      let l := linkIn x c d
      pushLanded c d 8 (setLinkIn x c d { l with flight := r, landed := l.landed ++ [m] }) := by
  simp [linkLand, flight, takeInject_none noInject, intact]

theorem linkLand_replays (flight : (linkIn x c d).flight = m :: r)
    (noInject : tget (fun _ => 0) x.inject (checkerKey (segmentOf x c d).1 0) = 0) (fails : failing ≠ 0) (again : m.sent < 4) :
    linkLand x c d failing =
      let y := setLinkIn x c d { linkIn x c d with flight := { m with sent := m.sent + 1 } :: r }
      let z := setReg y (rNlStat c) (addSat (reg y (rNlStat c)) 0 32 1)
      raise z { source := fLinkReplay, addr := haSite (coreSite z c), core := some c } := by
  simp only [linkLand, flight, takeInject_none noInject, Bool.false_eq_true, if_false, if_neg fails, if_pos again]

theorem creditReturn_returns (h : 0 < (linkIn x c d).returning) :
    creditReturn x c d =
      let l := linkIn x c d
      setLinkIn x c d { l with returning := l.returning - 1, credits := l.credits + 1 } := if_neg (Nat.ne_of_gt h)

theorem creditReturn_idle (h : (linkIn x c d).returning = 0) : creditReturn x c d = x := if_pos h

end Land

/-- Settles O19: each row by the lemma of its case. -/
theorem neighbourLinksMoveLines : Obligations.NeighbourLinksMoveLines := by
  intro s a d
  refine ⟨?send, fun m r failing flight noInject => ⟨fun intact => ?lands, fun fails again => ?replays⟩, fun waiting => ?returns, fun idle => ?idle⟩
  case send =>
    rintro o q t line y rfl one run started fresh dest credit read
    exact exec_stackRow rfl (nlSend_oneLine one run started fresh dest credit read)
  case lands => exact exec_stackRow rfl (linkLand_lands flight noInject intact)
  case replays => exact exec_stackRow rfl (linkLand_replays flight noInject fails again)
  case returns => exact exec_stackRow rfl (creditReturn_returns waiting)
  case idle => exact exec_stackRow_idle rfl (creditReturn_idle idle)

end Sys2Proof.Machine
end

section
/-! PROOFS. Row ports, pantry sub-banks and the glaze bus (O22), case by case as the rows decide. -/

namespace Sys2Proof.Machine
open Sys2Proof

/-! ### A request at its port (R161 to R164) -/

section Take
variable {x : Stack} {row core t : Nat} {acc : Access} {fresh : Bool}

/-- The port of row `row` has an open window of the line of `acc` in cycle `t`. -/
def portJoins (x : Stack) (row : Nat) (acc : Access) (t : Nat) : Bool :=
  (closeWindows (x.row row) t).windows.any (fun w => decide (w.addr = acc.addr) && w.closed.isNone)

theorem portTake_write (writes : accessWrites acc = true) (room : (closeWindows (x.row row) t).writes.length < 16) :
    portTake x row core acc t fresh =
      let r := closeWindows (x.row row) t
      some (markArrived (x.setRow row { r with
        writes := r.writes ++ [⟨core, acc.id, acc.addr, t, 0⟩]
        windows := r.windows.map (fun w => if w.addr = acc.addr ∧ w.closed.isNone then { w with closed := some (t + 1) } else w) }) acc) := by
  rw [portTake, if_pos writes]
  exact if_pos room

theorem portTake_join (reads : accessWrites acc = false) (joins : portJoins x row acc t = true) :
    portTake x row core acc t fresh =
      let r := closeWindows (x.row row) t
      some (markArrived (x.setRow row { r with windows := r.windows.map (fun w =>
        if w.addr = acc.addr ∧ w.closed.isNone then
          { w with members := w.members ++ [(core, acc.id)], opener := if w.opened = t then min w.opener core else w.opener }
        else w) }) acc) := by
  rw [portTake, if_neg (Bool.eq_false_iff.mp reads)]
  exact if_pos joins

theorem portTake_open (reads : accessWrites acc = false) (joins : portJoins x row acc t = false)
    (room : (closeWindows (x.row row) t).windows.length < 16) :
    portTake x row core acc t fresh =
      let r := closeWindows (x.row row) t
      some (markArrived (x.setRow row { r with windows := r.windows ++ [⟨acc.addr, t, core, [(core, acc.id)], none, 0, fresh⟩] }) acc) := by
  rw [portTake, if_neg (Bool.eq_false_iff.mp reads)]
  exact (if_neg (Bool.eq_false_iff.mp joins)).trans (if_pos room)

theorem portTake_full (reads : accessWrites acc = false) (joins : portJoins x row acc t = false)
    (full : 16 ≤ (closeWindows (x.row row) t).windows.length) : portTake x row core acc t fresh = none := by
  rw [portTake, if_neg (Bool.eq_false_iff.mp reads)]
  exact (if_neg (Bool.eq_false_iff.mp joins)).trans (if_neg (Nat.not_lt.mpr full))

end Take

/-! ### PANTRY_REQUEST_ARRIVE (R161 to R164) -/

/-- A request of an earlier cycle waits at the port of row `row`. -/
def portWaits (x : Stack) (row t : Nat) : Bool := (closeWindows (x.row row) t).waiting.any (fun w => decide (w.1 < t))

/-- The stack with access `acc` of core `c` waiting at its port since cycle `t`. -/
def waitingAtPort (x : Stack) (c t : Nat) (acc : Access) : Stack :=
  x.setRow (coreRow c) { x.row (coreRow c) with waiting := (x.row (coreRow c)).waiting ++ [(t, c, acc.id)] }

section Arrive
variable {x z : Stack} {c t : Nat} {e : Engine} {acc : Access}

theorem pantryArrive_behind (request : pantryAccess (seenAclk x t) c e = some acc) (waits : portWaits (seenAclk x t) (coreRow c) t = true) :
    pantryArrive x c e t = waitingAtPort (seenAclk x t) c t acc := by
  rw [pantryArrive, request]
  exact if_pos waits

theorem pantryArrive_takes (request : pantryAccess (seenAclk x t) c e = some acc) (first : portWaits (seenAclk x t) (coreRow c) t = false)
    (takes : portTake (seenAclk x t) (coreRow c) c acc t true = some z) : pantryArrive x c e t = z := by
  rw [pantryArrive, request]
  refine (if_neg (Bool.eq_false_iff.mp first)).trans ?_
  rw [takes]

theorem pantryArrive_noSlot (request : pantryAccess (seenAclk x t) c e = some acc) (first : portWaits (seenAclk x t) (coreRow c) t = false)
    (full : portTake (seenAclk x t) (coreRow c) c acc t true = none)
    (noLater : accessWrites acc = true ∨ laterWindow (closeWindows ((seenAclk x t).row (coreRow c)) t) c t = none) :
    pantryArrive x c e t = waitingAtPort (seenAclk x t) c t acc := by
  have none_later : (if accessWrites acc then none else laterWindow (closeWindows ((seenAclk x t).row (coreRow c)) t) c t) = none := by
    split
    · rfl
    · exact noLater.resolve_left ‹_›
  rw [pantryArrive, request]
  refine (if_neg (Bool.eq_false_iff.mp first)).trans ?_
  rw [full]
  dsimp only
  rw [none_later]
  rfl

/-- A read takes the window slot of a later opener of its own cycle. -/
theorem pantryArrive_ousts {w : PortWindow} (request : pantryAccess (seenAclk x t) c e = some acc)
    (first : portWaits (seenAclk x t) (coreRow c) t = false) (full : portTake (seenAclk x t) (coreRow c) c acc t true = none)
    (reads : accessWrites acc = false) (later : laterWindow (closeWindows ((seenAclk x t).row (coreRow c)) t) c t = some w)
    (takes : portTake (giveUpWindow ((seenAclk x t).setRow (coreRow c) (closeWindows ((seenAclk x t).row (coreRow c)) t)) (coreRow c) t w)
      (coreRow c) c acc t true = some z) : pantryArrive x c e t = z := by
  have some_later : (if accessWrites acc then none else laterWindow (closeWindows ((seenAclk x t).row (coreRow c)) t) c t) = some w :=
    (if_neg (Bool.eq_false_iff.mp reads)).trans later
  rw [pantryArrive, request]
  refine (if_neg (Bool.eq_false_iff.mp first)).trans ?_
  rw [full]
  dsimp only
  rw [some_later]
  dsimp only
  rw [takes]
  rfl

end Arrive

/-! ### PANTRY_SLOT_TAKE (R163) -/

section Slot
variable {x : Stack} {row t : Nat} {since core id : Nat} {acc : Access}

/-- The stack with no request waiting at the port of row `row`. -/
def noneWaiting (x : Stack) (row : Nat) : Stack := x.setRow row { x.row row with waiting := [] }

theorem takeSlots_one (waiting : ((seenAclk x t).row row).waiting = [(since, core, id)])
    (found : (seenAclk x t).entering.find? (fun a => a.id = id) = some acc) :
    takeSlots row t x = (portTake (noneWaiting (seenAclk x t) row) row core acc t false).getD (seenAclk x t) := by
  have order : waitingOrder (x.row row).waiting = [(since, core, id)] := congrArg waitingOrder waiting
  have gone : ((seenAclk x t).row row).waiting.erase (since, core, id) = [] := by
    simp [waiting]
  rw [takeSlots, order, List.foldl_cons, List.foldl_nil, takeSlot, gone, found]
  rfl

end Slot

/-! ### PANTRY_PORT_ISSUE (R160, R164) -/

/-- An operation joins the others at the sub-bank of its line. -/
def joinSubbank (x : Stack) (addr : Nat) (o : PantryOp) : Stack :=
  { x with subbanks := setListAt x.subbanks (subbankKey addr) (listAt x.subbanks (subbankKey addr) ++ [o]) }

section Issue
variable {x : Stack} {row t : Nat} {key : Nat × Nat × Nat}

theorem portIssue_once (h : (x.row row).lastIssue = some t) : portIssue x row t = (seenAclk x t).setRow row (closeWindows (x.row row) t) :=
  if_pos h

theorem portIssue_window {w : PortWindow} (h : (x.row row).lastIssue ≠ some t)
    (eligible : portEligible (closeWindows (x.row row) t) t = [(key, Sum.inl w)]) :
    portIssue x row t =
      let r := closeWindows (x.row row) t
      joinSubbank ((seenAclk x t).setRow row { r with windows := r.windows.filter (fun v => v ≠ w), lastIssue := some t }) w.addr
        (.window row { w with issued := t }) := by
  rw [portIssue]
  refine (if_neg h).trans ?_
  rw [eligible]
  rfl

theorem portIssue_write {w : PortWrite} (h : (x.row row).lastIssue ≠ some t)
    (eligible : portEligible (closeWindows (x.row row) t) t = [(key, Sum.inr w)]) :
    portIssue x row t =
      let r := closeWindows (x.row row) t
      joinSubbank ((seenAclk x t).setRow row { r with writes := r.writes.filter (fun v => v ≠ w), lastIssue := some t }) w.addr
        (.write row { w with issued := t }) := by
  rw [portIssue]
  refine (if_neg h).trans ?_
  rw [eligible]
  rfl

end Issue

/-! ### PANTRY_SUBBANK_GRANT (R252, R253) -/

section Grant
variable {now b k : Nat} {x : Stack} {u : Upsets}

theorem subbankGrant_window {c g o n : Nat} {w : PortWindow} (h : leastOf (subbankKeys x b k) = some ((g, o, n), .window c w)) :
    subbankGrant now x b k u =
      let key := b * 16 + k
      let y := injectSram (applyUpsets { x with
        subbanks := setListAt x.subbanks key ((listAt x.subbanks key).erase (.window c w))
        subfree := tset (fun _ => 0) x.subfree key (g + 4) } u) (haPantry b) 0 (w.addr / 32)
      y.setRow c (placeGlaze (y.row c) w (readLine y w.addr) (w.issued + 12 + 2 * dist c b + (g - (w.issued + 4)))) := by
  rw [subbankGrant, h]
  rfl

theorem subbankGrant_idle (h : listAt x.subbanks (b * 16 + k) = []) : subbankGrant now x b k u = x := by
  have none_waits : leastOf (subbankKeys x b k) = none := by
    rw [subbankKeys, h]
    rfl
  rw [subbankGrant, none_waits]

end Grant

/-! ### GLAZE_DELIVER (R165, R166, R277) -/

/-- With no injected check the transmissions that fail are those the operand tells. -/
theorem transferFails_told {x : Stack} {unit checker fails : Nat} (h : tget (fun _ => 0) x.inject (checkerKey unit checker) = 0) (hf : fails ≤ 4) :
    transferFails x unit checker fails = (fails, false, x) := by
  simp [transferFails, h, Nat.min_eq_right hf]

section Glaze
variable {x : Stack} {row : Nat} {failing : BitVec 16} {w : PortWindow} {l : Line} {n : Nat}

theorem glazeDeliver_lands {fails : Fin 5} (next : nextGlaze (x.row row).glaze = some (w, l, n))
    (noInject : tget (fun _ => 0) x.inject (checkerKey (haGlaze row) 0) = 0) :
    glazeDeliver x row fails.val failing =
      let y := (List.range (min fails.val 3)).foldl (fun y _ => raise y { source := fGlazeReplay, addr := haGlaze row })
        (x.setRow row { x.row row with glaze := (x.row row).glaze.erase (w, l, n), lastGlaze := some n })
      w.members.foldl (glazeLand (if fails.val = 4 then { l with marks := l.marks ||| failing } else l))
        (if fails.val = 4 then raise y { source := fGlazeFault, addr := haGlaze row } else y) := by
  have told := transferFails_told (x := x.setRow row { x.row row with glaze := (x.row row).glaze.erase (w, l, n), lastGlaze := some n })
    (unit := haGlaze row) (checker := 0) noInject (show fails.val ≤ 4 by omega)
  have fourth : fails.val ≥ 4 ↔ fails.val = 4 := by omega
  simp only [glazeDeliver, next, told, raiseReplays, acceptedLine, fourth, Bool.false_eq_true, if_false]

theorem glazeDeliver_idle {fails : Nat} (h : nextGlaze (x.row row).glaze = none) : glazeDeliver x row fails failing = x := by
  rw [glazeDeliver, h]

end Glaze

/-! ### The rows -/

/-- Settles O22: each row by the lemma of its case. -/
theorem rowPortsAndPantryReads : Obligations.RowPortsAndPantryReads := by
  refine ⟨fun s a e t acc => ⟨fun request => ?arrive, fun ro => ?close, fun ro since waiting found => ?slot⟩,
    fun s r t => ⟨fun once => ?once, fun key w due eligible => ?issueWindow, fun key w due eligible => ?issueWrite⟩,
    fun s r => ⟨fun k u c w g o n least => ?grant, fun k u empty => ?grantIdle, fun fails failing w l n next noInject => ?glaze,
      fun idle fails failing => ?glazeIdle⟩⟩
  case arrive =>
    refine ⟨fun behind => ?_, fun first full noLater => ?_, fun first writes room => ?_, fun first reads joins => ?_,
      fun first reads joins room => ?_, fun w z first reads joins full later takes => ?_⟩
    · exact exec_stackRow rfl (pantryArrive_behind request (eq_true_of_ne_false behind))
    · exact exec_stackRow rfl (pantryArrive_noSlot request first full noLater)
    · exact exec_stackRow rfl (pantryArrive_takes request first (portTake_write writes room))
    · exact exec_stackRow rfl (pantryArrive_takes request first (portTake_join reads joins))
    · exact exec_stackRow rfl (pantryArrive_takes request first (portTake_open reads joins room))
    · exact exec_stackRow rfl (pantryArrive_ousts request first (portTake_full reads joins full) reads later takes)
  case close => exact exec_stackRow rfl rfl
  case slot =>
    have taken := takeSlots_one waiting found
    refine ⟨fun z takes => exec_stackRow rfl ?_, fun full => exec_stackRow rfl ?_⟩
    · exact taken.trans (congrArg (Option.getD · _) takes)
    · exact taken.trans (congrArg (Option.getD · _) full)
  case once => exact exec_stackRow rfl (portIssue_once once)
  case issueWindow => exact exec_stackRow rfl (portIssue_window due eligible)
  case issueWrite => exact exec_stackRow rfl (portIssue_write due eligible)
  case grant => exact exec_stackRow rfl (subbankGrant_window least)
  case grantIdle => exact exec_stackRow_idle rfl (subbankGrant_idle empty)
  case glaze => exact exec_stackRow rfl (glazeDeliver_lands next noInject)
  case glazeIdle => exact exec_stackRow_idle rfl (glazeDeliver_idle idle)

end Sys2Proof.Machine
end

section
/-! PROOFS. KV_POOL_CONFIG, the records that an agent takes and the phase of a tick (O34). -/

namespace Sys2Proof.Machine
open Sys2Proof

/-! ### What the engine does once its accesses are performed (R347) -/

/-- A row that makes `kvMay` of its stack acts once all accesses are performed, and asks for the missing ones until then. -/
theorem exec_kvMay {s : State} {st : StackIx} {i : Instr} {src : Option KvSource} {row : Nat} {f : Stack → Stack}
    (h : exec i s = .next (s.setStack st (kvMay s.now src row (s.stack st) f))) :
    let x := s.stack st
    let y := f (kvSees x (kvAskedBy x src))
    (kvReady x y src = true → exec i s = .next (s.setStack st (kvDone x y src)))
    ∧ (kvReady x y src = false → exec i s = .next (s.setStack st ((kvMissing x y src).foldl (kvAsk s.now src row) x))) :=
  ⟨fun ready => by rw [h, kvMay_acts ready], fun waits => by rw [h, kvMay_asks waits]⟩

/-! ### KV_POOL_CONFIG (R334) -/

/-- The state of the cores and the registers is as it was. -/
structure Stack.KeepsCoresRegs (x y : Stack) : Prop where
  cores : y.cores = x.cores
  regs : y.regs = x.regs

theorem Stack.KeepsCoresRegs.refl (x : Stack) : x.KeepsCoresRegs x := ⟨rfl, rfl⟩

theorem Stack.KeepsCoresRegs.trans {x y z : Stack} (a : x.KeepsCoresRegs y) (b : y.KeepsCoresRegs z) : x.KeepsCoresRegs z :=
  ⟨b.cores.trans a.cores, b.regs.trans a.regs⟩

theorem Stack.KeepsCoresRegs.foldl {α : Type} {f : Stack → α → Stack} (h : ∀ (x : Stack) (a : α), x.KeepsCoresRegs (f x a)) (l : List α) (x : Stack) :
    x.KeepsCoresRegs (l.foldl f x) := by
  induction l generalizing x with
  | nil => exact .refl x
  | cons a l ih => exact (h x a).trans (ih (f x a))

theorem putLine_keepsCoresRegs (x : Stack) (a : Nat) (d : BitVec 4096) (syn : Nat → BitVec 16) : x.KeepsCoresRegs (putLine x a d syn) := by
  unfold putLine
  exact ⟨rfl, rfl⟩

theorem writeLine_keepsCoresRegs (x : Stack) (a : Nat) (l : Line) (mask : BitVec 512) : x.KeepsCoresRegs (writeLine x a l mask) := by
  have parity : x.KeepsCoresRegs (freshParity x a mask) := ⟨rfl, rfl⟩
  unfold writeLine
  exact parity.trans (putLine_keepsCoresRegs _ _ _ _)

theorem kvPut_keepsCoresRegs (x : Stack) (a : Nat) (l : Line) : x.KeepsCoresRegs (kvPut x a l) := by
  have noted : x.KeepsCoresRegs (kvTouch x true [a]) := ⟨rfl, rfl⟩
  unfold kvPut kvPutAt
  refine .trans ?_ (writeLine_keepsCoresRegs _ _ _ _)
  split
  · exact noted.trans ⟨rfl, rfl⟩
  · exact noted

/-- The stack with the pool's registers loaded: VALID set, reserved bits 0. -/
def poolLoaded (pool seqtab : Word) (cls : List Word) (x : Stack) : Stack :=
  (List.range 9).foldl (fun x i => setReg x (rKveClass i) (setFld (cls.getD i 0) 37 3 0))
    (setReg (setReg x rKvePool (setFld (setFld pool 63 1 1) 42 6 0)) rKveSeqtab (setFld seqtab 29 35 0))

/-- The stack with every descriptor of the sequence table zeroed. -/
def seqsCleared (x : Stack) : Stack := (List.range 4096).foldl (fun x q => kvPut x (descAddr x q) Line.zero) x

/-- The stack with the state of every page zeroed. -/
def statesCleared (x : Stack) : Stack :=
  let pages := ((List.range 9).map (kvPages x)).foldl (· + ·) 0
  (List.range (ceilDiv (4 * pages) 512)).foldl (fun x k =>
    let n := min 512 (4 * pages - 512 * k)
    writeLine (kvNote x true (decide (n % 32 ≠ 0)) [pantryAddr (kvStateBase x + k)]) (pantryAddr (kvStateBase x + k)) Line.zero (spanMask 0 n)) x

/-- The stack with no tray, backing slot or pin. -/
def noTrays (x : Stack) : Stack := { x with kv := { x.kv with trays := [], backing := [], pins := [] } }

/-- The pool of KV_POOL_CONFIG's payload taken over. -/
def poolTaken (pool seqtab : Word) (cls : List Word) (x : Stack) : Stack := noTrays (statesCleared (seqsCleared (poolLoaded pool seqtab cls x)))

theorem seqsCleared_keepsCoresRegs (x : Stack) : x.KeepsCoresRegs (seqsCleared x) :=
  .foldl (fun x _ => kvPut_keepsCoresRegs x _ _) _ x

theorem statesCleared_keepsCoresRegs (x : Stack) : x.KeepsCoresRegs (statesCleared x) := by
  unfold statesCleared
  exact .foldl (fun y _ => .trans (y := kvNote y _ _ _) ⟨rfl, rfl⟩ (writeLine_keepsCoresRegs _ _ _ _)) _ x

theorem noTrays_keepsCoresRegs (x : Stack) : x.KeepsCoresRegs (noTrays x) := ⟨rfl, rfl⟩

theorem poolTaken_keepsCoresRegs (pool seqtab : Word) (cls : List Word) (x : Stack) :
    (poolLoaded pool seqtab cls x).KeepsCoresRegs (poolTaken pool seqtab cls x) :=
  ((seqsCleared_keepsCoresRegs _).trans (statesCleared_keepsCoresRegs _)).trans (noTrays_keepsCoresRegs _)

theorem foldl_setReg_cores (off : Nat → Nat) (v : Nat → Word) (l : List Nat) (x : Stack) :
    (l.foldl (fun x i => setReg x (off i) (v i)) x).cores = x.cores := by
  induction l generalizing x with
  | nil => rfl
  | cons i l ih => exact ih _

theorem poolLoaded_cores (pool seqtab : Word) (cls : List Word) (x : Stack) : (poolLoaded pool seqtab cls x).cores = x.cores := by
  rw [poolLoaded, foldl_setReg_cores, setReg_cores, setReg_cores]

section Config
variable {now : Nat} {x : Stack} {k : Cmd}

/-- The nine class words of a KV_POOL_CONFIG payload. -/
def poolClasses (k : Cmd) : List Word := (List.range 9).map (fun i => word64At k.data (8 * (2 + i)))

theorem kvPoolConfig_held (held : x.pstate = .admitted ∨ x.pstate = .running ∨ x.pstate = .disabling) :
    kvPoolConfig now x k = answerCmd now x k stState := if_pos held

theorem kvPoolConfig_bad (free : ¬ (x.pstate = .admitted ∨ x.pstate = .running ∨ x.pstate = .disabling))
    (bad : poolBad (word64At k.data 0) (word64At k.data 8) (poolClasses k) = true) : kvPoolConfig now x k = answerCmd now x k stInvalidParam :=
  (if_neg free).trans (if_pos bad)

theorem kvPoolConfig_takes (free : ¬ (x.pstate = .admitted ∨ x.pstate = .running ∨ x.pstate = .disabling))
    (good : poolBad (word64At k.data 0) (word64At k.data 8) (poolClasses k) = false) :
    kvPoolConfig now x k = kvMay now (some (.issuer k.ref)) 0 x
      (fun z => answerCmd now (poolTaken (word64At k.data 0) (word64At k.data 8) (poolClasses k) z) k stOk) :=
  (if_neg free).trans (if_neg (Bool.eq_false_iff.mp good))

end Config

/-- An issuer's KV_POOL_CONFIG that has started is the row's command. -/
theorem exec_kvPoolConfig {s : State} {st : StackIx} {r : CmdRef} {k : Cmd} {y : Stack} (started : startedCmd (s.stack st) r = some k)
    (op : k.op = 0x0300) (h : kvPoolConfig s.now (s.stack st) k = y) :
    exec (.kvPoolConfig st (.issuer r)) s = .next (s.setStack st y) := by
  refine exec_stackRow rfl ?_
  dsimp only
  rw [started]
  exact (if_pos op).trans h

/-! ### KV_AGENT_TAKE (R149, R343) -/

/-- The stack with record `rec` of row `r` taken from the command queue, its reply awaited. -/
def recordTaken (y : Stack) (r : Nat) (rec : List Byte) (rest : List (List Byte)) : Stack :=
  { y.setRow r { y.row r with kvq := rest, kvReplies := (y.row r).kvReplies ++ [⟨y.nextId, fld (recWord rec 0) 16 4, none⟩] } with
    nextId := y.nextId + 1 }

section Take
variable {x : Stack} {r : Nat} {rec : List Byte} {rest : List (List Byte)}

theorem agentTake_waits (h : ((pushReplies x r 64).row r).kvq = [] ∨ ((pushReplies x r 64).row r).kvTaken ≠ none
      ∨ 64 ≤ ((pushReplies x r 64).row r).kvReplies.length) : agentTake x r = pushReplies x r 64 := by
  unfold agentTake
  dsimp only
  split
  next => rfl
  next rec rest queued =>
    refine if_pos ?_
    simpa [queued, Option.isSome_iff_ne_none, maxKvReplies] using h

variable (queued : ((pushReplies x r 64).row r).kvq = rec :: rest) (free : ((pushReplies x r 64).row r).kvTaken = none)
  (room : ((pushReplies x r 64).row r).kvReplies.length < 64)
include queued free room

/-- What an agent with room for a reply makes of the next record of its row. -/
theorem agentTake_record :
    agentTake x r =
      let op := fld (recWord rec 0) 0 16
      let z := recordTaken (pushReplies x r 64) r rec rest
      if op < 0x0301 ∨ 0x0308 < op then setReply z r (pushReplies x r 64).nextId (replyLine rec stInvalidOpcode [])
      else if kvInPhase op ∧ jobRuns z ∧ kvConfigured z then { z with kv := { z.kv with queued := z.kv.queued ++ [(r, (pushReplies x r 64).nextId, rec)] } }
      else z.setRow r { z.row r with kvTaken := some ((pushReplies x r 64).nextId, rec) } := by
  have takes : ¬ (((pushReplies x r 64).row r).kvTaken.isSome = true ∨ maxKvReplies ≤ ((pushReplies x r 64).row r).kvReplies.length) := by
    simpa [free, maxKvReplies] using room
  unfold agentTake
  dsimp only
  rw [queued]
  exact if_neg takes

end Take

/-! ### KV_PHASE (R189, R345) -/

/-- The phase of the next tick is due. -/
def phaseDue (x : Stack) : Prop :=
  columnsHeld x = false ∧ jobRuns x = true ∧ x.tick.phase = .run ∧ x.kv.phaseTick < tickOf x + 1
    ∧ (∀ e ∈ x.cores, e.2.participating = true → e.2.tickEnd = true ∨ e.2.run ≠ .running)
    ∧ (∀ e ∈ x.rows, (e.2.kvq = [] ∨ 64 ≤ e.2.kvReplies.length) ∧ e.2.kvTaken = none)

/-- The condition that KV_PHASE tests. -/
theorem phaseDue_iff (x : Stack) :
    phaseDue x ↔ (!columnsHeld x) = true ∧ jobRuns x = true ∧ x.tick.phase = .run ∧ x.kv.phaseTick < tickOf x + 1
      ∧ x.cores.all (fun e => !e.2.participating || e.2.tickEnd || decide (e.2.run ≠ .running)) = true
      ∧ x.rows.all (fun e => (e.2.kvq.isEmpty || decide (maxKvReplies ≤ e.2.kvReplies.length)) && e.2.kvTaken.isNone) = true := by
  have mayGo : ∀ k : Core, (k.participating = true → k.tickEnd = true ∨ k.run ≠ .running)
      ↔ (!k.participating || k.tickEnd || decide (k.run ≠ .running)) = true := by
    intro k
    cases k.participating <;> simp
  have leftAll : ∀ r : Row, ((r.kvq = [] ∨ 64 ≤ r.kvReplies.length) ∧ r.kvTaken = none)
      ↔ ((r.kvq.isEmpty || decide (maxKvReplies ≤ r.kvReplies.length)) && r.kvTaken.isNone) = true := by
    intro r
    rw [Bool.and_eq_true, Bool.or_eq_true, decide_eq_true_eq, List.isEmpty_iff, Option.isNone_iff_eq_none, maxKvReplies]
  simp only [phaseDue, Bool.not_eq_true', List.all_eq_true, mayGo, leftAll]

/-- KV_PHASE carries the phase of the next tick out where it is due. -/
theorem kvPhase_due {now : Nat} {x : Stack} (h : phaseDue x) : kvPhase now x = kvMay now none 0 x (fun z => kvPhaseFor now z (tickOf x + 1)) :=
  if_pos ((phaseDue_iff x).mp h)

theorem exec_kvPhase_due {s : State} {st : StackIx} (h : phaseDue (s.stack st)) :
    exec (.kvPhase st) s
      = .next (s.setStack st (kvMay s.now none 0 (s.stack st) (fun z => kvPhaseFor s.now z (tickOf (s.stack st) + 1)))) :=
  exec_stackRow rfl (kvPhase_due h)

theorem kvPhase_idle {now : Nat} {x : Stack} (h : ¬ phaseDue x) : kvPhase now x = x := if_neg (mt (phaseDue_iff x).mpr h)

/-- Settles O34: each row by the lemma of its case; the accesses that it waits for are those of `exec_kvMay`. -/
theorem kvPoolAgentsAndPhases : Obligations.KvPoolAgentsAndPhases := by
  intro s st
  refine ⟨fun r k started op => ⟨fun held => ?held, fun free bad => ?bad, fun free good => ?takes⟩,
    fun r => ⟨fun busy => ?waits, fun rec rest queued noneTaken room => ⟨fun outside => ?outside, fun inside waits => ?phase, fun above below acts => ?taken⟩⟩,
    fun due => ?due, fun notDue => ?notDue⟩
  case held => exact exec_kvPoolConfig started op (kvPoolConfig_held held)
  case bad => exact exec_kvPoolConfig started op (kvPoolConfig_bad free bad)
  case takes =>
    refine ⟨_, exec_kvMay (exec_kvPoolConfig started op (kvPoolConfig_takes free good)), fun z => ?_⟩
    have kept := poolTaken_keepsCoresRegs (word64At k.data 0) (word64At k.data 8) (poolClasses k) z
    exact ⟨poolTaken _ _ (poolClasses k) z, rfl, rfl, rfl, rfl, kept.cores.trans (poolLoaded_cores _ _ _ z), kept.regs⟩
  case waits => exact exec_stackRow rfl (agentTake_waits busy)
  case outside => exact exec_stackRow rfl ((agentTake_record queued noneTaken room).trans (if_pos outside))
  case phase =>
    obtain ⟨below, runs, configured⟩ := waits
    refine exec_stackRow rfl ((agentTake_record queued noneTaken room).trans ?_)
    exact (if_neg (by omega)).trans (if_pos ⟨decide_eq_true ⟨inside, below⟩, runs, configured⟩)
  case taken =>
    refine exec_stackRow rfl ((agentTake_record queued noneTaken room).trans ?_)
    refine (if_neg (by omega)).trans (if_neg fun phase => acts ?_)
    obtain ⟨inPhase, runs, configured⟩ := phase
    exact ⟨(of_decide_eq_true inPhase).2, runs, configured⟩
  case due =>
    have phase := exec_kvMay (exec_kvPhase_due due)
    exact phase
  case notDue => exact exec_stackRow_idle rfl (kvPhase_idle notDue)

end Sys2Proof.Machine
end

section
/-! PROOFS. An engine at work on its operation (O5) and the SX engine (O13): the acts that can be done, one by one, then the act that ends
the work or has to wait. -/

namespace Sys2Proof.Machine
open Sys2Proof

/-! ### The row of an operation -/

theorem exec_vxCommand (k : VxK) (a : CoreAt) (o : VxOp) (s : State) : exec (vxCommand k a o) s = vxRow k a o s := by
  cases k <;> rfl

theorem exec_sxCommand (k : SxK) (a : CoreAt) (o : SxOp) (s : State) : exec (sxCommand k a o) s = sxRow k a o s := by
  cases k <;> rfl

/-- The row of an operation runs it at its core. -/
theorem exec_opCommand {op : CoreOp} {a : CoreAt} {i : Instr} (h : opCommand op a = some i) (s : State) :
    exec i s = onSt s a.st (fun x => runOp s.now x a.c.val op) := by
  cases op with
  | vx k o =>
    cases h
    exact exec_vxCommand k a o s
  | sx k o =>
    cases h
    exact exec_sxCommand k a o s
  | drain _ | ldl _ | ldx _ | atom _ | stl _ | stx _ | send _ =>
    cases h
    rfl
  | pass _ | fx _ | seq _ => cases h

/-! ### Acts -/

section Acts
variable {now c n : Nat} {op : CoreOp} {x y z : Stack} {q r t : QEntry}

theorem actsAfter_append {m : Nat} (first : actsAfter now c op n x q = some (y, r)) (then_ : actsAfter now c op m y r = some (z, t)) :
    actsAfter now c op (n + m) x q = some (z, t) := by
  induction n generalizing x q with
  | zero =>
    cases first
    rw [Nat.zero_add, then_]
  | succ n ih =>
    rw [actsAfter] at first
    rw [Nat.succ_add, actsAfter]
    split at first
    next => exact ih first
    next => cases first

theorem actsAfter_one (act : engineAct now x c op q = .go y r) : actsAfter now c op 1 x q = some (y, r) := by
  rw [actsAfter, act]
  rfl

/-- An engine first does the acts that it can do. -/
theorem runActs_actsAfter {m : Nat} (h : actsAfter now c op n x q = some (y, r)) :
    runActs now c op (fun _ => false) (n + m) x q = runActs now c op (fun _ => false) m y r := by
  induction n generalizing x q with
  | zero =>
    cases h
    rw [Nat.zero_add]
  | succ n ih =>
    rw [actsAfter] at h
    rw [Nat.succ_add, runActs]
    split at h
    next act =>
      rw [act]
      exact ih h
    next => cases h

/-- What is left to an operation after the acts that it can do is the act at which it stops. -/
theorem runOp_actsAfter (started : startedOp x c op = some q) (run : (x.core c).run = .running) (fuel : n < actFuel)
    (acts : actsAfter now c op n x q = some (y, r)) : runOp now x c op = runActs now c op (fun _ => false) (actFuel - n - 1 + 1) y r := by
  have left : actFuel = n + (actFuel - n - 1 + 1) := by omega
  rw [runOp_started started run, ← runActs_actsAfter acts, ← left]

theorem runOp_done (started : startedOp x c op = some q) (run : (x.core c).run = .running) (fuel : n < actFuel)
    (acts : actsAfter now c op n x q = some (y, r)) (done : engineAct now y c op r = .done) :
    runOp now x c op = putOp y c (opEngine op) { r with done := true } := by
  rw [runOp_actsAfter started run fuel acts, runActs, done]

theorem runOp_waits {kind object : Nat} (started : startedOp x c op = some q) (run : (x.core c).run = .running) (fuel : n < actFuel)
    (acts : actsAfter now c op n x q = some (y, r)) (wait : engineAct now y c op r = .wait kind object) :
    runOp now x c op = putOp y c (opEngine op) r := by
  rw [runOp_actsAfter started run fuel acts, runActs, wait]

theorem runOp_idle (h : startedOp x c op = none ∨ (x.core c).run ≠ .running) : runOp now x c op = x := by
  unfold runOp
  split
  next started =>
    refine if_neg ?_
    simpa [started, coreRuns] using h
  next => rfl

end Acts

/-- Settles O5: the acts that can be done are done (`runActs_actsAfter`), then the next one ends the work or waits. -/
theorem engineWorksUntilItWaits : Obligations.EngineWorksUntilItWaits := by
  intro s a op i row
  refine ⟨fun q y r n started run fuel acts => ⟨fun done => ?_, fun kind object wait => ?_⟩, fun idle => ?_⟩
  · exact exec_stackRow (exec_opCommand row s) (runOp_done started run fuel acts done)
  · exact exec_stackRow (exec_opCommand row s) (runOp_waits started run fuel acts wait)
  · exact exec_stackRow_idle (exec_opCommand row s) (runOp_idle idle)

/-! ### SX: the scalars that are read (R178, R179, R224) -/

section Sx
variable {now c : Nat} {k : SxK} {o : SxOp} {x y z : Stack} {q : QEntry} {vs : List (Word × Bool)}

/-- An SX operation with the scalars `vs` read. -/
def withScalars (q : QEntry) (vs : List (Word × Bool)) : QEntry := { q with prog := { q.prog with scal := vs } }

theorem sxAct_reads {e : EndSpec} {v : Word × Bool} (open_ : q.prog.i ≠ 1) (next : (sxReads k o)[q.prog.scal.length]? = some e)
    (read : readScalar x c e o.imm = .go v y) : sxAct x c k o q = .go y (withScalars q (q.prog.scal ++ [v])) := by
  simp only [sxAct, if_neg open_, next, read, withScalars]

/-- The scalars still to read are read one by one, in order. -/
theorem actsAfter_readScalars {seen : List EndSpec} (open_ : q.prog.i ≠ 1) (es : List EndSpec) (ends : sxReads k o = seen ++ es)
    (count : q.prog.scal.length = seen.length) (read : readScalars c o.imm es x = some (vs, y)) :
    actsAfter now c (.sx k o) es.length x q = some (y, withScalars q (q.prog.scal ++ vs)) := by
  induction es generalizing x q vs seen with
  | nil =>
    cases read
    simp [actsAfter, withScalars]
  | cons e es ih =>
    rw [readScalars] at read
    split at read
    next v w first =>
      obtain ⟨⟨us, y'⟩, rest, pair⟩ := Option.map_eq_some_iff.mp read
      cases pair
      have act : sxAct x c k o q = .go w (withScalars q (q.prog.scal ++ [v])) :=
        sxAct_reads open_ (by simp [ends, count]) first
      have acts := ih (q := withScalars q (q.prog.scal ++ [v])) (seen := seen ++ [e]) open_ (by simp [ends]) (by simp [withScalars, count]) rest
      rw [List.length_cons, actsAfter, show engineAct now x c (.sx k o) q = _ from act]
      simpa [withScalars] using acts
    next => cases read

/-! ### SX: the act after the last scalar (R149, R224, R225) -/

/-- The stack with the head lines that an SX operation with LES popped from gone. -/
def headsEnded (c : Nat) (k : SxK) (o : SxOp) (x : Stack) : Stack := if o.les then (sxReads k o).foldl (fun x e => endHead x c e) x else x

/-- An SX operation whose result is pushed, or whose record is sent. -/
def withResult (q : QEntry) : QEntry := { q with prog := { q.prog with i := 1 } }

theorem noScalarLeft (all : q.prog.scal.length = (sxReads k o).length) : (sxReads k o)[q.prog.scal.length]? = none :=
  List.getElem?_eq_none (Nat.le_of_eq all.symm)

variable (open_ : q.prog.i ≠ 1) (all : q.prog.scal.length = (sxReads k o).length)
include open_ all

theorem sxAct_pushes {d : Fin 16} (computes : k ≠ .kvcmd) (dest : o.d = .push d)
    (push : pushScalar x c d.val (sxResult k o.imm (q.prog.scal.getD 0 (0, false)).1 (q.prog.scal.getD 1 (0, false)).1 (q.prog.scal.getD 2 (0, false)).1,
      q.prog.scal.any (fun e => e.2)) o.led = .go () y) :
    sxAct x c k o q = .go (headsEnded c k o y) (withResult q) := by
  simp only [sxAct, if_neg open_, noScalarLeft all, if_neg computes, dest, push, headsEnded, withResult]


theorem kvcmdAct_bites (bad : q.prog.scal.any (fun e => e.2) = true) (record : k = .kvcmd) :
    sxAct x c k o q = .go (biteCore (headsEnded c k o x) c .sx (qposOf (x.core c).sx q.uid) biteControl) (withResult q) := by
  simp only [sxAct, if_neg open_, noScalarLeft all, if_pos record, if_pos bad, headsEnded, withResult]

theorem kvcmdAct_sends (good : q.prog.scal.any (fun e => e.2) = false) (room : (x.row (coreRow c)).kvq.length < kvQueueSize) (record : k = .kvcmd) :
    sxAct x c k o q = .go (pushKv (headsEnded c k o x) (coreRow c) (kvRecord q.prog.scal)) (withResult q) := by
  simp only [sxAct, if_neg open_, noScalarLeft all, if_pos record, good, Bool.false_eq_true, if_false, if_pos room, headsEnded, withResult]

theorem kvcmdAct_waits (good : q.prog.scal.any (fun e => e.2) = false) (full : kvQueueSize ≤ (x.row (coreRow c)).kvq.length) (record : k = .kvcmd) :
    sxAct x c k o q = .wait 2 0xFF := by
  simp only [sxAct, if_neg open_, noScalarLeft all, if_pos record, good, Bool.false_eq_true, if_false, if_neg (Nat.not_lt.mpr full)]

omit open_ all in
theorem sxAct_done (h : q.prog.i = 1) : sxAct x c k o q = .done := if_pos h

end Sx

/-! ### SX: from the start to the end of an operation -/

section SxRun
variable {now c : Nat} {k : SxK} {o : SxOp} {x y z : Stack} {q : QEntry} {vs : List (Word × Bool)}

theorem readScalars_length {imm : BitVec 32} (es : List EndSpec) (read : readScalars c imm es x = some (vs, y)) : vs.length = es.length := by
  induction es generalizing x vs with
  | nil =>
    cases read
    rfl
  | cons e es ih =>
    rw [readScalars] at read
    split at read
    next =>
      obtain ⟨⟨us, y'⟩, rest, pair⟩ := Option.map_eq_some_iff.mp read
      cases pair
      rw [List.length_cons, List.length_cons, ih rest]
    next => cases read

theorem sxReads_length_le (k : SxK) (o : SxOp) : (sxReads k o).length ≤ 8 := by
  cases k <;> simp [sxReads]

/-- A fresh operation first reads all its scalars. -/
theorem actsAfter_sxReads (fresh : q.prog = {}) (read : readScalars c o.imm (sxReads k o) x = some (vs, y)) :
    actsAfter now c (.sx k o) (sxReads k o).length x q = some (y, withScalars q vs) := by
  have reads := actsAfter_readScalars (now := now) (q := q) (seen := []) (by simp [fresh]) (sxReads k o) rfl (by simp [fresh]) read
  rwa [show q.prog.scal ++ vs = vs by simp [fresh]] at reads

variable (started : startedOp x c (.sx k o) = some q) (run : (x.core c).run = .running) (fresh : q.prog = {})
  (read : readScalars c o.imm (sxReads k o) x = some (vs, y))
include started run fresh read

/-- Where the act after the last scalar gives the result, the operation is done. -/
theorem runOp_sx_ends (act : sxAct y c k o (withScalars q vs) = .go z (withResult (withScalars q vs))) :
    runOp now x c (.sx k o) = putOp z c .sx { q with prog := { scal := vs, i := 1 }, done := true } := by
  have acts := actsAfter_append (actsAfter_sxReads (now := now) fresh read) (actsAfter_one (op := .sx k o) act)
  have few := sxReads_length_le k o
  have done : sxAct z c k o (withResult (withScalars q vs)) = .done := sxAct_done rfl
  rw [runOp_done started run (by unfold actFuel; omega) acts done]
  simp [withScalars, withResult, fresh, opEngine]

theorem runOp_sx_waits {kind object : Nat} (wait : sxAct y c k o (withScalars q vs) = .wait kind object) :
    runOp now x c (.sx k o) = putOp y c .sx { q with prog := { scal := vs } } := by
  have few := sxReads_length_le k o
  rw [runOp_waits started run (by unfold actFuel; omega) (actsAfter_sxReads fresh read) wait]
  simp [withScalars, fresh, opEngine]

end SxRun

/-- Settles O13: the scalars are read, and the act after the last one is that of its case. -/
theorem sxComputesAndPushes : Obligations.SxComputesAndPushes := by
  constructor
  · intro s a k o q vs y z d run computes dest started fresh read v push
    have act := sxAct_pushes (q := withScalars q vs) (by simp [withScalars, fresh]) (readScalars_length _ read) computes dest push
    exact exec_stackRow (exec_sxCommand k a o s) (runOp_sx_ends started run fresh read act)
  · intro s a o q vs y run started fresh read r y'
    have open_ : (withScalars q vs).prog.i ≠ 1 := by simp [withScalars, fresh]
    have all : (withScalars q vs).prog.scal.length = (sxReads .kvcmd o).length := readScalars_length _ read
    refine ⟨fun bad => ?bites, fun good room => ?sends, fun good full => ?waits⟩
    case bites => exact exec_stackRow (exec_sxCommand .kvcmd a o s) (runOp_sx_ends started run fresh read (kvcmdAct_bites open_ all bad rfl))
    case sends => exact exec_stackRow (exec_sxCommand .kvcmd a o s) (runOp_sx_ends started run fresh read (kvcmdAct_sends open_ all good room rfl))
    case waits => exact exec_stackRow (exec_sxCommand .kvcmd a o s) (runOp_sx_waits started run fresh read (kvcmdAct_waits open_ all good full rfl))

end Sys2Proof.Machine
end

section
/-! PROOFS. The sequencer (O1, O2, O3): the instruction that it holds, the one that it fetches, and the value that it pops. -/

namespace Sys2Proof.Machine
open Sys2Proof

/-! ### A core read after it has been changed -/

/-- A core that differs from a core at reset is read as it was written. -/
theorem Stack.core_setCore_of_ne {x : Stack} {c : Nat} {k : Core} (h : k ≠ Core.reset) : (x.setCore c k).core c = k := by
  rw [Stack.core, Stack.setCore, tget, tset, if_neg h, tfind_tput_same, Option.getD_some]

/-! ### An instruction that the sequencer holds (Table 7.3) -/

section Held
variable {s : State} {a : CoreAt} {o : CoreOp} {i : Instr} {f : Stack → Stack} {y : Stack}

theorem seqHas_held (run : (s.coreAt a).run = .running) (held : (s.coreAt a).seqCur = some o) : seqHas (s.stack a.st) a.c.val o = true :=
  Bool.and_eq_true_iff.mpr ⟨decide_eq_true run, decide_eq_true held⟩

/-- The row of the instruction that the sequencer of a running core holds has its effect. -/
theorem exec_heldRow (hi : exec i s = onSt s a.st (fun x => if seqHas x a.c.val o then f x else x)) (run : (s.coreAt a).run = .running)
    (held : (s.coreAt a).seqCur = some o) (hf : f (s.stack a.st) = y) : exec i s = .next (s.setStack a.st y) :=
  exec_stackRow hi ((if_pos (seqHas_held run held)).trans hf)

end Held

/-! ### HALT (Table 6.8) -/

/-- A running core that has executed HALT is HALTED where nothing that was dispatched is left. -/
theorem tryHalt_halting {x : Stack} {c : Nat} (halting : (x.core c).halting = true) (run : (x.core c).run = .running) :
    tryHalt x c = x.onCore c (fun k => if coreIdle k then { k with run := .halted } else k) := by
  simp [tryHalt, Stack.onCore, halting, run]

/-! ### ENDLOOP and LOOP (R214) -/

section Loops
variable {x : Stack} {c : Nat}

theorem seqEndloop_returns {l : LoopFrame} {r : List LoopFrame} (loops : (x.core c).loops = l :: r) (turns : 1 < l.left) :
    seqEndloop x c = seqDone x c (fun k => { k with pc := l.body, loops := { l with left := l.left - 1 } :: r }) := by
  simp [seqEndloop, loops, turns]

theorem seqEndloop_closes {l : LoopFrame} {r : List LoopFrame} (loops : (x.core c).loops = l :: r) (last : l.left ≤ 1) :
    seqEndloop x c = seqDone x c (fun k => { k with loops := r }) := by
  simp [seqEndloop, loops, Nat.not_lt.mpr last]

theorem seqEndloop_none (loops : (x.core c).loops = []) : seqEndloop x c = stopSeq (raiseCore x c .seq 0 fSeqLoop) c := by
  simp [seqEndloop, loops]

theorem openLoop_bad {n : Int} {stop : Nat} (h : n < 0 ∨ 0xFFFFFFFF < n) : openLoop x c n stop = stopSeq (raiseCore x c .seq 0 fSeqLoop) c := if_pos h

theorem openLoop_skips {stop : Nat} : openLoop x c 0 stop = seqDone x c (fun k => { k with pc := stop + 16 }) := rfl

theorem openLoop_opens {n : Int} {stop : Nat} (good : ¬ (n < 0 ∨ 0xFFFFFFFF < n)) (turns : n ≠ 0) :
    openLoop x c n stop = seqDone x c (fun k => { k with loops := ⟨k.pc, stop, n.toNat⟩ :: k.loops }) :=
  (if_neg good).trans (if_neg turns)

theorem seqLoop_full {e : EndSpec} {count stop : Nat} {u : Upsets} (full : 4 ≤ (x.core c).loops.length) :
    seqLoop x c e count stop u = stopSeq (raiseCore x c .seq 0 fSeqLoop) c := if_pos full

theorem seqLoop_counts {count stop : Nat} {u : Upsets} (room : (x.core c).loops.length < 4) :
    seqLoop x c .none count stop u = openLoop x c count stop := (if_neg (Nat.not_le.mpr room)).trans (if_pos rfl)

end Loops

/-- Settles O1: what the held instruction makes of its core, row by row. -/
theorem sequencerRunsItsOwn : Obligations.SequencerRunsItsOwn := by
  refine ⟨fun s a run => ⟨fun held => ?nop, fun tag held => ?phase, fun t held => ?br,
    fun held => ⟨fun l r loops turns => ?again, fun l r loops last => ?last, fun loops => ?noLoop⟩,
    fun n stop u held => ⟨fun room turns => ?opens, fun room zero => ?skips, fun full => ?full⟩⟩, fun s a run held => ?halt⟩
  case nop => exact exec_heldRow rfl run held rfl
  case phase => exact exec_heldRow rfl run held rfl
  case br => exact exec_heldRow rfl run held rfl
  case again => exact exec_heldRow rfl run held (seqEndloop_returns loops turns)
  case last => exact exec_heldRow rfl run held (seqEndloop_closes loops last)
  case noLoop => exact exec_heldRow rfl run held (seqEndloop_none loops)
  case opens =>
    have turns' : n.toNat ≠ 0 := fun h => turns (BitVec.eq_of_toNat_eq h)
    have good : ¬ ((n.toNat : Int) < 0 ∨ 0xFFFFFFFF < (n.toNat : Int)) := by omega
    exact exec_heldRow rfl run held ((seqLoop_counts room).trans (openLoop_opens good (by omega)))
  case skips =>
    subst zero
    exact exec_heldRow rfl run held ((seqLoop_counts room).trans openLoop_skips)
  case full => exact exec_heldRow rfl run held (seqLoop_full full)
  case halt =>
    have core : ((seqDone (s.stack a.st) a.c.val (fun k => { k with halting := true })).core a.c.val)
        = { s.coreAt a with seqCur := none, halting := true } := Stack.core_setCore_of_ne (fun h => by cases congrArg Core.halting h)
    rw [exec_heldRow rfl run held (tryHalt_halting (by rw [core]) (by rw [core]; exact run))]
    simp [State.onCoreAt, State.onStack, seqDone]

/-! ### A value popped with a failing read (R170, R275) -/

/-- Core 0 whose sequencer holds a BRC on a queue that is empty. -/
def branchOnEmpty : State :=
  State.reset.onStack 0 (fun x => x.onCore 0 (fun k => { k with run := .running, seqCur := some (.seq (.brc (.pop 3) 16 true)) }))

/-- A first read of scratch line 0 of core 0 that fails its parity, and passes when it is repeated. -/
def scratchUpset : Upsets := [(scratchAddr 0 0 / 32, false)]

/-- The BRC waits and its read has raised nothing. -/
theorem branchOnEmpty_waits : exec (.brc ⟨0, 0⟩ (.pop 3) 16 true scratchUpset) branchOnEmpty = .next branchOnEmpty :=
  exec_stackRow_idle rfl (by decide +kernel)

/-- The failing read raises SRAM_REREAD. -/
theorem scratchUpset_raises : dqReady (applyUpsets (branchOnEmpty.stack 0) scratchUpset) 0 3 0 = false
    ∧ (branchOnEmpty.stack 0).bus.length = 0 ∧ (applyUpsets (branchOnEmpty.stack 0) scratchUpset).bus.length = 1 := by decide +kernel

/-- Refutes O2: a BRC on an empty queue whose read fails its parity. The statement has the failure take effect (SRAM_REREAD raised); the model
leaves the stack as it was until the value can be popped. -/
theorem not_sequencerPopsAValue : ¬ Obligations.SequencerPopsAValue := by
  intro h
  obtain ⟨branches, -⟩ := h branchOnEmpty ⟨0, 0⟩ 3 16 scratchUpset (by decide +kernel)
  obtain ⟨empty, quiet, raised⟩ := scratchUpset_raises
  have told : exec (.brc ⟨0, 0⟩ (.pop 3) 16 true scratchUpset) branchOnEmpty
      = .next (branchOnEmpty.setStack 0 (applyUpsets (branchOnEmpty.stack 0) scratchUpset)) :=
    (branches true (by decide +kernel)).trans (congrArg (fun x => Host.Outcome.next (branchOnEmpty.setStack 0 x)) (if_pos empty))
  have same := congrArg (fun t => (State.stack t 0).bus.length) (Host.Outcome.next.inj (branchOnEmpty_waits.symm.trans told))
  rw [State.stack_setStack_same, quiet, raised] at same
  cases same

/-! ### A fetch whose parity failures move the reading core (R170, R275) -/

/-- A granule of the scratch of core 1 whose repeated read fails too. -/
def neighbourUpset : Upsets := [(scratchAddr 1 0 / 32, true)]

/-- A stack whose table of registers is not in its canonical form: the row map of row 0 stands behind register 0x40100, where a read does not look
for it as long as that register is listed. Core 1 has migrated to a site beyond the die, whose pending failures that register would hold; one more
SRAM_POISON makes the site fail, the register reads its reset value and is listed no more, and the row map comes into view. Core 0 is to fetch
a poisoned word, with a check injected at the site that it has before. -/
def shadowedMap : State :=
  State.reset.setStack 0
    { (Stack.reset.onCore 0 (fun k => { k with run := .running, valid := 1 })).onCore 1 (fun k => { k with sramPoison := 3 }) with
      pstate := .running
      regs := [(rFltRowPend 8, setFld (resetValue (rFltRowPend 8)) 5 1 0), (rIdRowMap 0, 0)]
      mend := { Mend.reset with moved := [(1, 191)] }
      mem := [(imemAddr 0 132, 1)]
      marks := [(imemAddr 0 0 / 32, 1)]
      inject := [(checkerKey (haSite 2) 1, 1)] }

/-- The fetch reads at the site that core 0 has when the step begins, whose checker takes the injected check; after the upsets the core has
another site, whose checker has none. -/
theorem shadowedMap_moves : coreSite (shadowedMap.stack 0) 0 = 2 ∧ coreSite (applyUpsets (shadowedMap.stack 0) neighbourUpset) 0 = 3
    ∧ (fetchDispatch (shadowedMap.stack 0) 0 neighbourUpset).inject = [] := by decide +kernel

/-- Refutes O3: the checker of a fetch is that of the core's site, which the model reads as the step begins and the statement after the step's
parity failures. They differ in `shadowedMap`, whose registers are not in their canonical form (no hypothesis excludes that): the model takes the
injected check of site 2, the statement leaves it. -/
theorem not_fetchAndDispatch : ¬ Obligations.FetchAndDispatch := by
  intro h
  obtain ⟨-, poisoned, -⟩ := h shadowedMap ⟨0, 0⟩ neighbourUpset (by decide +kernel) (by decide +kernel)
  have told := poisoned (by decide +kernel) (by decide +kernel)
  have row : exec (.seqFetchDispatch ⟨0, 0⟩ neighbourUpset) shadowedMap
      = .next (shadowedMap.setStack 0 (fetchDispatch (shadowedMap.stack 0) 0 neighbourUpset)) := rfl
  have same := congrArg (fun t => (State.stack t 0).inject) (Host.Outcome.next.inj (row.symm.trans told))
  rw [State.stack_setStack_same, State.stack_setStack_same, shadowedMap_moves.2.2] at same
  exact absurd same (by decide +kernel)

end Sys2Proof.Machine
end

section
/-! PROOFS. Operations that start, and operations that free their entries (O4). -/

namespace Sys2Proof.Machine
open Sys2Proof

/-! ### ENGINE_OP_START (R172, R178, R180, R184, R64) -/

section Start
variable {now c : Nat} {x : Stack} {e : Engine} {u : Upsets} {q : QEntry} {op : CoreOp} {before : List QEntry}

/-- The stack after the parity check of the scratch line that an operation reads first, where its ends name one. -/
def firstLineRead (x : Stack) (c : Nat) (op : CoreOp) : Stack :=
  match firstLine x c op with
  | some l => injectSram x (haSite (coreSite x c)) 0 (scratchAddr c l / 32)
  | none => x

/-- Whether order, the exchange gate and the passes before it let the next operation start at a running core. -/
def startAllowed (x : Stack) (c : Nat) (q : QEntry) (op : CoreOp) (before : List QEntry) : Prop :=
  (x.core c).run = .running ∧ mayOverlap op before = true ∧ passHolds x c before = false ∧ (ldstX op = true → goReceived x q.tick = true)

theorem startAllowed_iff : startAllowed x c q op before
    ↔ ¬ (!coreRuns x c || !mayOverlap op before || passHolds x c before || (ldstX op && !goReceived x q.tick)) = true := by
  simp [startAllowed, coreRuns, and_assoc]

theorem startOp_marked (next : nextOp ((x.core c).queue e) = none) : startOp now x c e u = x := by
  rw [startOp, next]

variable (next : nextOp ((x.core c).queue e) = some (q, op, before))
include next

theorem startOp_held (held : ¬ startAllowed x c q op before) : startOp now x c e u = x := by
  rw [startAllowed_iff, not_not] at held
  simp only [startOp, next, held, if_true]

variable (allowed : startAllowed x c q op before)
include allowed

theorem startOp_aliases (aliases : opAliases x c op = true) :
    startOp now x c e u = putOp (raiseCore x c e (qposOf ((x.core c).queue e) q.uid) fDqAlias) c e { q with started := true, done := true } := by
  simp only [startOp, next, if_neg (startAllowed_iff.mp allowed), aliases, if_true]

theorem startOp_starts (clear : opAliases x c op = false) (ready : firstActReady now x c op q = true) :
    startOp now x c e u = putOp (firstLineRead (applyUpsets x u) c op) c e { q with started := true } := by
  have noAlias : ¬ opAliases x c op = true := by simp [clear]
  rw [startOp, next]
  exact (if_neg (startAllowed_iff.mp allowed)).trans ((if_neg noAlias).trans (if_pos ready))

theorem startOp_waits (clear : opAliases x c op = false) (unready : firstActReady now x c op q = false) : startOp now x c e u = x := by
  simp only [startOp, next, if_neg (startAllowed_iff.mp allowed), clear, unready, Bool.false_eq_true, if_false]

end Start

/-! ### ENGINE_OP_COMPLETE (R172, R230, Table 6.2, Table 6.8) -/

section Complete
variable {c : Nat} {x : Stack} {e : Engine} {q : QEntry}

theorem completeOp_idle (none_ : ((x.core c).queue e).find? entryComplete = none) : completeOp x c e = x := by
  simp [completeOp, none_]

/-- The stack with the entry of a completed operation gone. -/
def entryFreed (x : Stack) (c : Nat) (e : Engine) (q : QEntry) : Stack :=
  x.onCore c (fun k => k.setQueue e ((k.queue e).filter (fun y => decide (y.uid ≠ q.uid))))

theorem completeOp_frees (run : (x.core c).run = .running) (found : ((x.core c).queue e).find? entryComplete = some q) :
    completeOp x c e = tryHalt (if q.prog.missed = 0 then entryFreed x c e q
      else raise (entryFreed x c e q)
        { source := fMcPartial
          addr := haSite (coreSite (entryFreed x c e q) c)
          core := some c
          detail0 := q.prog.report
          detail1 := q.prog.missed.setWidth 64
          attributed := true
          qpos := qposOf ((x.core c).queue e) q.uid }) c := by
  have runs : coreRuns x c = true := decide_eq_true run
  rw [completeOp, if_pos runs, found]
  rfl

theorem tryHalt_eq (x : Stack) (c : Nat) :
    tryHalt x c = x.onCore c (fun k => if k.halting = true ∧ k.run = .running ∧ coreIdle k = true then { k with run := .halted } else k) := by
  simp only [tryHalt, Bool.and_eq_true, decide_eq_true_eq, and_assoc]

end Complete

/-- Settles O4: a start by what allows it, an end by the oldest completed entry. -/
theorem engineStartsAndFreesInOrder : Obligations.EngineStartsAndFreesInOrder := by
  refine ⟨fun s a e u => ⟨fun q op before next run order passes exchange => ?allowed, fun q first marker => ?marker,
    fun q op before next barred => ?barred⟩,
    fun s a e run => ⟨fun q found => ?frees, fun none_ => ?idle⟩⟩
  case allowed =>
    have allowed : startAllowed (s.stack a.st) a.c.val q op before := ⟨run, order, passes, exchange⟩
    refine ⟨fun aliases => ?_, fun clear ready => ?_, fun clear unready => ?_⟩
    · exact exec_stackRow rfl (startOp_aliases next allowed aliases)
    · exact exec_stackRow rfl (startOp_starts next allowed clear ready)
    · exact exec_stackRow_idle rfl (startOp_waits next allowed clear unready)
  case marker =>
    have none_ : nextOp ((s.coreAt a).queue e) = none := by simp [nextOp, first, marker]
    exact exec_stackRow_idle rfl (startOp_marked none_)
  case barred =>
    have held : ¬ startAllowed (s.stack a.st) a.c.val q op before := by
      rintro ⟨run, order, passes, exchange⟩
      rcases barred with stopped | unordered | waits | ⟨exchanges, closed⟩
      · exact stopped run
      · exact Bool.false_ne_true (unordered.symm.trans order)
      · exact Bool.false_ne_true (passes.symm.trans waits)
      · exact Bool.false_ne_true (closed.symm.trans (exchange exchanges))
    exact exec_stackRow_idle rfl (startOp_held next held)
  case frees => exact exec_stackRow rfl ((completeOp_frees run found).trans (tryHalt_eq _ _))
  case idle => exact exec_stackRow_idle rfl (completeOp_idle none_)

end Sys2Proof.Machine
end

section
/-! PROOFS. The FX engine (O20): the entries that join its queue with their gate markers, and the entries that complete. -/

namespace Sys2Proof.Machine
open Sys2Proof

/-! ### An entry that joins the queue (R183, R184, R188) -/

/-- The core with a held FX instruction placed at the tail of the FX queue. -/
def fxQueued (o : FxOp) (k : Core) : Core := { k with seqCur := none, fx := k.fx ++ [⟨k.uid, o, false⟩], uid := k.uid + 1 }

/-- The core with the gate marker of entry `u` at the tail of the queue of engine `g`, or with the sequencer. -/
def gateMarked (tick u : Nat) (g : Engine) (k : Core) : Core :=
  if g = .seq then { k with seqGate := some u } else k.setQueue g (k.queue g ++ [⟨u, none, false, false, tick, 0, {}, none⟩])

/-- What placing FX instruction `o` as entry `u` does at its core beside queueing it. -/
def fxMarked (tick u : Nat) (o : FxOp) (k : Core) : Core :=
  match o with
  | .wait _ _ g => gateMarked tick u g k
  | .waitc _ g => gateMarked tick u g k
  | .tickEnd => { k with seqHold := true }
  | _ => k

section Place
variable {x : Stack} {c : Nat} {o : FxOp}

theorem fxPlace_joins (held : seqHas x c (.fx o) = true) (room : dispatchRoom (x.core c) (.fx o) = true) :
    fxPlace x c o = x.onCore c (fun k => fxMarked (tickOf x) k.uid o (fxQueued o k)) := by
  rw [fxPlace, held, room]
  cases o with
  | wait _ _ g | waitc _ g => cases g <;> rfl
  | set _ _ | clr _ _ | signal _ _ _ | tickEnd => rfl

theorem fxPlace_full (full : dispatchRoom (x.core c) (.fx o) = false) : fxPlace x c o = x := by
  simp [fxPlace, full]

/-- A gate needs room for its marker in the queue of its engine. -/
theorem dispatchRoom_wait {k : Core} {f : Fin 128} {v : Bool} {g : Engine} (room : k.fx.length < queueSize)
    (free : g = .seq ∨ g ≠ .fx ∧ (k.queue g).length < queueSize) : dispatchRoom k (.fx (.wait f v g)) = true := by
  cases g <;> simp_all [dispatchRoom]

theorem dispatchRoom_waitc {k : Core} {f : Fin 128} {g : Engine} (room : k.fx.length < queueSize)
    (free : g = .seq ∨ g ≠ .fx ∧ (k.queue g).length < queueSize) : dispatchRoom k (.fx (.waitc f g)) = true :=
  dispatchRoom_wait (f := f) (v := true) room free

end Place

section PlaceRow
variable {s : State} {a : CoreAt} {o : FxOp} {i : Instr}

theorem exec_fxPlace (hi : exec i s = onSt s a.st (fun x => fxPlace x a.c.val o)) (run : (s.coreAt a).run = .running)
    (held : (s.coreAt a).seqCur = some (.fx o)) (room : dispatchRoom (s.coreAt a) (.fx o) = true) :
    exec i s = .next (s.onCoreAt a (fun k => fxMarked (tickOf (s.stack a.st)) k.uid o (fxQueued o k))) :=
  exec_stackRow hi (fxPlace_joins (seqHas_held run held) room)

end PlaceRow

/-! ### An entry that completes (R183, R186, R187, R188) -/

/-- The stack with FX entry `e` gone from the queue of its core, which may then be HALTED. -/
def fxGone (c : Nat) (e : FxEntry) (x : Stack) : Stack :=
  tryHalt (x.onCore c (fun k => { k with fx := k.fx.filter (fun r => decide (r.uid ≠ e.uid)) })) c

section Complete
variable {now c : Nat} {x y : Stack} {e : FxEntry}

theorem fxComplete_takes (run : (x.core c).run = .running) (effect : fxEffect now x c e = some y) : fxComplete now x c e = fxGone c e y := by
  have runs : coreRuns x c = true := decide_eq_true run
  rw [fxComplete, if_pos runs, effect]
  rfl

theorem fxComplete_waits (effect : fxEffect now x c e = none) : fxComplete now x c e = x := by
  simp [fxComplete, effect]

/-! Table 6.6: the effect of an entry, by its operation. -/

theorem fxEffect_wait {f : Fin 128} {v : Bool} {g : Engine} (op : e.op = .wait f v g) :
    fxEffect now x c e = if flagSeen now x c f.val = v then some (x.onCore c (fun k => releaseGate k g e.uid)) else none := by
  rw [fxEffect, op]

theorem fxEffect_waitc_local {f : Fin 128} {g : Engine} (op : e.op = .waitc f g) (local_ : f.val < 64) (seen : flagSeen now x c f.val = true)
    (first : waitcBeaten (x.core c) e f.val g = false) :
    fxEffect now x c e = if flagTaken now f.val (x.core c) = false
      then some ((x.onCore c (takeLocal now f.val)).onCore c (fun k => releaseGate k g e.uid)) else none := by
  simp [fxEffect, op, local_, seen, first]

theorem fxEffect_waitc_row {f : Fin 128} {g : Engine} (op : e.op = .waitc f g) (row : 64 ≤ f.val) (granted : e.granted = true) :
    fxEffect now x c e = some (x.onCore c (fun k => releaseGate k g e.uid)) := by
  simp [fxEffect, op, Nat.not_lt.mpr row, granted]

theorem fxEffect_set {f : Fin 128} {m : BitVec 6} (op : e.op = .set f m) :
    fxEffect now x c e = if afterDone (x.core c) m e.uid then some (writeFlag now x c f.val true) else none := by
  rw [fxEffect, op]

theorem fxEffect_clr {f : Fin 128} {m : BitVec 6} (op : e.op = .clr f m) :
    fxEffect now x c e = if afterDone (x.core c) m e.uid then some (writeFlag now x c f.val false) else none := by
  rw [fxEffect, op]

theorem fxEffect_signal {t : Nat} {g : Fin 64} {m : BitVec 6} (op : e.op = .signal t g m) (after : afterDone (x.core c) m e.uid = true)
    (stores : storesDone (x.core c) e.uid = true) :
    fxEffect now x c e = if signalTaken x t then some (x.onCore c (fun k => { k with signals := k.signals ++ [(t, g.val)] }))
      else some (raiseCore x c .fx ((x.core c).fx.findIdx (fun y => decide (y.uid = e.uid))) fSignalTarget) := by
  simp [fxEffect, op, after, stores]

theorem fxEffect_tickEnd (op : e.op = .tickEnd) :
    fxEffect now x c e = if allDone (x.core c) e.uid then some (x.onCore c (fun k => { k with tickEnd := true })) else none := by
  rw [fxEffect, op]

end Complete

section CompleteRow
variable {s : State} {a : CoreAt} {i : Fin 32} {e : FxEntry} {y : Stack}

theorem exec_fxEntryComplete (found : (s.coreAt a).fx[i.val]? = some e) (h : fxComplete s.now (s.stack a.st) a.c.val e = y) :
    exec (.fxEntryComplete a i) s = .next (s.setStack a.st y) := by
  refine exec_stackRow rfl ?_
  rw [show ((s.stack a.st).core a.c.val).fx[i.val]? = some e from found]
  exact h

/-- An entry whose condition holds takes its effect and is gone. -/
theorem exec_fxEntry_takes (found : (s.coreAt a).fx[i.val]? = some e) (run : (s.coreAt a).run = .running)
    (effect : fxEffect s.now (s.stack a.st) a.c.val e = some y) : exec (.fxEntryComplete a i) s = .next (s.setStack a.st (fxGone a.c.val e y)) :=
  exec_fxEntryComplete found (fxComplete_takes run effect)

theorem exec_fxEntry_waits (found : (s.coreAt a).fx[i.val]? = some e) (effect : fxEffect s.now (s.stack a.st) a.c.val e = none) :
    exec (.fxEntryComplete a i) s = .next s := by
  rw [exec_fxEntryComplete found (fxComplete_waits effect), State.setStack_self]

theorem tickEndComplete_finds {now c : Nat} {x : Stack} (found : (x.core c).fx.find? (fun y => decide (y.op = .tickEnd)) = some e) :
    tickEndComplete now x c = fxComplete now x c e := by
  rw [tickEndComplete, found]

end CompleteRow

/-- Settles O20: an entry joins by `fxPlace_joins`; one that completes takes the effect of its operation. -/
theorem fxEntriesJoinAndComplete : Obligations.FxEntriesJoinAndComplete := by
  constructor
  · intro s a run held room free placed marked
    have gateFree : ∀ g, free g = true → g = .seq ∨ g ≠ .fx ∧ ((s.coreAt a).queue g).length < queueSize := fun g h => by
      simpa [free, queueSize] using h
    have fxFree : room = true → (s.coreAt a).fx.length < queueSize := of_decide_eq_true
    refine ⟨fun f v g h r fr => ?_, fun f g h r fr => ?_, fun f m h r => ?_, fun f m h r => ?_, fun t f m h r => ?_, fun h r => ?_, fun f m h full => ?_⟩
    · exact exec_fxPlace rfl run h (dispatchRoom_wait (fxFree r) (gateFree g fr))
    · exact exec_fxPlace rfl run h (dispatchRoom_waitc (fxFree r) (gateFree g fr))
    · exact exec_fxPlace rfl run h r
    · exact exec_fxPlace rfl run h r
    · exact exec_fxPlace rfl run h r
    · exact exec_fxPlace rfl run h r
    · exact exec_stackRow_idle rfl (fxPlace_full full)
  · intro s a i e run found x c k gone
    refine ⟨fun f v g op => ⟨fun seen => ?_, fun unseen => ?_⟩, fun f g op local_ seen first => ⟨fun untaken => ?_, fun taken => ?_⟩,
      fun f g op row granted => ?_, fun f m op after => ?_, fun f m op after => ?_, fun f m op pending => ?_,
      fun t g m op after stores => ⟨fun taken => ?_, fun refused => ?_⟩, fun op first => ⟨fun all => ?_, fun pending => ?_⟩⟩
    · exact exec_fxEntry_takes found run ((fxEffect_wait op).trans (if_pos seen))
    · exact exec_fxEntry_waits found ((fxEffect_wait op).trans (if_neg unseen))
    · exact exec_fxEntry_takes found run ((fxEffect_waitc_local op local_ seen first).trans (if_pos untaken))
    · exact exec_fxEntry_waits found ((fxEffect_waitc_local op local_ seen first).trans (if_neg (ne_false_of_eq_true taken)))
    · exact exec_fxEntry_takes found run (fxEffect_waitc_row op row granted)
    · exact exec_fxEntry_takes found run ((fxEffect_set op).trans (if_pos after))
    · exact exec_fxEntry_takes found run ((fxEffect_clr op).trans (if_pos after))
    · rcases op with op | op
      · exact exec_fxEntry_waits found ((fxEffect_set op).trans (if_neg (ne_true_of_eq_false pending)))
      · exact exec_fxEntry_waits found ((fxEffect_clr op).trans (if_neg (ne_true_of_eq_false pending)))
    · exact exec_fxEntry_takes found run ((fxEffect_signal op after stores).trans (if_pos taken))
    · exact exec_fxEntry_takes found run ((fxEffect_signal op after stores).trans (if_neg (ne_true_of_eq_false refused)))
    · exact exec_stackRow rfl ((tickEndComplete_finds first).trans (fxComplete_takes run ((fxEffect_tickEnd op).trans (if_pos all))))
    · exact exec_stackRow_idle rfl ((tickEndComplete_finds first).trans (fxComplete_waits ((fxEffect_tickEnd op).trans (if_neg (ne_true_of_eq_false pending)))))

end Sys2Proof.Machine
end

section
/-! PROOFS. Accesses that are answered (O24): over a column, at a slice bank, at the top of a column. -/

namespace Sys2Proof.Machine
open Sys2Proof

/-! ### A transfer over a column (R241, R277, R278) -/

section Column
variable {now p fails : Nat} {x : Stack} {a : Access} {failing : BitVec 16}

/-- A transfer leaves its access the same one, for the same origin. -/
theorem columnTransfer_keeps : (columnTransfer now x p a fails failing).2.id = a.id ∧ (columnTransfer now x p a fails failing).2.origin = a.origin := by
  unfold columnTransfer
  dsimp only
  split <;> exact ⟨rfl, rfl⟩

/-- With fewer than four failed transmissions and none injected the line arrives as it was sent. -/
theorem columnTransfer_delivers (few : fails < 4)
    (noInject : tget (fun _ => 0) x.inject (checkerKey (haColumn p) (columnChecker (x.vault p).path (receivesTop x p a))) = 0) :
    (columnTransfer now x p a fails failing).2.result = a.result := by
  have fewer : ¬ fails ≥ 4 := Nat.not_le.mpr few
  simp only [columnTransfer, transferFails_told noInject (Nat.le_of_lt few), acceptedLine, fewer, false_and, if_false]

/-- Whether a transfer is answered when it leaves the column: a near-bank unit takes its own. -/
def answeredFromFlight (a : Access) : Bool := match a.origin with | .nbu _ _ => false | _ => true

/-- COLUMN_TRANSFER_DONE answers the oldest transfer. -/
theorem columnDone_answers (oldest : (x.vault p).flight.find? answeredFromFlight = some a) :
    columnDone now x p fails failing =
      let y := x.setVault p { x.vault p with flight := (x.vault p).flight.filter (fun r => decide (r.id ≠ a.id)) }
      let d := columnTransfer now y p a fails failing
      answerAccess now d.1 d.2 := by
  unfold columnDone
  dsimp only
  split
  next none_ => cases none_.symm.trans oldest
  next found =>
    cases found.symm.trans oldest
    rfl

end Column

/-! ### A slice bank (R250) -/

section Slice
variable {now c bank p : Nat} {x : Stack} {a : Access} {u : Upsets}

/-- An access performed keeps its rank at the bank. -/
theorem sliceRank_perform : sliceRank c (perform x p a).2 = sliceRank c a := by
  unfold perform
  dsimp only
  split
  · split <;> rfl
  · split <;> rfl

/-- The slice without access `a`, after the parity failures of the read. -/
def sliceRead (x : Stack) (c : Nat) (a : Access) (u : Upsets) : Stack :=
  injectSram (applyUpsets { x with slices := setListAt x.slices c ((listAt x.slices c).filter (fun r => decide (r.id ≠ a.id))) } u)
    (haSlice (coreSite x c)) 0 (a.addr / 32)

/-- The one access that waits at a bank is performed, and answered unless it is one of Ivton, which is answered at the top of its column. -/
theorem sliceGrant_performs (only : (listAt x.slices c).filter (fun r => decide (r.addr / 512 % 16 = bank)) = [a]) :
    sliceGrant x c bank u now =
      let d := perform (sliceRead x c a u) (coreSite x c) a
      if sliceRank c a = 2 then topPerformed d.1 d.2 else answerAccess now d.1 d.2 := by
  rw [sliceGrant, only]
  show (if sliceRank c (perform (sliceRead x c a u) (coreSite x c) a).2 = 2 then _ else _) = _
  rw [sliceRank_perform]
  rfl

end Slice

/-! ### The top of a column (R277, R392, R593) -/

section Top
variable {now id q fails : Nat} {x t : Stack} {a : Access} {u : Upsets} {failing : BitVec 16}

/-- The stack with access `id` gone from the top of its column. -/
def topGone (t : Stack) (id : Nat) : Stack := { t with topside := t.topside.filter (fun r => decide (r.id ≠ id)) }

/-- An access that its target has performed is answered after its transfer in the slot that it takes. -/
theorem topComplete_answers (found : x.topside.find? (fun r => decide (r.id = id)) = some a) (first : firstOfLine x x.topside a = true)
    (slot : topSlot now x a = some t) (performed : a.done = true) (site : routerSite (topGone t id) a.addr = some q) :
    topComplete now x id u fails failing =
      let d := columnTransfer now (topGone t id) q a fails failing
      answerAccess now d.1 d.2 := by
  have gone : routerSite { t with topside := t.topside.filter (fun r => decide (r.id ≠ id)) } a.addr = some q := site
  simp only [topComplete, found, first, slot, performed, gone, Bool.not_true, Bool.false_eq_true, if_false, if_true]
  rfl

end Top

/-- Settles O24: each row by the lemma of its case. -/
theorem accessesAreDelivered : Obligations.AccessesAreDelivered := by
  intro s p x v
  refine ⟨fun fails failing a oldest => ⟨?_, columnTransfer_keeps.1, columnTransfer_keeps.2, fun few noInject => ?_⟩, fun c b u a only => ?_, ?_⟩
  · exact exec_stackRow rfl (columnDone_answers oldest)
  · exact columnTransfer_delivers few noInject
  · exact exec_stackRow rfl (sliceGrant_performs only)
  · intro id a t q u fails failing found first slot performed gone site d
    have answers := topComplete_answers (u := u) (fails := fails.val) (failing := failing) found first slot performed site
    exact congrArg (fun y => Host.Outcome.next (settleControl (s.setStack p.st y) p.st)) answers

end Sys2Proof.Machine
end

section
/-! PROOFS. The commands of jobs and partitions (O44): the statuses of the other targets first, then the checks of each row in their order. -/

namespace Sys2Proof.Machine
open Sys2Proof

/-! ### A command that a target refuses (R428, R434, R442) -/

section Rows
variable {s : State} {st : StackIx} {r : CmdRef} {k : Cmd} {op : Nat} {i : Instr} {f : Cmd → State → State}

theorem exec_cmdAll {t : State} (hi : exec i s = onCmdAll s st r op f) (started : CmdStarted s st r op k) (hf : f k s = t) : exec i s = .next t := by
  rw [hi, onCmdAll_started f started, hf]

/-- A command carried out as one that a target refuses is answered with the status of the first that does. -/
theorem exec_asOne_refused {g : Cmd → State → State} {e : Nat} (hi : exec i s = onCmdAll s st r op (fun k t => asOne t st k (g k)))
    (started : CmdStarted s st r op k) (first : ((targets s st k).map (gate s st k)).find? (fun n => decide (n ≠ stOk)) = some e) :
    exec i s = .next (replyAll s st k e [] []) := by
  have status : gates s st k = e := by rw [gates, first, Option.getD_some]
  have bad : e ≠ stOk := by simpa using List.find?_some first
  exact exec_cmdAll hi started (asOne_refuses status bad)

/-- A command carried out as one that no target refuses has its effect. -/
theorem exec_asOne_agreed {g : Cmd → State → State} {t : State} (hi : exec i s = onCmdAll s st r op (fun k t => asOne t st k (g k)))
    (started : CmdStarted s st r op k) (agreed : gates s st k = stOk) (hg : g k s = t) : exec i s = .next t :=
  exec_cmdAll hi started ((asOne_acts agreed).trans hg)

/-- The commands that are carried out as one, with their opcodes. -/
def asOneRows (st : StackIx) (r : CmdRef) : List (Nat × Instr) :=
  [(0x0201, .jobAdmit st r), (0x0203, .jobStart st r), (0x0204, .jobAbort st r), (0x0205, .partitionSet st r), (0x0206, .partitionDisable st r),
    (0x0207, .partitionEnable st r)]

theorem exec_asOneRows_refused {e : Nat} (row : (k.op, i) ∈ asOneRows st r) (started : CmdStarted s st r k.op k)
    (first : ((targets s st k).map (gate s st k)).find? (fun n => decide (n ≠ stOk)) = some e) :
    exec i s = .next (replyAll s st k e [] []) := by
  simp only [asOneRows, List.mem_cons, Prod.mk.injEq, List.not_mem_nil, or_false] at row
  rcases row with ⟨op, rfl⟩ | ⟨op, rfl⟩ | ⟨op, rfl⟩ | ⟨op, rfl⟩ | ⟨op, rfl⟩ | ⟨op, rfl⟩ <;>
    exact exec_asOne_refused rfl (op ▸ started) first

theorem gate_eq (s : State) (st : StackIx) (k : Cmd) (i : StackIx) :
    let y := s.stack i
    gate s st k i = if i = st then stOk else if y.boot = .off then stState
      else if columnsHeld y = true ∨ busyFor y k.op = true then stBusy else if wrongFor y k.op = true then stState else stOk := by
  simp only [gate, Bool.or_eq_true]

end Rows

/-! ### LOAD_IMEM (R195 to R197, R439) -/

/-- An offset or a length that LOAD_IMEM does not take (R196). -/
abbrev imemBad (k : Cmd) : Prop :=
  (k.arg 0).toNat % 512 ≠ 0 ∨ k.data.length = 0 ∨ k.data.length % 16 ≠ 0
    ∨ imemLines (coreKind k.core) * 512 < (k.arg 0).toNat + k.data.length

section LoadImem
variable {s : State} {st : StackIx} {r : CmdRef} {k : Cmd} (started : CmdStarted s st r 0x0200 k)
include started

/-- LOAD_IMEM by its checks. -/
theorem exec_loadImem {t : State}
    (h : (if rowRetired (s.stack st) (coreRow k.core) = true then replyAll s st k stState [] []
      else if ((s.stack st).core k.core).run ≠ .halted ∨ ((s.stack st).core k.core).participating = true then replyAll s st k stImemBusy [] []
      else if imemBad k then replyAll s st k stInvalidParam [] []
      else replyAll (withdrawAll (s.setStack st (loadImem (s.stack st) k.core (k.arg 0).toNat (decide (k.flags % 2 = 1)) k.data)) st) st k stOk [] []) = t) :
    exec (.loadImem st r) s = .next t := by
  change execLoadImem st r s = _
  exact (onCmdAll_started _ started).trans (congrArg _ h)

end LoadImem

/-! ### JOB_ADMIT and DOMAIN_JOIN (R436 to R438) -/

theorem mem_partAll_of_mem_partStacks {s : State} {p : Nat} {i : StackIx} (h : i ∈ partStacks s p) : i ∈ partAll s p := by
  simp only [partStacks, List.mem_filter, Bool.and_eq_true] at h
  exact List.mem_filter.mpr ⟨h.1, h.2.1⟩

/-- A stack of the partition that is not IDLE or not READY is the first thing that JOB_ADMIT answers. -/
theorem admitStatus_state {s : State} {p : Nat} {data : List Byte} {i : StackIx} (mem : i ∈ partStacks s p)
    (unfit : (s.stack i).pstate ≠ .idle ∨ (s.stack i).boot ≠ .ready) : admitStatus s p data = some stState := by
  refine if_pos (List.any_eq_true.mpr ⟨i, mem_partAll_of_mem_partStacks mem, ?_⟩)
  rw [decide_eq_true unfit, Bool.true_or]

section Admit
variable {s : State} {st : StackIx} {r : CmdRef} {k : Cmd} (started : CmdStarted s st r 0x0201 k) (agreed : gates s st k = stOk)
include started agreed

theorem jobAdmit_refused {e : Nat} (status : admitStatus s k.part k.data = some e) :
    exec (.jobAdmit st r) s = .next (replyAll s st k e [] []) := by
  refine exec_asOne_agreed rfl started agreed ?_
  rw [status]

theorem jobAdmit_admits (status : admitStatus s k.part k.data = none) :
    exec (.jobAdmit st r) s = .next (replyAll (admitPorts (s.onStacks (partStacks s k.part) (admitStack k.data))) st k stOk [] []) := by
  refine exec_asOne_agreed rfl started agreed ?_
  rw [status]

end Admit

/-- DOMAIN_JOIN by its checks. -/
theorem exec_domainJoin {s : State} {st : StackIx} {r : CmdRef} {k : Cmd} {y : Stack} (started : CmdStarted s st r 0x0202 k)
    (h : (if (s.stack st).pstate ≠ .admitted ∨ (s.stack st).tick.joined = true then answerCmd s.now (s.stack st) k stState
      else if (joinMembers k).getD (k.arg 2).toNat 0xFFFF ≠ nodeId (s.stack st) then answerCmd s.now (s.stack st) k stInvalidParam
      else answerCmd s.now (joinDomain (s.stack st) (k.arg 0).toNat (k.arg 2).toNat (joinMembers k) (joinEntries k)) k stOk) = y) :
    exec (.domainJoin st r) s = .next (s.setStack st y) :=
  (onCmd_started _ started).trans (congrArg (fun z => Host.Outcome.next (s.setStack st z)) h)

/-! ### JOB_START and JOB_ABORT (R59, R70, R437, R439) -/

section Start
variable {s : State} {st : StackIx} {r : CmdRef} {k : Cmd}

/-- The stacks of the partition that have joined a domain. -/
def joinedStacks (s : State) (p : Nat) : List StackIx := (partStacks s p).filter (fun i => (s.stack i).tick.joined)

/-- Every stack of the partition is ADMITTED, and all or none have joined a domain. -/
def mayStart (s : State) (p : Nat) : Prop :=
  (∀ i ∈ partStacks s p, (s.stack i).pstate = .admitted)
    ∧ ((joinedStacks s p).length = 0 ∨ (joinedStacks s p).length = (partStacks s p).length)

/-- The stacks of the partition as a domain of their own. -/
def ownDomain (s : State) (p : Nat) : State :=
  (partStacks s p).zipIdx.foldl (fun t e => t.onStack e.1 (fun y => joinDomain y 0xFFFF e.2 ((partStacks s p).map (fun i => nodeId (s.stack i))) [])) s

theorem ownDomain_now (s : State) (p : Nat) : (ownDomain s p).now = s.now :=
  (State.Same.foldl _ (fun _ _ => onStack_same _ _ _) _ s).now

theorem mayStart_iff (s : State) (p : Nat) : mayStart s p
    ↔ ¬ ((partStacks s p).any (fun i => decide ((s.stack i).pstate ≠ .admitted)) = true
        ∨ (0 < (joinedStacks s p).length ∧ (joinedStacks s p).length < (partStacks s p).length)) := by
  have few : (joinedStacks s p).length ≤ (partStacks s p).length := List.length_filter_le _ _
  rw [not_or, mayStart]
  refine and_congr (by simp) ?_
  omega

variable (started : CmdStarted s st r 0x0203 k) (agreed : gates s st k = stOk)
include started agreed

theorem jobStart_refused (h : ¬ mayStart s k.part) : exec (.jobStart st r) s = .next (replyAll s st k stState [] []) := by
  rw [mayStart_iff, not_not] at h
  exact exec_asOne_agreed rfl started agreed (if_pos h)

theorem jobStart_starts (h : mayStart s k.part) :
    exec (.jobStart st r) s = .next (settleJob
      (((if (joinedStacks s k.part).length = 0 then ownDomain s k.part else s).onStack st (fun y => beginCmd y r)).onStacks
        (partStacks s k.part) (startMember s.now)) k.part) := by
  have now_ : (if (joinedStacks s k.part).length = 0 then ownDomain s k.part else s).now = s.now := by
    split
    · exact ownDomain_now s k.part
    · rfl
  refine exec_asOne_agreed rfl started agreed ((if_neg ((mayStart_iff s k.part).mp h)).trans ?_)
  rw [← now_]
  rfl

end Start

section Abort
variable {s : State} {st i : StackIx} {r : CmdRef} {k : Cmd} {rest : List StackIx} (started : CmdStarted s st r 0x0204 k) (agreed : gates s st k = stOk)
include started agreed

theorem jobAbort_none (none_ : partStacks s k.part = []) : exec (.jobAbort st r) s = .next (replyAll s st k stState [] []) := by
  refine exec_asOne_agreed rfl started agreed ?_
  rw [none_]

variable (members : partStacks s k.part = i :: rest)
include members

/-- JOB_ABORT of a partition with stacks by its checks. -/
theorem exec_jobAbort {t : State}
    (h : (if (s.stack i).pstate = .admitted then replyAll (withdrawAll s i) st k stOk [] []
      else if (partStacks s k.part).any (fun j => jobRuns (s.stack j)) = true then abortPart (s.onStack st (fun y => beginCmd y r)) i
      else replyAll s st k stState [] []) = t) :
    exec (.jobAbort st r) s = .next t := by
  refine exec_asOne_agreed rfl started agreed ?_
  rw [members] at h ⊢
  exact h

end Abort

/-! ### PARTITION_SET, PARTITION_DISABLE, PARTITION_ENABLE (R435, R440 to R443) -/

section Partition
variable {s : State} {st i : StackIx} {r : CmdRef} {k : Cmd} {rest : List StackIx}

theorem partitionDisable_none (started : CmdStarted s st r 0x0206 k) (agreed : gates s st k = stOk) (none_ : partStacks s k.part = []) :
    exec (.partitionDisable st r) s = .next (replyAll s st k stState [] []) := by
  refine exec_asOne_agreed rfl started agreed ?_
  rw [none_]

/-- The stacks with their partitions, and with which of those are DISABLED, as the map of PARTITION_SET gives them. -/
def partitionsSet (s : State) (map : List Nat) : State :=
  let off := (map.zip allStacks).filter (fun e => decide ((s.stack e.2).pstate = .disabled))
  (map.zip allStacks).foldl (fun t e => t.onStack e.2
    (fun y => { y with part := e.1, pstate := if off.any (fun d => decide (d.1 = e.1)) then .disabled else .idle })) s

/-- PARTITION_SET by its checks. -/
theorem exec_partitionSet {t : State} (started : CmdStarted s st r 0x0205 k) (agreed : gates s st k = stOk)
    (h : (if licensedParts (s.stack st) < (mapParts (k.arg 0).toNat).foldl max 0 + 1 then replyAll s st k stNotLicensed [] []
      else if allStacks.any (fun i => jobHeld (s.stack i)) = true then replyAll s st k stState [] []
      else replyAll (partitionsSet s (mapParts (k.arg 0).toNat)) st k stOk [] []) = t) :
    exec (.partitionSet st r) s = .next t :=
  exec_asOne_agreed rfl started agreed h

/-- PARTITION_ENABLE by its checks. -/
theorem exec_partitionEnable {t : State} (started : CmdStarted s st r 0x0207 k) (agreed : gates s st k = stOk)
    (h : (if (partStacks s k.part).any (fun i => decide ((s.stack i).pstate = .disabling)) = true then replyAll s st k stBusy [] []
      else if partStacks s k.part = [] ∨ (partStacks s k.part).any (fun i => decide ((s.stack i).pstate ≠ .disabled)) = true
        then replyAll s st k stState [] []
      else replyAll (s.onStacks (partStacks s k.part) (fun y => { y with pstate := .idle })) st k stOk [] []) = t) :
    exec (.partitionEnable st r) s = .next t :=
  exec_asOne_agreed rfl started agreed h

theorem any_disabling_iff {l : List StackIx} :
    l.any (fun i => decide ((s.stack i).pstate = .disabling)) = true ↔ ∃ i ∈ l, (s.stack i).pstate = .disabling := by
  simp only [List.any_eq_true, decide_eq_true_eq]

theorem enableBarred_iff {l : List StackIx} :
    (l = [] ∨ l.any (fun i => decide ((s.stack i).pstate ≠ .disabled)) = true) ↔ ¬ (l ≠ [] ∧ ∀ i ∈ l, (s.stack i).pstate = .disabled) := by
  rw [not_and_or, not_not]
  simp

/-- The partition DISABLING, with the command begun whose answer waits for its end. -/
def disabling (s : State) (st i : StackIx) (k : Cmd) (all : Bool) : State :=
  beginAll ((withdrawAll s i).onStacks (partStacks s k.part) (fun y => { y with pstate := .disabling, immediate := y.immediate || all })) st k

/-- A graceful PARTITION_DISABLE by its checks. -/
theorem exec_partitionDisable_graceful {t : State} (started : CmdStarted s st r 0x0206 k) (agreed : gates s st k = stOk)
    (members : partStacks s k.part = i :: rest) (graceful : ¬ k.flags % 2 = 1)
    (h : (if (s.stack i).pstate = .disabling ∨ (s.stack i).pstate = .disabled then replyAll s st k stState [] []
      else if (partStacks s k.part).any (fun j => jobRuns ((withdrawAll s i).stack j)) = true then settleJob (disabling s st i k false) k.part
      else replyAll ((withdrawAll s i).onStacks (partStacks s k.part) (fun y => { y with pstate := .disabled })) st k stOk [0] []) = t) :
    exec (.partitionDisable st r) s = .next t := by
  refine exec_asOne_agreed rfl started agreed (Eq.trans ?_ h)
  by_cases busy : (i :: rest).any (fun j => jobRuns ((withdrawAll s i).stack j)) = true
  · simp [members, graceful, disabling, busy]
  · simp [members, graceful, busy]

/-- An immediate PARTITION_DISABLE ends what runs. -/
theorem partitionDisable_immediate (started : CmdStarted s st r 0x0206 k) (agreed : gates s st k = stOk) (members : partStacks s k.part = i :: rest)
    (immediate : k.flags % 2 = 1) :
    exec (.partitionDisable st r) s = .next (settleJob (abortPart (disabling s st i k true) i) k.part) := by
  refine exec_asOne_agreed rfl started agreed ?_
  simp [members, immediate, disabling]

end Partition

/-- Settles O44: each command by its checks in their order. -/
theorem jobAndPartitionCommands : Obligations.JobAndPartitionCommands := by
  intro s st r k x sts begin_ refuse agreed
  have noneRuns : ∀ {t : State}, (∀ j ∈ sts, jobRuns (t.stack j) = false) → ¬ sts.any (fun j => jobRuns (t.stack j)) = true := fun rests =>
    ne_true_of_eq_false (List.any_eq_false.mpr fun j mem => ne_true_of_eq_false (rests j mem))
  refine ⟨⟨fun i e row started first => exec_asOneRows_refused row started first, gate_eq s st k, rfl⟩, ?loadImem, ?jobAdmit, ?domainJoin, ?jobStart,
    ?jobAbort, ?partitionSet, ?partitionDisable, ?partitionEnable⟩
  case loadImem =>
    intro started o n bad retired running
    refine ⟨fun lost => ?_, fun whole runs => ?_, fun whole rests wrong => ?_, fun whole rests good => ?_⟩
    · exact exec_loadImem started (if_pos lost)
    · exact exec_loadImem started ((if_neg whole).trans (if_pos runs))
    · exact exec_loadImem started ((if_neg whole).trans ((if_neg rests).trans (if_pos wrong)))
    · exact exec_loadImem started ((if_neg whole).trans ((if_neg rests).trans (if_neg good)))
  case jobAdmit =>
    intro started agrees
    refine ⟨fun i mem unfit => ?_, fun e status => ?_, fun passes => ?_⟩
    · exact jobAdmit_refused started agrees (admitStatus_state mem unfit)
    · exact jobAdmit_refused started agrees status
    · exact jobAdmit_admits started agrees passes
  case domainJoin =>
    intro started ix say
    have mayJoin : x.pstate = .admitted → x.tick.joined = false → ¬ (x.pstate ≠ .admitted ∨ x.tick.joined = true) := fun admitted alone h =>
      h.elim (fun other => other admitted) (ne_true_of_eq_false alone)
    refine ⟨fun barred => ?_, fun admitted alone other => ?_, fun admitted alone own => ?_⟩
    · exact exec_domainJoin started (if_pos barred)
    · exact exec_domainJoin started ((if_neg (mayJoin admitted alone)).trans (if_pos other))
    · exact exec_domainJoin started ((if_neg (mayJoin admitted alone)).trans (if_neg (not_not.mpr own)))
  case jobStart =>
    intro started agrees joined ready
    refine ⟨fun barred => jobStart_refused started agrees barred, fun may some_ => ?_, ?_⟩
    · have joins : ¬ (joinedStacks s k.part).length = 0 := mt List.length_eq_zero_iff.mp some_
      rw [jobStart_starts started agrees may, if_neg joins]
    · intro may none_ nodes t
      have joins : (joinedStacks s k.part).length = 0 := List.length_eq_zero_iff.mpr none_
      rw [jobStart_starts started agrees may, if_pos joins]
      rfl
  case jobAbort =>
    intro started agrees
    refine ⟨fun none_ => jobAbort_none started agrees none_, fun i rest members => ⟨fun admitted => ?_, fun other runs => ?_, fun other rests => ?_⟩⟩
    · exact exec_jobAbort started agrees members (if_pos admitted)
    · exact exec_jobAbort started agrees members ((if_neg other).trans (if_pos (List.any_eq_true.mpr runs)))
    · exact exec_jobAbort started agrees members ((if_neg other).trans (if_neg (noneRuns rests)))
  case partitionSet =>
    intro started agrees map used busy off
    refine ⟨fun unlicensed => ?_, fun licensed held => ?_, fun licensed free => ?_⟩
    · exact exec_partitionSet started agrees (if_pos unlicensed)
    · exact exec_partitionSet started agrees ((if_neg (Nat.not_lt.mpr licensed)).trans (if_pos (List.any_eq_true.mpr held)))
    · exact exec_partitionSet started agrees ((if_neg (Nat.not_lt.mpr licensed)).trans (if_neg (mt List.any_eq_true.mp free)))
  case partitionDisable =>
    intro started agrees now_
    refine ⟨fun none_ => partitionDisable_none started agrees none_, ?_⟩
    intro i rest members t begun
    refine ⟨fun graceful off => ?_, fun graceful going on => ⟨fun rests => ?_, fun runs => ?_⟩, fun immediate => ?_⟩
    · exact exec_partitionDisable_graceful started agrees members graceful (if_pos off)
    · exact exec_partitionDisable_graceful started agrees members graceful ((if_neg (not_or.mpr ⟨going, on⟩)).trans (if_neg (noneRuns rests)))
    · exact exec_partitionDisable_graceful started agrees members graceful
        ((if_neg (not_or.mpr ⟨going, on⟩)).trans (if_pos (List.any_eq_true.mpr runs)))
    · exact partitionDisable_immediate started agrees members immediate
  case partitionEnable =>
    intro started agrees off disabling_
    refine ⟨fun going => ?_, fun settled on => ?_, fun allOff => ?_⟩
    · exact exec_partitionEnable started agrees (if_pos (any_disabling_iff.mpr going))
    · exact exec_partitionEnable started agrees ((if_neg (mt any_disabling_iff.mp settled)).trans (if_pos (enableBarred_iff.mpr on)))
    · have settled : ¬ ∃ i ∈ sts, (s.stack i).pstate = .disabling := by
        rintro ⟨i, mem, going⟩
        cases (allOff.2 i mem).symm.trans going
      exact exec_partitionEnable started agrees ((if_neg (mt any_disabling_iff.mp settled)).trans (if_neg (mt enableBarred_iff.mp (not_not.mpr allOff))))

end Sys2Proof.Machine
end

section
/-! PROOFS. DRAIN and VX on one line (O9, O10): the acts that an engine does from the start of an operation to its end. -/

namespace Sys2Proof.Machine
open Sys2Proof

/-! ### Acts within a bound -/

/-- From `x` and entry `q` an engine comes to `y` and entry `r` in at most `n` acts. -/
def ActsWithin (now c : Nat) (op : CoreOp) (n : Nat) (x : Stack) (q : QEntry) (y : Stack) (r : QEntry) : Prop :=
  ∃ m ≤ n, actsAfter now c op m x q = some (y, r)

section Within
variable {now c n m : Nat} {op : CoreOp} {x y z : Stack} {q r t : QEntry}

theorem ActsWithin.refl : ActsWithin now c op n x q x q := ⟨0, Nat.zero_le n, rfl⟩

theorem ActsWithin.one (act : engineAct now x c op q = .go y r) : ActsWithin now c op 1 x q y r := ⟨1, Nat.le_refl 1, actsAfter_one act⟩

theorem ActsWithin.trans (first : ActsWithin now c op n x q y r) (then_ : ActsWithin now c op m y r z t) : ActsWithin now c op (n + m) x q z t := by
  obtain ⟨i, hi, first⟩ := first
  obtain ⟨j, hj, then_⟩ := then_
  exact ⟨i + j, Nat.add_le_add hi hj, actsAfter_append first then_⟩

theorem ActsWithin.mono (le : n ≤ m) (acts : ActsWithin now c op n x q y r) : ActsWithin now c op m x q y r := by
  obtain ⟨i, hi, acts⟩ := acts
  exact ⟨i, hi.trans le, acts⟩

theorem runOp_within_done (started : startedOp x c op = some q) (run : (x.core c).run = .running) (acts : ActsWithin now c op n x q y r)
    (fuel : n < actFuel) (done : engineAct now y c op r = .done) : runOp now x c op = putOp y c (opEngine op) { r with done := true } := by
  obtain ⟨m, hm, acts⟩ := acts
  exact runOp_done started run (Nat.lt_of_le_of_lt hm fuel) acts done

theorem runOp_within_waits {kind object : Nat} (started : startedOp x c op = some q) (run : (x.core c).run = .running)
    (acts : ActsWithin now c op n x q y r) (fuel : n < actFuel) (wait : engineAct now y c op r = .wait kind object) :
    runOp now x c op = putOp y c (opEngine op) r := by
  obtain ⟨m, hm, acts⟩ := acts
  exact runOp_waits started run (Nat.lt_of_le_of_lt hm fuel) acts wait

/-- Where one act writes the next line of what an entry holds, so many acts write all of it: `entry j els` is the entry with `j` lines written and the elements
`els` left. -/
theorem actsWithin_writeLines {e : EndSpec} {f : Fmt} {entry : Nat → List (Nat × Bool) → QEntry} {j : Nat} {els : List (Nat × Bool)}
    (act : ∀ i els x y, els ≠ [] → writeEnd x c e i (packLine f (els.take (fmtPerLine f))) = .go () y →
      engineAct now x c op (entry i els) = .go y (entry (i + 1) (els.drop (fmtPerLine f))))
    (write : writeLines c e f j n els x = some y) : ∃ i, ActsWithin now c op n x (entry j els) y (entry i []) := by
  induction n generalizing j els x with
  | zero =>
    obtain ⟨rfl, none_⟩ := Option.ite_none_right_eq_some.mp write
    cases none_
    exact ⟨j, .refl⟩
  | succ n ih =>
    rw [writeLines] at write
    split at write
    next none_ =>
      cases write
      exact ⟨j, none_ ▸ .refl⟩
    next some_ =>
      split at write
      next line =>
        obtain ⟨i, acts⟩ := ih write
        exact ⟨i, Nat.add_comm 1 n ▸ .trans (.one (act j els _ _ some_ line)) acts⟩
      next => cases write

end Within

/-- An entry with the operand lines `ls` read. -/
def withLines (q : QEntry) (ls : List Line) : QEntry := { q with prog := { q.prog with got := q.prog.got ++ ls } }

theorem withLines_nil (q : QEntry) : withLines q [] = q := by
  rw [withLines, List.append_nil]

theorem withLines_cons (q : QEntry) (l : Line) (ls : List Line) : withLines (withLines q [l]) ls = withLines q (l :: ls) := by
  simp [withLines]

/-- An entry with `j` lines written and the elements `els` still to write. -/
def withOutput (q : QEntry) (j : Nat) (els : List (Nat × Bool)) : QEntry := { q with prog := { q.prog with buf := els, out := j } }

/-- Every format has at least 128 elements to a line (Table 3.2). -/
theorem fmtPerLine_ge (f : Fmt) : 128 ≤ fmtPerLine f := by
  cases f <;> decide

theorem fmtPerLine_pos (f : Fmt) : 0 < fmtPerLine f := Nat.lt_of_lt_of_le (by decide) (fmtPerLine_ge f)

theorem fmtPerLine_ne_zero (f : Fmt) : fmtPerLine f ≠ 0 := Nat.ne_of_gt (fmtPerLine_pos f)

/-! ### DRAIN (R100, R218) -/

section Drain
variable {now c : Nat} {o : DrainOp} {x y z : Stack} {q : QEntry} {l : Line}

/-- The source and the target format of a DRAIN. -/
def drainSrc (o : DrainOp) : Fmt := if o.t then .int32 else .fp32
def drainTgt (o : DrainOp) : Fmt := (fmtOf o.ofmt.toNat).getD .fp32

/-- The elements that a DRAIN makes of its next line. -/
def drainEls (x : Stack) (c : Nat) (o : DrainOp) (q : QEntry) (l : Line) : List (Nat × Bool) :=
  cvtEls (srOf x c o.rnd q) (drainSrc o) (drainTgt o) o.sat q.prog.elem (lineEls (drainSrc o) l)

/-- A DRAIN that has read and converted a line. -/
def drainRead (x : Stack) (c : Nat) (o : DrainOp) (q : QEntry) (l : Line) : QEntry :=
  { q with prog := { q.prog with i := q.prog.i + 1, elem := q.prog.elem + 128, buf := drainEls x c o q l } }

theorem cvtEls_length (s : SrCtx) (src tgt : Fmt) (sat : Bool) (i : Nat) (els : List (Nat × Bool)) :
    (cvtEls s src tgt sat i els).length = els.length := by
  induction els generalizing i with
  | nil => rfl
  | cons e r ih => rw [cvtEls, List.length_cons, ih, List.length_cons]

theorem drainEls_length : (drainEls x c o q l).length = 128 := by
  rw [drainEls, cvtEls_length, lineEls, List.length_map, List.length_range, drainSrc]
  cases o.t <;> rfl

theorem drainAct_reads (left : q.prog.i < o.n.toNat + 1) (empty : q.prog.buf = []) (read : readEnd x c o.a q.prog.i = .go l y) :
    drainAct x c o q = .go y (drainRead y c o q l) := by
  have room : ¬ fmtPerLine ((fmtOf o.ofmt.toNat).getD .fp32) ≤ 0 := Nat.not_le.mpr (fmtPerLine_pos _)
  simp [drainAct, empty, room, Nat.not_le.mpr left, read, drainRead, drainEls, drainSrc, drainTgt]

theorem drainAct_writes (last : o.n.toNat + 1 ≤ q.prog.i) (some_ : q.prog.buf ≠ []) (fits : q.prog.buf.length ≤ fmtPerLine (drainTgt o))
    (write : writeEnd x c o.d q.prog.out (packLine (drainTgt o) q.prog.buf) = .go () y) :
    drainAct x c o q = .go y (withOutput q (q.prog.out + 1) []) := by
  rw [drainTgt] at write fits
  have due : fmtPerLine ((fmtOf o.ofmt.toNat).getD .fp32) ≤ q.prog.buf.length ∨ (o.n.toNat + 1 ≤ q.prog.i ∧ q.prog.buf ≠ []) := .inr ⟨last, some_⟩
  simp only [drainAct, ge_iff_le, if_pos due, List.take_of_length_le fits, List.drop_of_length_le fits, write, withOutput]

theorem drainAct_done (last : o.n.toNat + 1 ≤ q.prog.i) (empty : q.prog.buf = []) : drainAct x c o q = .done := by
  have room : ¬ fmtPerLine ((fmtOf o.ofmt.toNat).getD .fp32) ≤ 0 := Nat.not_le.mpr (fmtPerLine_pos _)
  simp [drainAct, empty, room, last]

theorem runOp_drain_oneLine (started : startedOp x c (.drain o) = some q) (run : (x.core c).run = .running) (fresh : q.prog = {}) (one : o.n = 0)
    (read : readEnd x c o.a 0 = .go l y) (write : writeEnd y c o.d 0 (packLine (drainTgt o) (drainEls y c o q l)) = .go () z) :
    ∃ pr : Prog, runOp now x c (.drain o) = putOp z c .mx { q with prog := pr, done := true } := by
  have reads : drainAct x c o q = .go y (drainRead y c o q l) := drainAct_reads (by simp [fresh]) (by simp [fresh]) (by rw [fresh]; exact read)
  have last : o.n.toNat + 1 ≤ (drainRead y c o q l).prog.i := by simp [drainRead, one]
  have some_ : (drainRead y c o q l).prog.buf ≠ [] := List.ne_nil_of_length_pos (by simp [drainRead, drainEls_length])
  have writes := drainAct_writes last some_ (drainEls_length.trans_le (fmtPerLine_ge _)) (by simpa [drainRead, fresh] using write)
  have acts := ActsWithin.trans (.one (now := now) (op := .drain o) reads) (.one writes)
  have ran := runOp_within_done started run acts (by decide) (drainAct_done last rfl)
  exact ⟨_, ran⟩

end Drain

/-- Settles O9: the line is read and converted, written, and nothing is left. -/
theorem drainConvertsALine : Obligations.DrainConvertsALine := by
  intro s a o q l y z run started fresh one read src tgt write
  have conv : drainEls y a.c.val o q l = cvtEls (srOf y a.c.val o.rnd q) src tgt o.sat 0 (lineEls src l) := by
    rw [drainEls, fresh]
    rfl
  obtain ⟨pr, ran⟩ := runOp_drain_oneLine (now := s.now) started run fresh one read (conv ▸ write)
  exact ⟨pr, exec_stackRow rfl ran⟩


/-! ### VX: one act (R176, R178, R222) -/

section Vx
variable {now c : Nat} {k : VxK} {o : VxOp} {x y z : Stack} {q : QEntry} {l : Line}

/-- An entry with `j` scale lines written and the scales `els` still to write. -/
def withScales (q : QEntry) (j : Nat) (els : List (Nat × Bool)) : QEntry := { q with prog := { q.prog with sbuf := els, sout := j } }

/-- A reduction with its lanes set. -/
def withLanes (q : QEntry) (lanes : List (BitVec 32 × Bool)) : QEntry := { q with prog := { q.prog with lanes := lanes, got := [] } }

section Collects
variable (left : q.prog.i < o.n.toNat + 1) (noEls : q.prog.buf = []) (noScales : q.prog.sbuf = [])
include left noEls noScales

theorem vxAct_takesLanes (reduces : vxShape k = .reduce) (unset : q.prog.lanes = []) (pair : o.b = .none ∨ q.prog.got.length = 2) :
    vxAct x c k o q = .go x (withLanes q (vxLanes k o q.prog.got)) := by
  simp [vxAct, noEls, noScales, Nat.not_le.mpr left, fmtPerLine_ne_zero, reduces, unset, pair, withLanes]

theorem vxAct_readsCarried (reduces : vxShape k = .reduce) (unset : q.prog.lanes = []) (carried : o.b ≠ .none) (more : q.prog.got.length ≠ 2)
    (read : readEnd x c o.b q.prog.got.length = .go l y) : vxAct x c k o q = .go y (withLines q [l]) := by
  simp [vxAct, noEls, noScales, Nat.not_le.mpr left, fmtPerLine_ne_zero, reduces, unset, carried, more, read, withLines]

variable (ready : vxShape k = .reduce → q.prog.lanes ≠ [])
include ready

theorem vxAct_reads {e : EndSpec} (next : (vxReads k o)[q.prog.got.length]? = some e) (read : readEnd x c e q.prog.i = .go l y) :
    vxAct x c k o q = .go y (withLines q [l]) := by
  have set_ : ¬ (vxShape k = .reduce ∧ q.prog.lanes = []) := fun h => ready h.1 h.2
  simp [vxAct, noEls, noScales, Nat.not_le.mpr left, fmtPerLine_ne_zero, set_, next, read, withLines]

theorem vxAct_works (all : q.prog.got.length = (vxReads k o).length) :
    vxAct x c k o q = .go (vxWork x c k o q).1 (vxWork x c k o q).2 := by
  have set_ : ¬ (vxShape k = .reduce ∧ q.prog.lanes = []) := fun h => ready h.1 h.2
  simp [vxAct, noEls, noScales, Nat.not_le.mpr left, fmtPerLine_ne_zero, set_, all]

end Collects

section Ends
variable (last : o.n.toNat + 1 ≤ q.prog.i)
include last

theorem vxAct_writes (some_ : q.prog.buf ≠ [])
    (write : writeEnd x c o.d q.prog.out (packLine (vxOutFmt k o) (q.prog.buf.take (fmtPerLine (vxOutFmt k o)))) = .go () y) :
    vxAct x c k o q = .go y (withOutput q (q.prog.out + 1) (q.prog.buf.drop (fmtPerLine (vxOutFmt k o)))) := by
  simp [vxAct, last, some_, write, withOutput]

variable (noEls : q.prog.buf = [])
include noEls

theorem vxAct_writesScales (some_ : q.prog.sbuf ≠ [])
    (write : writeEnd x c o.c q.prog.sout (packLine .int8 (q.prog.sbuf.take (fmtPerLine .int8))) = .go () y) :
    vxAct x c k o q = .go y (withScales q (q.prog.sout + 1) (q.prog.sbuf.drop (fmtPerLine .int8))) := by
  rw [show fmtPerLine .int8 = 512 from rfl] at write
  simp [vxAct, noEls, last, fmtPerLine_ne_zero, some_, write, withScales, show fmtPerLine .int8 = 512 from rfl]

variable (noScales : q.prog.sbuf = [])
include noScales

theorem vxAct_reduces (reduces : vxShape k = .reduce) (lanes : q.prog.lanes ≠ []) :
    vxAct x c k o q = .go x { q with prog := { q.prog with buf := vxReduced k o q.prog.lanes, lanes := [] } } := by
  simp [vxAct, noEls, noScales, last, fmtPerLine_ne_zero, reduces, lanes]

theorem vxAct_done (reduced : vxShape k = .reduce → q.prog.lanes = []) : vxAct x c k o q = .done := by
  have none_ : ¬ (vxShape k = .reduce ∧ q.prog.lanes ≠ []) := fun h => h.2 (reduced h.1)
  simp [vxAct, noEls, noScales, last, fmtPerLine_ne_zero, none_]

end Ends
end Vx

/-! ### VX: the work on a set of lines -/

section VxWork
variable {c : Nat} {k : VxK} {o : VxOp} {x : Stack} {q : QEntry}

/-- The work on a set of lines is counted, and leaves of an entry what was written before. -/
structure Worked (q r : QEntry) : Prop where
  counted : r.prog.i = q.prog.i + 1
  out : r.prog.out = q.prog.out
  sout : r.prog.sout = q.prog.sout
  rest : r = { q with prog := r.prog }

theorem vxWork_worked (x : Stack) (c : Nat) (k : VxK) (o : VxOp) (q : QEntry) : Worked q (vxWork x c k o q).2 := by
  unfold vxWork
  split <;> exact ⟨rfl, rfl, rfl, rfl⟩

theorem reduceLine_length (k : VxK) (t : Bool) (n : Nat) (lanes : List (BitVec 32 × Bool)) (i : Nat) (xs : List (BitVec 32 × Bool)) :
    (reduceLine k t n lanes i xs).length = lanes.length := by
  induction xs generalizing lanes i with
  | nil => rfl
  | cons e r ih => rw [reduceLine, ih, reduceStep, List.length_set]

/-- The work of a reduction is on its lanes. -/
theorem vxWork_reduces (reduces : vxShape k = .reduce) :
    (vxWork x c k o q).2.prog.buf = q.prog.buf ∧ (vxWork x c k o q).2.prog.sbuf = q.prog.sbuf
      ∧ (vxWork x c k o q).2.prog.lanes.length = q.prog.lanes.length := by
  simp [vxWork, reduces, reduceLine_length]

/-- That of every other operation leaves them. -/
theorem vxWork_lanes (other : vxShape k ≠ .reduce) : (vxWork x c k o q).2.prog.lanes = q.prog.lanes := by
  unfold vxWork
  split
  case h_5 reduces => exact absurd reduces other
  all_goals rfl

theorem vxLanes_ne_nil (k : VxK) (o : VxOp) (ls : List Line) : vxLanes k o ls ≠ [] := by
  apply List.ne_nil_of_length_pos
  rw [vxLanes]
  split
  · rw [List.length_replicate]
    decide
  · rw [List.length_append, line32, List.length_map, List.length_range]
    omega

theorem vxReads_length_le (k : VxK) (o : VxOp) : (vxReads k o).length ≤ 3 := by
  unfold vxReads
  split
  case h_1 => split <;> split <;> simp
  all_goals simp

end VxWork

/-! ### VX: from the start to the end of an operation on one line -/

section VxRun
variable {now c : Nat} {k : VxK} {o : VxOp} {x y z v w t : Stack} {q r : QEntry} {pair ls : List Line}

/-- The lanes with which an operation begins its work: those of a reduction, of its carried pair or the identity (R222). -/
def vxBegins (k : VxK) (o : VxOp) (pair : List Line) : List (BitVec 32 × Bool) := if vxShape k = .reduce then vxLanes k o pair else []

theorem readAll_length {i : Nat} (es : List EndSpec) (read : readAll c i es x = some (ls, y)) : ls.length = es.length := by
  induction es generalizing x ls with
  | nil =>
    cases read
    rfl
  | cons e es ih =>
    rw [readAll] at read
    split at read
    next =>
      obtain ⟨⟨ms, y'⟩, rest, pair⟩ := Option.map_eq_some_iff.mp read
      cases pair
      rw [List.length_cons, List.length_cons, ih rest]
    next => cases read

theorem ActsWithin.vxOne (act : vxAct x c k o q = .go y r) : ActsWithin now c (.vx k o) 1 x q y r := .one act

section Collects
variable (left : q.prog.i < o.n.toNat + 1) (noEls : q.prog.buf = []) (noScales : q.prog.sbuf = [])
include left noEls noScales

/-- A reduction reads its carried pair, where it has one, and sets its lanes. -/
theorem actsWithin_lanes (unset : q.prog.lanes = []) (none_ : q.prog.got = [])
    (carried : if vxShape k = .reduce ∧ o.b ≠ .none then
        ∃ l0 l1 x0, readEnd x c o.b 0 = .go l0 x0 ∧ readEnd x0 c o.b 1 = .go l1 y ∧ pair = [l0, l1]
      else y = x ∧ pair = []) :
    ActsWithin now c (.vx k o) 3 x q y (withLanes q (vxBegins k o pair)) := by
  by_cases reduces : vxShape k = .reduce
  · rw [vxBegins, if_pos reduces]
    by_cases fresh : o.b = .none
    · obtain ⟨rfl, rfl⟩ := (if_neg (fun h => h.2 fresh)).mp carried
      rw [← none_]
      exact .mono (by decide) (.vxOne (vxAct_takesLanes left noEls noScales reduces unset (.inl fresh)))
    · obtain ⟨l0, l1, x0, first, second, rfl⟩ := (if_pos ⟨reduces, fresh⟩).mp carried
      have read0 : vxAct x c k o q = .go x0 (withLines q [l0]) :=
        vxAct_readsCarried left noEls noScales reduces unset fresh (by simp [none_]) (by simpa [none_] using first)
      have read1 : vxAct x0 c k o (withLines q [l0]) = .go y (withLines (withLines q [l0]) [l1]) :=
        vxAct_readsCarried left noEls noScales reduces unset fresh (by simp [withLines, none_]) (by simpa [withLines, none_] using second)
      have take : vxAct y c k o (withLines q [l0, l1]) = .go y (withLanes (withLines q [l0, l1]) (vxLanes k o (q.prog.got ++ [l0, l1]))) :=
        vxAct_takesLanes left noEls noScales reduces unset (.inr (by simp [withLines, none_]))
      rw [withLines_cons] at read1
      rw [none_] at take
      exact ((ActsWithin.vxOne read0).trans (.vxOne read1)).trans (.vxOne take)
  · obtain ⟨rfl, rfl⟩ := (if_neg (fun h => reduces h.1)).mp carried
    rw [vxBegins, if_neg reduces, withLanes, ← unset, ← none_]
    exact .refl

/-- The operand lines are read one by one, in order. -/
theorem actsWithin_readLines {seen : List EndSpec} (ready : vxShape k = .reduce → q.prog.lanes ≠ []) (es : List EndSpec) (ends : vxReads k o = seen ++ es)
    (count : q.prog.got.length = seen.length) (read : readAll c q.prog.i es x = some (ls, y)) :
    ActsWithin now c (.vx k o) es.length x q y (withLines q ls) := by
  induction es generalizing x q ls seen with
  | nil =>
    cases read
    rw [withLines_nil]
    exact .refl
  | cons e es ih =>
    rw [readAll] at read
    split at read
    next l v first =>
      obtain ⟨⟨ms, y'⟩, rest, pair⟩ := Option.map_eq_some_iff.mp read
      cases pair
      have act : vxAct x c k o q = .go v (withLines q [l]) := vxAct_reads left noEls noScales ready (by simp [ends, count]) first
      have acts := ih (q := withLines q [l]) (seen := seen ++ [e]) left noEls noScales ready (by simp [ends]) (by simp [withLines, count]) rest
      rw [withLines_cons] at acts
      rw [List.length_cons, Nat.add_comm]
      exact (ActsWithin.vxOne act).trans acts
    next => cases read

end Collects

section Ends
variable (last : o.n.toNat + 1 ≤ q.prog.i)
include last

theorem actsWithin_writeOutput {j n : Nat} {els : List (Nat × Bool)} (write : writeLines c o.d (vxOutFmt k o) j n els x = some y) :
    ∃ i, ActsWithin now c (.vx k o) n x (withOutput q j els) y (withOutput q i []) :=
  actsWithin_writeLines (entry := withOutput q) (fun _ _ _ _ some_ line => vxAct_writes last some_ line) write

theorem actsWithin_writeScales {j n : Nat} {els : List (Nat × Bool)} (noEls : q.prog.buf = []) (write : writeLines c o.c .int8 j n els x = some y) :
    ∃ i, ActsWithin now c (.vx k o) n x (withScales q j els) y (withScales q i []) :=
  actsWithin_writeLines (entry := withScales q) (fun _ _ _ _ some_ line => vxAct_writesScales last noEls some_ line) write

end Ends
/-- An entry without lanes. -/
def withoutLanes (q : QEntry) : QEntry := { q with prog := { q.prog with lanes := [] } }

/-- The elements that an operation writes once its last set of lines is worked on. -/
def vxOutput (k : VxK) (o : VxOp) (q : QEntry) : List (Nat × Bool) := if vxShape k = .reduce then vxReduced k o q.prog.lanes else q.prog.buf

section Outputs
variable (last : o.n.toNat + 1 ≤ q.prog.i) (out : q.prog.out = 0)
include last out

/-- A reduction first turns its lanes into its output; every other operation has its output already. -/
theorem actsWithin_output (ready : vxShape k = .reduce → q.prog.buf = [] ∧ q.prog.sbuf = [] ∧ q.prog.lanes ≠ [])
    (other : vxShape k ≠ .reduce → q.prog.lanes = []) :
    ActsWithin now c (.vx k o) 1 x q x (withOutput (withoutLanes q) 0 (vxOutput k o q)) := by
  rw [vxOutput]
  by_cases reduces : vxShape k = .reduce
  · obtain ⟨noEls, noScales, lanes⟩ := ready reduces
    have act := vxAct_reduces (x := x) (c := c) last noEls noScales reduces lanes
    rw [if_pos reduces, withOutput, withoutLanes, ← out]
    exact .vxOne act
  · have same : withOutput (withoutLanes q) 0 q.prog.buf = q := by
      calc withOutput (withoutLanes q) 0 q.prog.buf = withOutput (withoutLanes q) q.prog.out q.prog.buf := by rw [out]
        _ = withoutLanes q := rfl
        _ = q := by rw [withoutLanes, ← other reduces]
    rw [if_neg reduces, same]
    exact .refl

/-- Then it writes its output lines, then its scales, and nothing is left. -/
theorem actsWithin_writesAll (sout : q.prog.sout = 0) (ready : vxShape k = .reduce → q.prog.buf = [] ∧ q.prog.sbuf = [] ∧ q.prog.lanes ≠ [])
    (other : vxShape k ≠ .reduce → q.prog.lanes = []) (write : writeLines c o.d (vxOutFmt k o) 0 8 (vxOutput k o q) x = some y)
    (scales : writeLines c o.c .int8 0 1 q.prog.sbuf y = some z) :
    ∃ i j, ActsWithin now c (.vx k o) 10 x q z (withScales (withOutput (withoutLanes q) i []) j []) := by
  obtain ⟨i, written⟩ := actsWithin_writeOutput (now := now) (q := withoutLanes q) last write
  obtain ⟨j, scaled⟩ := actsWithin_writeScales (now := now) (q := withOutput (withoutLanes q) i []) last rfl scales
  have unscaled : withScales (withOutput (withoutLanes q) i []) 0 q.prog.sbuf = withOutput (withoutLanes q) i [] := by
    rw [← sout]
    rfl
  rw [unscaled] at scaled
  exact ⟨i, j, ((actsWithin_output last out ready other).trans written).trans scaled⟩

end Outputs

/-- A fresh operation on one line with its lanes set and its operand lines read. -/
def vxLoaded (k : VxK) (o : VxOp) (q : QEntry) (pair ls : List Line) : QEntry := { q with prog := { got := ls, lanes := vxBegins k o pair } }

theorem vxLoaded_lanes (reduces : vxShape k = .reduce) : (vxLoaded k o q pair ls).prog.lanes ≠ [] := by
  rw [vxLoaded, vxBegins, if_pos reduces]
  exact vxLanes_ne_nil k o pair

theorem actsWithin_loads (fresh : q.prog = {})
    (carried : if vxShape k = .reduce ∧ o.b ≠ .none then
        ∃ l0 l1 x0, readEnd x c o.b 0 = .go l0 x0 ∧ readEnd x0 c o.b 1 = .go l1 v ∧ pair = [l0, l1]
      else v = x ∧ pair = [])
    (read : readAll c 0 (vxReads k o) v = some (ls, y)) : ActsWithin now c (.vx k o) 6 x q y (vxLoaded k o q pair ls) := by
  have lanes := actsWithin_lanes (now := now) (q := q) (by simp [fresh]) (by simp [fresh]) (by simp [fresh]) (by simp [fresh]) (by simp [fresh]) carried
  rw [show withLanes q (vxBegins k o pair) = vxLoaded k o q pair [] by rw [withLanes, fresh]; rfl] at lanes
  have reads := actsWithin_readLines (now := now) (q := vxLoaded k o q pair []) (seen := []) (Nat.succ_pos _) rfl rfl vxLoaded_lanes _ rfl rfl read
  exact lanes.trans (.mono (vxReads_length_le k o) reads)

theorem runOp_vx_oneLine (started : startedOp x c (.vx k o) = some q) (run : (x.core c).run = .running) (fresh : q.prog = {}) (one : o.n = 0)
    (carried : if vxShape k = .reduce ∧ o.b ≠ .none then
        ∃ l0 l1 x0, readEnd x c o.b 0 = .go l0 x0 ∧ readEnd x0 c o.b 1 = .go l1 v ∧ pair = [l0, l1]
      else v = x ∧ pair = [])
    (read : readAll c 0 (vxReads k o) v = some (ls, y)) (work : vxWork y c k o (vxLoaded k o q pair ls) = (w, r))
    (write : writeLines c o.d (vxOutFmt k o) 0 8 (vxOutput k o r) w = some t) (scales : writeLines c o.c .int8 0 1 r.prog.sbuf t = some z) :
    ∃ pr : Prog, runOp now x c (.vx k o) = putOp z c .vx { q with prog := pr, done := true } := by
  have works := vxAct_works (x := y) (c := c) (q := vxLoaded k o q pair ls) (Nat.succ_pos _) rfl rfl vxLoaded_lanes (readAll_length _ read)
  obtain ⟨counted, out, sout, rest⟩ := vxWork_worked y c k o (vxLoaded k o q pair ls)
  have reduced := vxWork_reduces (x := y) (c := c) (k := k) (o := o) (q := vxLoaded k o q pair ls)
  have other := vxWork_lanes (x := y) (c := c) (k := k) (o := o) (q := vxLoaded k o q pair ls)
  rw [work] at works counted out sout rest reduced other
  have last : o.n.toNat + 1 ≤ r.prog.i := by
    rw [one, show r.prog.i = 1 from counted]
    rfl
  have ready : vxShape k = .reduce → r.prog.buf = [] ∧ r.prog.sbuf = [] ∧ r.prog.lanes ≠ [] := fun reduces => by
    obtain ⟨buf, sbuf, length⟩ := reduced reduces
    exact ⟨buf, sbuf, List.ne_nil_of_length_pos (length ▸ List.length_pos_of_ne_nil (vxLoaded_lanes reduces))⟩
  have unset : vxShape k ≠ .reduce → r.prog.lanes = [] := fun elsewise => (other elsewise).trans (if_neg elsewise)
  obtain ⟨i, j, writes⟩ := actsWithin_writesAll (now := now) last out sout ready unset write scales
  have acts := ((actsWithin_loads fresh carried read).trans (.vxOne works)).trans writes
  have done : vxAct z c k o (withScales (withOutput (withoutLanes r) i []) j []) = .done := vxAct_done last rfl rfl (fun _ => rfl)
  have ran := runOp_within_done started run acts (by decide) done
  obtain ⟨p, rfl⟩ : ∃ p, r = { q with prog := p } := ⟨_, rest⟩
  exact ⟨_, ran⟩

end VxRun

/-- Settles O10: the carried pair and the operand lines are read, the work is done, its output and its scales are written, and nothing is left. -/
theorem vxOperationOnOneLine : Obligations.VxOperationOnOneLine := by
  intro s a k o q pair ls x y w z1 z q1 run started fresh one carried read work write scales
  obtain ⟨pr, ran⟩ := runOp_vx_oneLine (now := s.now) started run fresh one carried read work write scales
  exact ⟨pr, exec_stackRow (exec_vxCommand k a o s) ran⟩

end Sys2Proof.Machine
end

section
/-! PROOFS. LD and ST at their last line, and the loads (O14, O16): the acts that read what a line needs, the act that issues its request, and the wait
for the answer. -/

namespace Sys2Proof.Machine
open Sys2Proof

/-! ### The guards of an act (R228) -/

/-- An engine of core `c` may issue a request: fewer than 256 are outstanding and none of its own waits at the row port. -/
structure MayIssue (x : Stack) (c : Nat) (e : Engine) : Prop where
  room : (x.core c).reqs.length < 256
  port : portWaiting (x.core c) e = false

section Guards
variable {now c : Nat} {op : CoreOp} {x y : Stack} {e : Engine} {q r : QEntry}

theorem MayIssue.notHeld (may : MayIssue x c e) : ¬ (maxCoreReqs ≤ (x.core c).reqs.length ∨ portWaiting (x.core c) e = true) := by
  rintro (full | held)
  · exact Nat.not_le.mpr may.room full
  · exact Bool.false_ne_true (may.port.symm.trans held)

variable (ldst : opEngine op = .ld ∨ opEngine op = .st) (last : ldstN op ≤ q.prog.i)
include ldst last

/-- With its last line issued an operation waits for the answers that it has asked for. -/
theorem ldst_waits (fin : q.prog.fin < ldstN op) : engineAct now x c op q = .wait 3 0 := by
  cases op with
  | ldl _ | ldx _ | atom _ | stl _ | stx _ => simp only [engineAct, ldstAct, ge_iff_le, if_pos last, if_neg (Nat.not_le.mpr fin)]
  | pass _ | drain _ | vx _ _ | sx _ _ | send _ | fx _ | seq _ => rcases ldst with h | h <;> cases h

theorem ldst_done (fin : ldstN op ≤ q.prog.fin) : engineAct now x c op q = .done := by
  cases op with
  | ldl _ | ldx _ | atom _ | stl _ | stx _ => simp only [engineAct, ldstAct, ge_iff_le, if_pos last, if_pos fin]
  | pass _ | drain _ | vx _ _ | sx _ _ | send _ | fx _ | seq _ => rcases ldst with h | h <;> cases h

end Guards

/-! ### From the start to the wait -/

section Asks
variable {now c n : Nat} {op : CoreOp} {x y : Stack} {q r : QEntry}

theorem startedOp_notDone (started : startedOp x c op = some q) : q.done = false := by
  have found := List.find?_some started
  simp only [Bool.and_eq_true, Bool.not_eq_true'] at found
  exact found.1.2

variable (ldst : opEngine op = .ld ∨ opEngine op = .st) (started : startedOp x c op = some q) (run : (x.core c).run = .running)
  (last : ldstN op = q.prog.i + 1) (fin : q.prog.fin ≤ q.prog.i) (acts : ActsWithin now c op n x q y r) (fuel : n < actFuel)
  (issued : r.prog.i = q.prog.i + 1)
include ldst started run last fin acts fuel issued

/-- An operation that has asked for its last line waits. -/
theorem runOp_asks (asks : r.prog.fin = q.prog.fin) : runOp now x c op = putOp y c (opEngine op) r :=
  runOp_within_waits started run acts fuel (ldst_waits ldst (by omega) (by omega))

/-- One whose last line needs no answer is done where no other line waits for one. -/
theorem runOp_passes (passes : r.prog.fin = q.prog.fin + 1) (same : r.done = q.done) :
    runOp now x c op = putOp y c (opEngine op) { r with done := decide (q.prog.fin = q.prog.i) } := by
  by_cases all : q.prog.fin = q.prog.i
  · have last' : ldstN op ≤ r.prog.i := by omega
    have fin' : ldstN op ≤ r.prog.fin := by omega
    rw [decide_eq_true all, runOp_within_done started run acts fuel (ldst_done ldst last' fin')]
  · rw [decide_eq_false all, ← startedOp_notDone started, ← same]
    exact runOp_within_waits (r := r) started run acts fuel (ldst_waits ldst (by omega) (by omega))

end Asks

/-! ### The request of a line (R228, R230, R231) -/

section Issue
variable {now c : Nat} {x y z : Stack} {q : QEntry} {data : EndSpec} {l : Bool} {a : Word} {d : Line} {mask : BitVec 512}

/-- An entry whose line is issued; `past` is 1 where the line needs no answer. -/
def lineIssued (q : QEntry) (past : Nat) : QEntry := { q with prog := { q.prog with i := q.prog.i + 1, fin := q.prog.fin + past } }

/-- An entry without operand lines. -/
def withoutLines (q : QEntry) : QEntry := { q with prog := { q.prog with got := [] } }

/-- The node of a request that goes to another node. -/
def routeNode (rt : Route) : Option Nat := match rt with | .remote n => some n | _ => none

/-- The request of a load for the line at `a`, added and sent along the path of its address. -/
def loadRequest (now : Nat) (x : Stack) (c : Nat) (q : QEntry) (l : Bool) (a : Word) : Option Stack :=
  let rt := routeOf x c l .read 512 a
  sendAccess now (addReq x c { newReq x.nextId .ld q (fld a 0 48) false Line.zero 0 1 with node := routeNode rt }) c x.nextId 0 rt
    (fld a 0 48) .read Line.zero 0

/-- The request of a store of `d` under `mask`, likewise. -/
def storeRequest (now : Nat) (x : Stack) (c : Nat) (q : QEntry) (l : Bool) (a : Word) (d : Line) (mask : BitVec 512) : Option Stack :=
  let rt := routeOf x c l .write 512 a
  sendAccess now (addReq x c { newReq x.nextId .st q (fld a 0 48) true d mask (partsOf rt .write d mask) with node := routeNode rt }) c x.nextId 0 rt
    (fld a 0 48) .write d mask

variable (reserved : reserveLanding x c data q.uid q.prog.i = .go () y)
include reserved

theorem issueLoad_asks (sends : loadRequest now y c q l a = some z) : issueLoad now x c q data l a false = .go z (lineIssued q 0) := by
  rw [loadRequest] at sends
  simp only [issueLoad, reserved, Bool.false_eq_true, if_false]
  generalize routeOf y c l .read 512 a = rt at sends ⊢
  cases rt <;> simp only [newReq, routeNode] at sends ⊢ <;> simp only [sends, lineIssued, Nat.add_zero]

/-- A poisoned address bites, and its line lands as zeros, every word poisoned. -/
theorem issueLoad_bites :
    issueLoad now x c q data l a true
      = .go (landLine (biteCore y c .ld (qposOf (y.core c).ld q.uid) biteAddress) c data q.uid q.prog.i Line.lost) (lineIssued q 1) := by
  simp only [issueLoad, reserved, if_true, lineIssued]

omit reserved

theorem issueStore_none : issueStore now x c q l a d 0 = .go x (lineIssued (withoutLines q) 1) := by
  simp only [issueStore, if_true, lineIssued, withoutLines]

theorem issueStore_asks (some_ : mask ≠ 0) (sends : storeRequest now x c q l a d mask = some z) :
    issueStore now x c q l a d mask = .go z (lineIssued (withoutLines q) 0) := by
  rw [storeRequest] at sends
  simp only [issueStore, if_neg some_]
  generalize routeOf x c l .write 512 a = rt at sends ⊢
  cases rt <;> simp only [newReq, routeNode] at sends ⊢ <;> simp only [sends, lineIssued, withoutLines, Nat.add_zero]

section Multicast
variable {mc : Nat → Stack → Packet → Stack}

theorem issueMulticast_none : issueMulticast now mc x c q a d 0 = .go x (lineIssued (withoutLines q) 1) := by
  simp only [issueMulticast, if_true, lineIssued, withoutLines]

variable (some_ : mask ≠ 0)
include some_

theorem issueMulticast_misaligned (off : fld a 0 48 % 512 ≠ 0) :
    issueMulticast now mc x c q a d mask
      = .go (answerCore (addReq x c (newReq x.nextId .st q (fld a 0 48) true d mask 1)) c x.nextId 0 (.error stAddrInvalid)) (lineIssued (withoutLines q) 0) := by
  simp only [issueMulticast, if_neg some_, if_pos off, lineIssued, withoutLines, Nat.add_zero]

theorem issueMulticast_opens (aligned : fld a 0 48 % 512 = 0) (free : remoteHeld x = false)
    (opens : openMcs now mc c x.nextId (fld (reg x (rIvtMcgrpB (fld a 48 12))) 15 9) (mcPackets (nodeId x) (fld a 48 12) (fld a 0 48) d mask)
      (addReq x c { newReq x.nextId .st q (fld a 0 48) true d mask (mcPackets (nodeId x) (fld a 48 12) (fld a 0 48) d mask).length with node := some 0x10000 })
        = some z) :
    issueMulticast now mc x c q a d mask = .go z (lineIssued (withoutLines q) 0) := by
  simp only [issueMulticast, if_neg some_, aligned, ne_eq, not_true_eq_false, if_false, free, Bool.false_eq_true, opens, lineIssued, withoutLines, Nat.add_zero]

end Multicast

end Issue

/-! ### LDL and LDX (R226, R227) -/

/-- The stack once the address line that gave an operation its last address is gone (R227). -/
def addressLineUsed (x : Stack) (c : Nat) (d a : EndSpec) : Stack :=
  match a with
  | .pop p => if sharedPop d a then x else dqDrop x c p.val
  | _ => x

/-- An entry with the addresses that it holds replaced. -/
def withAddresses (q : QEntry) (buf : List (Nat × Bool)) : QEntry := { q with prog := { q.prog with buf := buf } }

theorem addressUsed_last {x : Stack} {c i : Nat} {d a : EndSpec} {q : QEntry} :
    addressUsed x c d a i (i + 1) q = .go (addressLineUsed x c d a) (withAddresses q []) := by
  refine (if_pos (Or.inr rfl)).trans ?_
  cases a <;> rfl

theorem holdAddresses_ne_nil (q : QEntry) (l : Line) : (holdAddresses q l).prog.buf ≠ [] := by
  apply List.ne_nil_of_length_pos
  rw [holdAddresses, List.length_map, line64, List.length_map, List.length_range]
  decide

/-- The addresses that an operation uses for line `i` are those it holds, or, where it holds none, those of the address line that it reads. -/
def AddressesAt (x : Stack) (c : Nat) (o : IdxOp) (i : Nat) (q : QEntry) (w : Stack) (r : QEntry) : Prop :=
  (q.prog.buf ≠ [] ∧ w = x ∧ r = q) ∨ (q.prog.buf = [] ∧ ∃ l, addressLine x c o.data o.addr (i / 64) = .go l w ∧ r = holdAddresses q l)

section Loads
variable {now c : Nat} {x y z w : Stack} {q r : QEntry} {v : Word} {bad : Bool}

theorem ldlAct {o : LdlOp} (left : q.prog.i < o.n.toNat + 1) (may : MayIssue x c .ld) :
    engineAct now x c (.ldl o) q
      = issueLoad now x c q o.data o.l (exchAddr x false o.x q.tick (o.addr + bv 64 (q.prog.i * o.stride.toNat * 512))) false := by
  simp only [engineAct, ldstAct, opEngine, ldstN, ge_iff_le, if_neg (Nat.not_le.mpr left), if_neg may.notHeld]

variable {o : IdxOp}

theorem ldxAct_reads {l : Line} (left : q.prog.i < o.n.toNat + 1) (may : MayIssue x c .ld) (none_ : q.prog.buf = [])
    (line : addressLine x c o.data o.addr (q.prog.i / 64) = .go l y) : engineAct now x c (.ldx o) q = .go y (holdAddresses q l) := by
  simp only [engineAct, ldstAct, opEngine, ldstN, ge_iff_le, if_neg (Nat.not_le.mpr left), if_neg may.notHeld, if_pos none_, line]

theorem ldxAct_issues (last : q.prog.i = o.n.toNat) (may : MayIssue x c .ld) (held : q.prog.buf ≠ []) (address : addressAt q = (v, bad))
    (issue : issueLoad now x c q o.data o.l (exchAddr x false o.x q.tick (o.base + v)) bad = .go y r) :
    engineAct now x c (.ldx o) q = .go (addressLineUsed y c o.data o.addr) (withAddresses r []) := by
  have left : ¬ o.n.toNat + 1 ≤ q.prog.i := by omega
  simp only [engineAct, ldstAct, opEngine, ldstN, ge_iff_le, if_neg left, if_neg may.notHeld, if_neg held, address, issue]
  rw [last, addressUsed_last]

theorem actsWithin_ldxAddresses (left : q.prog.i < o.n.toNat + 1) (may : MayIssue x c .ld) (addresses : AddressesAt x c o q.prog.i q w r) :
    ActsWithin now c (.ldx o) 1 x q w r ∧ r.prog.buf ≠ [] ∧ ∃ buf, r = withAddresses q buf := by
  rcases addresses with ⟨held, rfl, rfl⟩ | ⟨none_, l, line, rfl⟩
  · exact ⟨.refl, held, _, rfl⟩
  · exact ⟨.one (ldxAct_reads left may none_ line), holdAddresses_ne_nil q l, _, rfl⟩

end Loads

/-- Settles O14: the addresses are read where none are held, the request of the last line is issued, and the operation waits. -/
theorem loadsIssueTheirLines : Obligations.LoadsIssueTheirLines := by
  rintro s a q y w z v bad i run room port rfl fin x c req asked lost
  have may : MayIssue x c .ld := ⟨room, port⟩
  refine ⟨fun o started last reserved sends => ?ldl, fun o r started last addresses room' port' address reserved => ?ldx⟩
  case ldl =>
    have act := (ldlAct (now := s.now) (o := o) (by omega) may).trans (issueLoad_asks reserved sends)
    exact exec_stackRow rfl (runOp_asks (.inl rfl) started run (congrArg (· + 1) last.symm) fin (.one act) (by decide) rfl rfl)
  case ldx =>
    intro used
    have lines : ldstN (.ldx o) = q.prog.i + 1 := congrArg (· + 1) last.symm
    obtain ⟨reads, held, buf, rfl⟩ := actsWithin_ldxAddresses (now := s.now) (by omega) may addresses
    refine ⟨fun good sends => ?_, fun poisoned => ?_⟩
    · subst bad
      have act := ldxAct_issues (now := s.now) (q := withAddresses q buf) last ⟨room', port'⟩ held address (issueLoad_asks reserved sends)
      exact exec_stackRow rfl (runOp_asks (.inl rfl) started run lines fin (reads.trans (.one act)) (by decide) rfl rfl)
    · subst bad
      have act := ldxAct_issues (now := s.now) (q := withAddresses q buf) last ⟨room', port'⟩ held address (issueLoad_bites reserved)
      exact exec_stackRow rfl (runOp_passes (.inl rfl) started run lines fin (reads.trans (.one act)) (by decide) rfl rfl rfl)

/-! ### ATOM (R229) -/

section Atomics
variable {now c : Nat} {o : AtomOp} {x y z : Stack} {q : QEntry} {l : Line}
variable (left : q.prog.i < o.n.toNat + 1) (may : MayIssue x c .ld)
include left may

theorem atomAct_reads (none_ : q.prog.got = []) (read : readEnd x c o.addr q.prog.i = .go l y) :
    engineAct now x c (.atom o) q = .go y (withLines q [l]) := by
  simp only [engineAct, ldstAct, opEngine, ldstN, ge_iff_le, if_neg (Nat.not_le.mpr left), if_neg may.notHeld, none_, read, withLines, List.nil_append]

/-- The sixteen records of a line read go out under one request. -/
theorem atomAct_issues (records : q.prog.got = [l]) (reserved : reserveLanding x c o.data q.uid q.prog.i = .go () y)
    (sends : issueRecords now c y.nextId q o.atype.toNat o.l (exchAddr y false o.x q.tick o.base) l 16 0
      (addReq y c (newReq y.nextId .ld q 0 false Line.zero 0 16)) = some z) :
    engineAct now x c (.atom o) q = .go z (lineIssued (withoutLines q) 0) := by
  simp only [engineAct, ldstAct, opEngine, ldstN, ge_iff_le, if_neg (Nat.not_le.mpr left), if_neg may.notHeld, records, issueAtomics, reserved, sends,
    lineIssued, withoutLines, Nat.add_zero]

end Atomics

/-- Settles O16: the line of records is read, its atomics go out together, and the operation waits. -/
theorem atomIssuesSixteenRecords : Obligations.AtomIssuesSixteenRecords := by
  rintro s a o q rl w y z i run room port rfl fin none_ started last read room' port' reserved sends
  have left : q.prog.i < o.n.toNat + 1 := by omega
  have reads := atomAct_reads (now := s.now) left ⟨room, port⟩ none_ read
  have issues := atomAct_issues (q := withLines q [rl]) left ⟨room', port'⟩ (by rw [withLines, none_]; rfl) reserved
    (by rw [withLines, none_]; exact sends)
  have ran := runOp_asks (.inl rfl) started run (congrArg (· + 1) last.symm) fin (ActsWithin.trans (.one reads) (.one issues)) (by decide) rfl rfl
  refine exec_stackRow rfl (ran.trans ?_)
  rw [withLines, lineIssued, withoutLines, ← none_]
  rfl

end Sys2Proof.Machine
end

section
/-! PROOFS. STL and STX at their last line (O15): the reads of a store, then the act that its mask, its address and MC call for. -/

namespace Sys2Proof.Machine
open Sys2Proof

/-! ### STL (R226, R230, R231) -/

/-- A data queue of a running core replaced is all that changes of the core. -/
theorem Stack.core_setDq {x : Stack} {c p : Nat} {d : DQ} (run : (x.core c).run = .running) :
    (x.setDq c p d).core c = { x.core c with dqs := tset (fun _ => DQ.empty) (x.core c).dqs p d } :=
  Stack.core_setCore_of_ne fun reset => by
    have stopped := congrArg Core.run reset
    cases run.symm.trans stopped

/-- What an operand end reads leaves the requests of a running core. -/
theorem readEnd_keepsRequests {x y : Stack} {c j : Nat} {en : EndSpec} {l : Line} (run : (x.core c).run = .running) (read : readEnd x c en j = .go l y) :
    (y.core c).run = .running ∧ (y.core c).reqs = (x.core c).reqs := by
  unfold readEnd at read
  split at read
  case h_1 =>
    split at read
    next =>
      cases read
      rw [dqDrop, Stack.core_setDq run]
      exact ⟨run, rfl⟩
    next => cases read
  case h_2 =>
    split at read
    next =>
      cases read
      exact ⟨run, rfl⟩
    next => cases read
  all_goals
    cases read
    exact ⟨run, rfl⟩

theorem MayIssue.of_reqs {x y : Stack} {c : Nat} {e : Engine} (may : MayIssue x c e) (same : (y.core c).reqs = (x.core c).reqs) : MayIssue y c e :=
  ⟨same ▸ may.room, (congrArg (List.any · _) same).trans may.port⟩

/-- The operand lines of a store (R226): its data, and its mask where it has one. -/
def stlReads (o : StlOp) : List EndSpec := [o.data] ++ (if o.mask = .none then [] else [o.mask])

/-- What they give: the data `d`, and the mask `m` where there is one. -/
def stlLines (o : StlOp) (d m : Line) : List Line := if o.mask = .none then [d] else [d, m]

/-- The address of the line of a store, and the bytes of it that it writes. -/
def stlAddr (x : Stack) (o : StlOp) (q : QEntry) : Word := exchAddr x true o.x q.tick (o.addr + bv 64 (q.prog.i * 512))
def stlMask (o : StlOp) (m : Line) : BitVec 512 := if o.mask = .none then fullMask else m.data.setWidth 512

theorem stlLines_length {o : StlOp} {d m : Line} : (stlLines o d m).length = (stlReads o).length := by
  rw [stlLines, stlReads]
  split <;> rfl

theorem stlReads_fuel {o : StlOp} : (stlReads o).length + 1 < actFuel := by
  have few : (stlReads o).length ≤ 2 := by
    rw [stlReads]
    split <;> simp
  unfold actFuel
  omega

theorem stlLines_data {o : StlOp} {d m : Line} : (stlLines o d m).getD 0 Line.zero = d := by
  rw [stlLines]
  split <;> rfl

theorem stlLines_mask {o : StlOp} {d m : Line} (masked : o.mask ≠ .none) : (stlLines o d m).getD 1 Line.zero = m := by
  rw [stlLines, if_neg masked]
  rfl

/-- The replication of a multicast's packets at their source. -/
def atSource (now : Nat) (x : Stack) (k : Packet) : Stack := mcSettle (mcReplicate now x k 8) k.tag

section Stores
variable {now c : Nat} {o : StlOp} {x y z : Stack} {q : QEntry} {l d m : Line} {ls : List Line}

section Acts
variable (left : q.prog.i < o.n.toNat + 1) (may : MayIssue x c .st)
include left may

theorem stlAct_reads {e : EndSpec} (next : (stlReads o)[q.prog.got.length]? = some e) (read : readEnd x c e q.prog.i = .go l y) :
    engineAct now x c (.stl o) q = .go y (withLines q [l]) := by
  rw [stlReads] at next
  simp only [engineAct, ldstAct, opEngine, ldstN, ge_iff_le, if_neg (Nat.not_le.mpr left), if_neg may.notHeld, next, read, withLines]

theorem actsWithin_stlReads {seen : List EndSpec} (es : List EndSpec) (ends : stlReads o = seen ++ es) (count : q.prog.got.length = seen.length)
    (run : (x.core c).run = .running) (read : readAll c q.prog.i es x = some (ls, y)) :
    ActsWithin now c (.stl o) es.length x q y (withLines q ls) := by
  induction es generalizing x q ls seen with
  | nil =>
    cases read
    rw [withLines_nil]
    exact .refl
  | cons e es ih =>
    rw [readAll] at read
    split at read
    next l v first =>
      obtain ⟨⟨ms, y'⟩, rest, pair⟩ := Option.map_eq_some_iff.mp read
      cases pair
      obtain ⟨run', reqs⟩ := readEnd_keepsRequests run first
      have act := stlAct_reads (now := now) left may (by simp [ends, count]) first
      have acts := ih (q := withLines q [l]) (seen := seen ++ [e]) left (may.of_reqs reqs) (by simp [ends]) (by simp [withLines, count]) run' rest
      rw [withLines_cons] at acts
      rw [List.length_cons, Nat.add_comm]
      exact (ActsWithin.one act).trans acts
    next => cases read

variable (loaded : q.prog.got = stlLines o d m)
include loaded

/-- A poisoned mask word bites, and nothing is stored for the line. -/
theorem stlAct_bites (masked : o.mask ≠ .none) (bad : m.marks &&& 3#16 ≠ 0) :
    engineAct now x c (.stl o) q = .go (biteCore x c .st (qposOf (x.core c).st q.uid) biteAddress) (lineIssued (withoutLines q) 1) := by
  have all : (stlReads o)[q.prog.got.length]? = none := by rw [loaded, stlLines_length, List.getElem?_length]
  rw [stlReads] at all
  simp only [engineAct, ldstAct, opEngine, ldstN, ge_iff_le, if_neg (Nat.not_le.mpr left), if_neg may.notHeld, all]
  rw [loaded, stlLines_mask masked]
  exact if_pos ⟨masked, bad⟩

theorem stlAct_issues (good : o.mask = .none ∨ m.marks &&& 3#16 = 0) :
    engineAct now x c (.stl o) q =
      if o.mc then issueMulticast now atSource x c q (stlAddr x o q) d (stlMask o m) else issueStore now x c q o.l (stlAddr x o q) d (stlMask o m) := by
  have all : (stlReads o)[q.prog.got.length]? = none := by rw [loaded, stlLines_length, List.getElem?_length]
  rw [stlReads] at all
  simp only [engineAct, ldstAct, opEngine, ldstN, ge_iff_le, if_neg (Nat.not_le.mpr left), if_neg may.notHeld, all]
  rw [loaded, stlLines_data]
  by_cases masked : o.mask = .none
  · rw [stlMask, if_neg (fun bad => bad.1 masked), if_pos masked, if_pos masked]
    rfl
  · rw [stlMask, stlLines_mask masked, if_neg (fun bad => good.elim masked bad.2), if_neg masked]
    rfl

end Acts

theorem withoutLines_withLines (none_ : q.prog.got = []) : withoutLines (withLines q ls) = q := by
  rw [withoutLines, ← none_]
  rfl

section Run
variable (started : startedOp x c (.stl o) = some q) (run : (x.core c).run = .running) (last : q.prog.i = o.n.toNat) (fin : q.prog.fin ≤ q.prog.i)
  (none_ : q.prog.got = []) (may : MayIssue x c .st) (read : readAll c q.prog.i (stlReads o) x = some (ls, y))
include started run last fin none_ may read

theorem runOp_stl_asks (act : engineAct now y c (.stl o) (withLines q ls) = .go z (lineIssued (withoutLines (withLines q ls)) 0)) :
    runOp now x c (.stl o) = putOp z c .st (lineIssued q 0) := by
  rw [withoutLines_withLines none_] at act
  have reads := actsWithin_stlReads (now := now) (seen := []) (by omega) may (stlReads o) rfl (congrArg List.length none_) run read
  exact runOp_asks (.inr rfl) started run (congrArg (· + 1) last.symm) fin (reads.trans (.one act)) stlReads_fuel rfl rfl

theorem runOp_stl_passes (act : engineAct now y c (.stl o) (withLines q ls) = .go z (lineIssued (withoutLines (withLines q ls)) 1)) :
    runOp now x c (.stl o) = putOp z c .st { lineIssued q 1 with done := decide (q.prog.fin = q.prog.i) } := by
  rw [withoutLines_withLines none_] at act
  have reads := actsWithin_stlReads (now := now) (seen := []) (by omega) may (stlReads o) rfl (congrArg List.length none_) run read
  exact runOp_passes (.inr rfl) started run (congrArg (· + 1) last.symm) fin (reads.trans (.one act)) stlReads_fuel rfl rfl rfl

end Run
end Stores

/-! ### STX (R227, R230, R231) -/

section Scatter
variable {now c : Nat} {o : IdxOp} {x y z w : Stack} {q r : QEntry} {d l : Line} {v : Word}
variable (may : MayIssue x c .st)
include may

theorem stxAct_reads (left : q.prog.i < o.n.toNat + 1) (none_ : q.prog.got = []) (read : readEnd x c o.data q.prog.i = .go d y) :
    engineAct now x c (.stx o) q = .go y (withLines q [d]) := by
  simp only [engineAct, ldstAct, opEngine, ldstN, ge_iff_le, if_neg (Nat.not_le.mpr left), if_neg may.notHeld, none_, read, withLines, List.nil_append]

section Loaded
variable (loaded : q.prog.got = [d])
include loaded

theorem stxAct_readsAddresses (left : q.prog.i < o.n.toNat + 1) (none_ : q.prog.buf = [])
    (line : addressLine x c o.data o.addr (q.prog.i / 64) = .go l y) : engineAct now x c (.stx o) q = .go y (holdAddresses q l) := by
  simp only [engineAct, ldstAct, opEngine, ldstN, ge_iff_le, if_neg (Nat.not_le.mpr left), if_neg may.notHeld, loaded, if_pos none_, line]

variable (last : q.prog.i = o.n.toNat) (held : q.prog.buf ≠ [])
include last held

/-- A poisoned address bites, and nothing is stored for the line. -/
theorem stxAct_bites (address : addressAt q = (v, true)) :
    engineAct now x c (.stx o) q = .go (addressLineUsed (biteCore x c .st (qposOf (x.core c).st q.uid) biteAddress) c o.data o.addr)
      (withAddresses (lineIssued (withoutLines q) 1) []) := by
  have left : ¬ o.n.toNat + 1 ≤ q.prog.i := by omega
  simp only [engineAct, ldstAct, opEngine, ldstN, ge_iff_le, if_neg left, if_neg may.notHeld, loaded, if_neg held, address, if_true]
  rw [last, addressUsed_last, ← last]
  rfl

theorem stxAct_issues (address : addressAt q = (v, false))
    (issue : issueStore now x c q o.l (exchAddr x true o.x q.tick (o.base + v)) d fullMask = .go y r) :
    engineAct now x c (.stx o) q = .go (addressLineUsed y c o.data o.addr) (withAddresses r []) := by
  have left : ¬ o.n.toNat + 1 ≤ q.prog.i := by omega
  simp only [engineAct, ldstAct, opEngine, ldstN, ge_iff_le, if_neg left, if_neg may.notHeld, loaded, if_neg held, address, Bool.false_eq_true, if_false, issue]
  rw [last, addressUsed_last]

end Loaded

theorem actsWithin_stxAddresses (left : q.prog.i < o.n.toNat + 1) (none_ : q.prog.got = []) (addresses : AddressesAt x c o q.prog.i q w r) :
    ActsWithin now c (.stx o) 1 x (withLines q [d]) w (withLines r [d]) ∧ r.prog.buf ≠ [] ∧ ∃ buf, r = withAddresses q buf := by
  rcases addresses with ⟨held, rfl, rfl⟩ | ⟨free, l, line, rfl⟩
  · exact ⟨.refl, held, _, rfl⟩
  · have loaded : (withLines q [d]).prog.got = [d] := by rw [withLines, none_]; rfl
    exact ⟨.one (stxAct_readsAddresses may loaded left free line), holdAddresses_ne_nil q l, _, rfl⟩

end Scatter

theorem fullMask_ne_zero : fullMask ≠ 0 := by
  intro zero
  have bit := congrArg (BitVec.getLsbD · 0) zero
  simp [fullMask] at bit

/-- Settles O15: what the store needs is read, and the act that follows is that of its case; the operation waits for what it has asked for. -/
theorem storesIssueTheirLines : Obligations.StoresIssueTheirLines := by
  rintro s a q y z d m i run room port rfl fin none_ x c req asked past bitten
  have may : MayIssue x c .st := ⟨room, port⟩
  refine ⟨fun o started last read room' port' => ?stl, fun o v bad w r started last data room' port' addresses room'' port'' address => ?stx⟩
  case stl =>
    intro mask ad
    have may' : MayIssue y c .st := ⟨room', port'⟩
    have left : (withLines q (stlLines o d m)).prog.i < o.n.toNat + 1 := Nat.lt_succ_of_le (Nat.le_of_eq last)
    have loaded : (withLines q (stlLines o d m)).prog.got = stlLines o d m := by
      rw [withLines, none_]
      rfl
    refine ⟨fun bad => ?_, fun good none' => ?_, fun good some_ single sends => ?_, fun good some_ multi off => ?_, fun good some_ multi aligned free => ?_⟩
    · exact exec_stackRow rfl (runOp_stl_passes started run last fin none_ may read (stlAct_bites left may' loaded bad.1 bad.2))
    · have passes := (stlAct_issues (now := s.now) left may' loaded good).trans
        (by rw [show stlMask o m = 0 from none', issueMulticast_none, issueStore_none, ite_self])
      exact exec_stackRow rfl (runOp_stl_passes started run last fin none_ may read passes)
    · have act := (stlAct_issues left may' loaded good).trans ((if_neg (by simp [single])).trans (issueStore_asks (now := s.now) some_ sends))
      exact exec_stackRow rfl (runOp_stl_asks started run last fin none_ may read act)
    · have act := (stlAct_issues left may' loaded good).trans ((if_pos multi).trans (issueMulticast_misaligned (now := s.now) some_ off))
      exact exec_stackRow rfl (runOp_stl_asks started run last fin none_ may read act)
    · intro ks opens
      have act := (stlAct_issues left may' loaded good).trans ((if_pos multi).trans (issueMulticast_opens (now := s.now) some_ aligned free opens))
      exact exec_stackRow rfl (runOp_stl_asks started run last fin none_ may read act)
  case stx =>
    intro used
    have left : q.prog.i < o.n.toNat + 1 := by omega
    have lines : ldstN (.stx o) = q.prog.i + 1 := congrArg (· + 1) last.symm
    have reads := stxAct_reads (now := s.now) may left none_ data
    obtain ⟨takes, held, buf, rfl⟩ := actsWithin_stxAddresses (now := s.now) (d := d) ⟨room', port'⟩ left none_ addresses
    have loaded : (withLines (withAddresses q buf) [d]).prog.got = [d] := congrArg (· ++ [d]) none_
    have unloaded : withoutLines (withLines (withAddresses q buf) [d]) = withAddresses q buf := withoutLines_withLines none_
    refine ⟨fun poisoned => ?_, fun good sends => ?_⟩
    · subst bad
      have act := stxAct_bites (now := s.now) ⟨room'', port''⟩ loaded last held address
      rw [unloaded] at act
      exact exec_stackRow rfl (runOp_passes (.inr rfl) started run lines fin (((ActsWithin.one reads).trans takes).trans (.one act)) (by decide) rfl rfl rfl)
    · subst bad
      have act := stxAct_issues (now := s.now) ⟨room'', port''⟩ loaded last held address (issueStore_asks fullMask_ne_zero sends)
      rw [unloaded] at act
      exact exec_stackRow rfl (runOp_asks (.inr rfl) started run lines fin (((ActsWithin.one reads).trans takes).trans (.one act)) (by decide) rfl rfl)

end Sys2Proof.Machine
end

section
/-! PROOFS. One line request at a time (O17). -/

namespace Sys2Proof.Machine
open Sys2Proof

/-! ### LDST_REQUEST_ISSUE (R228) -/

section OneLine
variable {now c n : Nat} {op : CoreOp} {x y z : Stack} {q r t : QEntry} {e : Engine} {u : Upsets} {stop : QEntry → Bool}

/-- An operation acts until the first act after which it is to stop. -/
theorem runActs_stops (m : Nat) (keeps : ∀ i ≤ n, ∀ w t, actsAfter now c op i x q = some (w, t) → stop q = stop t)
    (goes : stop q = false) (acts : actsAfter now c op n x q = some (y, r)) (act : engineAct now y c op r = .go z t) (stops : stop t = true) :
    runActs now c op stop (n + 1 + m) x q = putOp z c (opEngine op) t := by
  induction n generalizing x q with
  | zero =>
    cases acts
    rw [Nat.zero_add, Nat.add_comm, runActs, act]
    exact if_pos stops
  | succ n ih =>
    rw [actsAfter] at acts
    split at acts
    next w t' first =>
      have same : stop q = stop t' := keeps 1 (by omega) w t' (actsAfter_one first)
      have goes' : stop t' = false := same.symm.trans goes
      rw [Nat.add_right_comm, Nat.succ_add, runActs, first]
      refine (if_neg (by rw [goes']; decide)).trans ?_
      rw [Nat.add_right_comm]
      refine ih (fun i hi w t rest => same.symm.trans (keeps (i + 1) (by omega) w t ?_)) goes' acts
      rw [Nat.add_comm]
      exact actsAfter_append (actsAfter_one first) rest
    next => cases acts

/-- The oldest started operation of the queue with lines left issues its next line. -/
def issueNext (now : Nat) (x : Stack) (c : Nat) (e : Engine) (u : Upsets) : Stack :=
  match issuing x c e with
  | none => x
  | some (q, o) => if coreRuns x c then runActs now c o (fun y => decide (y.prog.i > q.prog.i)) actFuel (applyUpsets x u) q else x

theorem issueNext_issues (first : issuing x c e = some (q, op)) (run : (x.core c).run = .running) (fuel : n + 1 < actFuel)
    (keeps : ∀ m, m ≤ n → ∀ w r, actsAfter now c op m (applyUpsets x u) q = some (w, r) → r.prog.i = q.prog.i)
    (acts : actsAfter now c op n (applyUpsets x u) q = some (y, r)) (act : engineAct now y c op r = .go z t) (issued : q.prog.i < t.prog.i) :
    issueNext now x c e u = putOp z c (opEngine op) t := by
  have left : actFuel = n + 1 + (actFuel - (n + 1)) := by omega
  have runs : coreRuns x c = true := decide_eq_true run
  rw [issueNext, first]
  refine (if_pos runs).trans ?_
  rw [left]
  refine runActs_stops _ (fun m hm w r after => ?_) (by simp) acts act (decide_eq_true issued)
  rw [keeps m hm w r after]

theorem issueNext_idle (h : issuing x c e = none ∨ (x.core c).run ≠ .running) : issueNext now x c e u = x := by
  unfold issueNext
  split
  next => rfl
  next first =>
    refine if_neg ?_
    simpa [first, coreRuns] using h

end OneLine

/-- Settles O17: the acts before the next request keep the count of lines, and the act that raises it is the last. -/
theorem oneLineRequestAtATime : Obligations.OneLineRequestAtATime := by
  intro s a e u x c
  refine ⟨fun q op n y q' z q'' first run fuel keeps acts act issued => ?_, fun idle => ?_⟩
  · exact exec_stackRow rfl (issueNext_issues (u := u) first run fuel keeps acts act issued)
  · exact exec_stackRow_idle rfl (issueNext_idle (now := s.now) (u := u) idle)

end Sys2Proof.Machine
end

section
/-! PROOFS. The results of VX on INT32 and of SX (O11): words as numbers, the comparisons by order, and the operations one by one. -/

namespace Sys2Proof.Machine
open Sys2Proof

/-! ### Words as numbers (R219) -/

section Numbers
variable {w : Nat} (a b c : BitVec w)

theorem toNat_mulAdd : (a * b + c).toNat = (a.toNat * b.toNat + c.toNat) % 2 ^ w := by
  rw [BitVec.toNat_add, BitVec.toNat_mul, Nat.mod_add_mod]

theorem toInt_signedMin : (if a.toInt < b.toInt then a else b).toInt = min a.toInt b.toInt := by
  split <;> omega

theorem toInt_signedMax : (if a.toInt < b.toInt then b else a).toInt = max a.toInt b.toInt := by
  split <;> omega

/-- The absolute value of the most negative number is its own bits. -/
theorem toNat_signedAbs : (if a.toInt < 0 then -a else a).toNat = a.toInt.natAbs := by
  have abs : (if a.toInt < 0 then -a else a) = a.abs := by
    simp only [BitVec.abs, BitVec.msb_eq_toInt, decide_eq_true_eq]
    rfl
  have below := a.isLt
  rw [abs, BitVec.toNat_abs, BitVec.toInt_eq_msb_cond]
  split <;> omega

theorem toNat_shiftUp (n : Nat) : (a <<< n).toNat = (a.toNat * 2 ^ n) % 2 ^ w := by
  rw [BitVec.toNat_shiftLeft, Nat.shiftLeft_eq]

theorem toNat_shiftDown (n : Nat) : (a >>> n).toNat = a.toNat / 2 ^ n := by
  rw [BitVec.toNat_ushiftRight, Nat.shiftRight_eq_div_pow]

theorem toInt_shiftSigned (n : Nat) : (a.sshiftRight n).toInt = a.toInt / 2 ^ n := by
  rw [BitVec.toInt_sshiftRight, Int.shiftRight_eq_div_pow]
  norm_cast

/-- A value of 32 bits in a word of 64 leaves the upper half at 0. -/
theorem toNat_upperZero (x : BitVec 32) : (x.setWidth 64).toNat < 2 ^ 32 := by
  rw [BitVec.toNat_setWidth]
  exact Nat.lt_of_le_of_lt (Nat.mod_le _ _) x.isLt

/-- An immediate in the upper half. -/
theorem toNat_upperImm (imm : BitVec 32) : (imm.setWidth 64 <<< 32).toNat = imm.toNat * 2 ^ 32 := by
  have below := imm.isLt
  rw [toNat_shiftUp, BitVec.toNat_setWidth]
  omega

end Numbers

/-! ### Comparisons (R220) -/

/-- A comparison on INT32 says whether `p` holds where it does so for each order of its operands. -/
theorem cmpEl_int {a b : BitVec 32} {lt eq gt un : Bool} {p : Prop} [Decidable p] (less : a.toInt < b.toInt → decide p = lt)
    (same : a.toInt = b.toInt → decide p = eq) (more : b.toInt < a.toInt → decide p = gt) :
    cmpEl true a b lt eq gt un = if p then 1#32 else 0#32 := by
  have result : (if a.toInt < b.toInt then lt else if a = b then eq else gt) = decide p := by
    rcases Int.lt_trichotomy a.toInt b.toInt with h | h | h
    · rw [if_pos h, less h]
    · rw [if_neg (by omega), if_pos (BitVec.toInt_inj.mp h), same h]
    · rw [if_neg (by omega), if_neg (fun e => by rw [e] at h; omega), more h]
  rw [cmpEl, if_pos rfl, result, boolBits]
  simp only [decide_eq_true_eq]

section Words
variable {a b : Word} {p : Prop} [Decidable p]

theorem boolWord_decide : boolWord (decide p) = if p then 1#64 else 0#64 := by
  simp only [boolWord, decide_eq_true_eq]

theorem boolWord_eq : boolWord (decide (a = b)) = if a.toNat = b.toNat then 1#64 else 0#64 := by
  simp only [boolWord_decide, BitVec.toNat_inj]

theorem boolWord_ne : boolWord (decide (a ≠ b)) = if a.toNat = b.toNat then 0#64 else 1#64 := by
  simp only [boolWord_decide, BitVec.toNat_inj, ne_eq, ite_not]

end Words

/-- Settles O11: each operation by what it makes of its operands as numbers, each comparison by the three orders of its operands. -/
theorem vxInt32AndSxResults : Obligations.VxInt32AndSxResults := by
  constructor
  · intro a b c
    refine ⟨BitVec.toNat_add a b, BitVec.toInt_sub, BitVec.toNat_mul a b, toNat_mulAdd a b c, toInt_signedMin a b, toInt_signedMax a b, toNat_signedAbs a,
      BitVec.toInt_neg, rfl, fun zero => if_neg (not_not.mpr zero), fun some_ => if_pos some_,
      fun i hi => ⟨BitVec.getLsbD_and, BitVec.getLsbD_or, BitVec.getLsbD_xor⟩,
      toNat_shiftUp a _, toNat_shiftDown a _, toInt_shiftSigned a _, ?eq, ?ne, ?lt, ?le, ?gt, ?ge⟩
    case eq => exact cmpEl_int (fun _ => decide_eq_false (by omega)) (fun _ => decide_eq_true (by omega)) (fun _ => decide_eq_false (by omega))
    case ne =>
      rw [← ite_not]
      exact cmpEl_int (fun _ => decide_eq_true (by omega)) (fun _ => decide_eq_false (by omega)) (fun _ => decide_eq_true (by omega))
    case lt => exact cmpEl_int (fun _ => decide_eq_true (by omega)) (fun _ => decide_eq_false (by omega)) (fun _ => decide_eq_false (by omega))
    case le => exact cmpEl_int (fun _ => decide_eq_true (by omega)) (fun _ => decide_eq_true (by omega)) (fun _ => decide_eq_false (by omega))
    case gt => exact cmpEl_int (fun _ => decide_eq_false (by omega)) (fun _ => decide_eq_false (by omega)) (fun _ => decide_eq_true (by omega))
    case ge => exact cmpEl_int (fun _ => decide_eq_false (by omega)) (fun _ => decide_eq_true (by omega)) (fun _ => decide_eq_true (by omega))
  · intro imm a b c r
    refine ⟨BitVec.toNat_add a b, BitVec.toInt_sub, BitVec.toNat_mul a b, fun i hi => ⟨BitVec.getLsbD_and, BitVec.getLsbD_or, BitVec.getLsbD_xor⟩,
      toNat_shiftUp a _, toNat_shiftDown a _, toInt_shiftSigned a _, fun zero => if_neg (not_not.mpr zero), fun some_ => if_pos some_, rfl, ?lui,
      toInt_signedMin a b, toInt_signedMax a b, boolWord_eq, boolWord_ne, boolWord_decide, boolWord_decide, boolWord_decide, boolWord_decide, ?fp⟩
    case lui => exact toNat_upperImm imm
    case fp =>
      rintro k (rfl | rfl | rfl | rfl)
      all_goals exact toNat_upperZero _

end Sys2Proof.Machine
end

section
/-! PROOFS. How a request of a core is answered or sent again (O18). -/

namespace Sys2Proof.Machine
open Sys2Proof

section Answers
variable {x : Stack} {c id : Nat} {r : CoreReq} {op : CoreOp} {l : Line} {fails : Nat} {failing : BitVec 16}

/-! ### LINE_LAND (R228, R231, R277) -/

/-- With no check injected a transfer fails as often as its operand says. -/
theorem transferFails_none {unit checker : Nat} (few : fails ≤ 4) (noInject : tget (fun _ => 0) x.inject (checkerKey unit checker) = 0) :
    transferFails x unit checker fails = (fails, false, x) := by
  simp [transferFails, noInject, Nat.min_eq_right few]

/-- What `fails` failed transfers over the bond of core `c` raise. -/
def bondFaults (x : Stack) (c fails : Nat) : Stack :=
  let u := haSlice (coreSite x c)
  let bond := (List.range (min fails 3)).foldl (fun y _ => raise y { source := fBondReplay, addr := u, core := some c }) x
  if fails = 4 then siteFailed (raise bond { source := fBondFault, addr := u, core := some c }) (coreSite x c) else bond

theorem bondFaults_eq (few : fails ≤ 4) :
    (let y := raiseReplays x fBondReplay fBondFault (haSlice (coreSite x c)) fails (some c) false
     if fails ≥ 4 then markInjected false y.bus.length (siteFailed y (coreSite x c)) else y) = bondFaults x c fails := by
  rcases Nat.lt_or_eq_of_le few with fewer | rfl
  · simp only [raiseReplays, bondFaults, ge_iff_le, if_neg (Nat.not_le.mpr fewer), if_neg (Nat.ne_of_lt fewer)]
  · rfl

theorem acceptedLine_eq (few : fails ≤ 4) :
    acceptedLine l fails failing false = if fails = 4 then { l with marks := l.marks ||| failing } else l := by
  have fourth : fails ≥ 4 ↔ fails = 4 := by omega
  simp [acceptedLine, fourth]

theorem Stack.core_foldl_raise {α : Type} (k : Raise) (c : Nat) (ls : List α) (x : Stack) : (ls.foldl (fun y _ => raise y k) x).core c = x.core c := by
  induction ls generalizing x with
  | nil => rfl
  | cons _ _ ih => exact ih (raise x k)

theorem Stack.core_siteFailed (x : Stack) (p c : Nat) : (siteFailed x p).core c = x.core c := by
  unfold siteFailed
  dsimp only
  split <;> rfl

theorem core_bondFaults : (bondFaults x c fails).core c = x.core c := by
  rw [bondFaults]
  split
  · rw [Stack.core_siteFailed, Stack.core_raise, Stack.core_foldl_raise]
  · exact Stack.core_foldl_raise _ _ _ _

variable (found : findReq x c id = some r)
include found

theorem lineLand_lands (few : fails ≤ 4) (answer : r.answer = .line l) (run : (x.core c).run = .running) (owner : reqOp x c r = some op)
    (noInject : tget (fun _ => 0) x.inject (checkerKey (haSlice (coreSite x c)) 1) = 0) :
    lineLand x c id fails failing [] = settleFaulted (finishReq
      (landLine (bondFaults x c fails) c (ldstData op) r.uid r.i (if fails = 4 then { l with marks := l.marks ||| failing } else l)) c r) c := by
  have none_ : applyUpsets x [] = x := rfl
  have runs : coreRuns (bondFaults x c fails) c = true := decide_eq_true ((congrArg Core.run core_bondFaults).trans run)
  have owner' : reqOp (bondFaults x c fails) c r = some op := by rw [reqOp, core_bondFaults]; exact owner
  simp only [lineLand, found, answer, none_, transferFails_none few noInject]
  rw [bondFaults_eq few, if_pos runs, owner', acceptedLine_eq few]

/-! ### STORE_ACK and REQUEST_ERROR_ANSWER (R228, R232) -/

theorem storeAck_acked (answer : r.answer = .acked) : storeAck x c id = settleFaulted (finishReq x c r) c := by
  simp only [storeAck, found, if_pos answer]

theorem errorAnswer_answers {status : Nat} (answer : r.answer = .error status) (whole : r.parts = 0) (run : (x.core c).run = .running)
    (owner : reqOp x c r = some op) :
    errorAnswer x c id =
      let y := if r.write then x else landLine x c (ldstData op) r.uid r.i Line.lost
      settleFaulted (finishReq
        (raiseCore y c r.e (qposOf ((y.core c).queue r.e) r.uid) (if status = stNodeLost then fRemoteLost else fMemAddr)) c r) c := by
  have runs : coreRuns x c = true := decide_eq_true run
  simp only [errorAnswer, found, answer, whole, ne_eq, not_true_eq_false, if_false, if_pos runs, owner]

end Answers

/-! ### RETRY_LATER_RESEND (R228, R393, R369) -/

section Resend
variable {now c id tag l : Nat} {x : Stack} {txn : Txn}

/-- The refused accesses inside the stack of request `id` of core `c` whose back-off has passed go to their vault controllers again. -/
def accessesAgain (now c id : Nat) (y : Stack) : Stack :=
  { y with entering := y.entering.map (fun r =>
    match r.origin, r.refused with
    | .core d i _, some t => if d = c ∧ i = id ∧ t ≤ now then { r with refused := none } else r
    | _, _ => r) }

theorem resendReq_none (none_ : resendable now x c id = []) : resendReq now x c id = accessesAgain now c id x := by
  rw [resendReq, none_]
  rfl

variable (one : resendable now x c id = [(tag, txn)])
include one

theorem resendReq_sends (link : egressLink x txn.pkt.dst = some l) :
    resendReq now x c id =
      let k := { txn.pkt with resend := true }
      accessesAgain now c id (sendOn now
        { x with router := { x.router with tags := tput x.router.tags tag { txn with pkt := k, link := l, state := .open_ } } } l k) := by
  simp only [resendReq, one, List.foldl, link]
  rfl

theorem resendReq_unreachable (noLink : egressLink x txn.pkt.dst = none) :
    resendReq now x c id = accessesAgain now c id (failTxn x tag stNodeLost) := by
  simp only [resendReq, one, List.foldl, noLink]
  rfl

end Resend

/-- Settles O18: each row by the lemma of its case. -/
theorem requestsAreAnsweredOrSentAgain : Obligations.RequestsAreAnsweredOrSentAgain := by
  refine ⟨fun s a id r op found run owner => ⟨fun l fails failing answer noInject => ?lands, fun acked => ?acked, fun status answer whole => ?error⟩,
    fun s a id => ⟨fun none_ => ?none_, fun tag txn l one link => ?again, fun tag txn one noLink => ?lost⟩⟩
  case lands => exact exec_stackRow rfl (lineLand_lands found (Nat.le_of_lt_succ fails.isLt) answer run owner noInject)
  case acked => exact exec_stackRow rfl (storeAck_acked found acked)
  case error => exact exec_stackRow rfl (errorAnswer_answers found answer whole run owner)
  case none_ => exact exec_stackRow rfl (resendReq_none none_)
  case again => exact exec_stackRow rfl (resendReq_sends one link)
  case lost => exact exec_stackRow rfl (resendReq_unreachable one noLink)
end Sys2Proof.Machine
end

section
/-! PROOFS. Responses, timeouts and freed tags at a requester (O36). -/

namespace Sys2Proof.Machine
open Sys2Proof

/-! ### A packet that may answer (R374, R441) -/

section Answer
variable {s : State} {l : LinkAt} {k : Packet} {ty : PktType} {i : Instr} {f : Stack → Packet → Stack} {y : Stack}

theorem exec_answerRow_away (hi : exec i s = .next (onAnswer s l k ty f)) (away : arrives (s.stack l.st) l.l.val k ty = false) :
    exec i s = .next (settleJob s (s.stack l.st).part) := by
  rw [hi, onAnswer, onPacket, if_neg (ne_true_of_eq_false away)]

/-- A packet that arrives has its effect on the stack that has received it. -/
theorem exec_answerRow (hi : exec i s = .next (onAnswer s l k ty f)) (comes : arrives (s.stack l.st) l.l.val k ty = true)
    (hf : f (received (s.stack l.st) l.l.val k).2 (received (s.stack l.st) l.l.val k).1 = y) :
    exec i s = .next (settleJob (s.setStack l.st y) (s.stack l.st).part) := by
  rw [hi, onAnswer, onPacket, if_pos comes, State.onStack, ← hf]

end Answer

/-! ### The transaction that a response ends (R389, R393, R405) -/

/-- The stack with a tag freed and its request answered. -/
def tagAnswered (x : Stack) (tag : Nat) (t : Txn) (a : PartAnswer) : Stack :=
  answerCore { x with router := { x.router with tags := tdel x.router.tags tag } } t.for_.core t.for_.req t.for_.sub a

section Response
variable {now : Nat} {x : Stack} {k : Packet} {p : Txn → PartAnswer} {t : Txn}

theorem responseArrive_discards (h : columnsHeld x = true ∨ openTag x k.tag = none) : responseArrive x k p = x := by
  rw [responseArrive]
  split
  next => rfl
  next free => rw [h.resolve_left free]

theorem responseArrive_ends (free : columnsHeld x = false) (opened : openTag x k.tag = some t) : responseArrive x k p = tagAnswered x k.tag t (p t) := by
  rw [responseArrive, if_neg (ne_true_of_eq_false free), opened]
  rfl

theorem errArrive_discards (h : columnsHeld x = true ∨ openTag x k.tag = none) : errArrive now x k = x := by
  rw [errArrive]
  split
  next =>
    split
    next => rfl
    next free => rw [h.resolve_left free]
  next => exact responseArrive_discards h

theorem errArrive_ends (free : columnsHeld x = false) (opened : openTag x k.tag = some t) (final : k.status ≠ stRetryLater) :
    errArrive now x k = tagAnswered x k.tag t (.error k.status) := by
  rw [errArrive, if_neg final]
  exact responseArrive_ends free opened

theorem errArrive_waits (free : columnsHeld x = false) (opened : openTag x k.tag = some t) (later : k.status = stRetryLater) :
    errArrive now x k = { x with router := { x.router with tags := tput x.router.tags k.tag { t with state := .refused (now + k.backoff * 20) } } } := by
  rw [errArrive, if_pos later, if_neg (ne_true_of_eq_false free), opened]
  rfl

end Response

/-- What the row `i` of a response of type `ty` makes of the module, where the response gives the answer `a`. -/
def ResponseRow (s : State) (l : LinkAt) (k0 : Packet) (ty : PktType) (i : Instr) (a : PartAnswer) : Prop :=
  let k := (received (s.stack l.st) l.l.val k0).1
  let x := (received (s.stack l.st) l.l.val k0).2
  let part := (s.stack l.st).part
  (arrives (s.stack l.st) l.l.val k0 ty = false → exec i s = .next (settleJob s part))
  ∧ (arrives (s.stack l.st) l.l.val k0 ty = true →
    (columnsHeld x = true ∨ openTag x k.tag = none → exec i s = .next (settleJob (s.setStack l.st x) part))
    ∧ (∀ t, columnsHeld x = false → openTag x k.tag = some t →
      (ty ≠ .errRsp ∨ k.status ≠ stRetryLater → exec i s = .next (settleJob (s.setStack l.st (tagAnswered x k.tag t a)) part))
      ∧ (ty = .errRsp → k.status = stRetryLater → exec i s = .next (settleJob (s.setStack l.st { x with router := { x.router with
          tags := tput x.router.tags k.tag { t with state := .refused (s.now + k.backoff * 20) } } }) part))))

section Rows
variable {s : State} {l : LinkAt} {k0 : Packet} {ty : PktType} {i : Instr}

theorem responseRow_plain {p : Packet → PartAnswer} (hi : exec i s = .next (onAnswer s l k0 ty (fun x k => responseArrive x k (fun _ => p k))))
    (plain : ty ≠ .errRsp) : ResponseRow s l k0 ty i (p (received (s.stack l.st) l.l.val k0).1) :=
  ⟨exec_answerRow_away hi, fun comes => ⟨fun lost => exec_answerRow hi comes (responseArrive_discards lost), fun _ free opened =>
    ⟨fun _ => exec_answerRow hi comes (responseArrive_ends free opened), fun error => absurd error plain⟩⟩⟩

theorem responseRow_error : ResponseRow s l k0 .errRsp (.errRsp l k0) (.error (received (s.stack l.st) l.l.val k0).1.status) :=
  ⟨exec_answerRow_away rfl, fun comes => ⟨fun lost => exec_answerRow rfl comes (errArrive_discards lost), fun _ free opened =>
    ⟨fun final => exec_answerRow rfl comes (errArrive_ends free opened (final.resolve_left (not_not.mpr rfl))), fun _ later =>
      exec_answerRow rfl comes (errArrive_waits free opened later)⟩⟩⟩

end Rows

/-! ### REQ_TIMEOUT and TAG_REUSE (R390, R398) -/

section Timeout
variable {now tag : Nat} {x : Stack} {t : Txn}

theorem reqTimeout_multicast (multi : x.router.mcs.any (fun m => decide (m.tag = tag)) = true) : reqTimeout now x tag = mcCover x tag 0 255 true :=
  if_pos multi

theorem reqTimeout_request (single : x.router.mcs.any (fun m => decide (m.tag = tag)) = false) (opened : openTag x tag = some t) :
    reqTimeout now x tag = raise (answerCore { x with router := { x.router with tags := tput x.router.tags tag { t with state := .timedOut now } } }
      t.for_.core t.for_.req t.for_.sub (.error stNodeLost)) { source := fIvtTimeout, addr := haRouter } := by
  rw [reqTimeout, if_neg (ne_true_of_eq_false single), opened]

theorem tagReuse_frees {w : Nat} (found : tfind x.router.tags tag = some t) (over_ : t.state = .timedOut w) :
    tagReuse x tag = { x with router := { x.router with tags := tdel x.router.tags tag } } := by
  simp only [tagReuse, found, over_]

theorem tagReuse_free (none_ : tfind x.router.tags tag = none) : tagReuse x tag = x := by
  simp only [tagReuse, none_]

end Timeout

/-- Settles O36: each response by the lemma of its kind, the timeout and the freed tag by their cases. -/
theorem responsesEndTransactions : Obligations.ResponsesEndTransactions := by
  intro s
  refine ⟨fun l k0 => ?responses, fun st tag => ⟨fun multi => ?multicast, fun t single opened => ?request, fun t w found timedOut => ?frees,
    fun none_ => ?free⟩⟩
  case responses =>
    exact ⟨responseRow_plain (p := fun k => .line (rspLine k)) rfl (by decide), responseRow_plain (p := fun _ => .ack) rfl (by decide),
      responseRow_plain (p := fun k => .old (rspOld k).1 (rspOld k).2) rfl (by decide), responseRow_error⟩
  case multicast => exact congrArg Host.Outcome.next (onMember_at (reqTimeout_multicast multi))
  case request => exact congrArg Host.Outcome.next (onMember_at (reqTimeout_request single opened))
  case frees => exact exec_stackRow rfl (tagReuse_frees found timedOut)
  case free => exact exec_stackRow_idle rfl (tagReuse_free none_)

end Sys2Proof.Machine
end

section
/-! PROOFS. Vault controllers (O23): a request that enters a queue, the rate window, a refresh, and the one access that a cycle grants. -/

namespace Sys2Proof.Machine
open Sys2Proof

/-! ### A row at its cycle -/

/-- What a row at a cycle makes of its stack, it makes of the module at that cycle. -/
theorem onStAt_eq {s : State} {st : StackIx} {t : Nat} {f : Nat → Stack → Stack} {y : Stack} (hf : f (s.atCycle t).now (s.stack st) = y) :
    onStAt s st t f = .next ((s.atCycle t).setStack st y) := by
  have stack : (s.atCycle t).stack st = s.stack st := by
    unfold State.atCycle
    split <;> rfl
  rw [onStAt, State.onStack, stack, hf]

section Rows
variable {s : State} {p : SiteAt} {t : Nat} {y : Stack}

theorem exec_vaultRequestArrive {id : Nat} (h : vaultArrive (s.atCycle t).now (s.stack p.st) p.s.val id = y) :
    exec (.vaultRequestArrive p id t) s = .next ((s.atCycle t).setStack p.st y) := by
  change execVaultRequestArrive p id t s = _
  exact onStAt_eq h

theorem exec_rateWindowStart : exec (.rateWindowStart p t) s =
    .next ((s.atCycle t).setStack p.st (rateWindow (s.atCycle t).now (s.stack p.st) p.s.val)) := by
  change execRateWindowStart p t s = _
  exact onStAt_eq rfl

theorem exec_refreshDue {bank : Fin 16} {layer : Fin 8} (h : refreshDue (s.atCycle t).now (s.stack p.st) p.s.val bank.val layer.val = y) :
    exec (.refreshDue p bank layer t) s = .next ((s.atCycle t).setStack p.st y) := by
  change execRefreshDue p bank layer t s = _
  exact onStAt_eq h

theorem exec_vaultGrant {u : DramUpsets} (h : vaultGrant (s.atCycle t).now (s.stack p.st) p.s.val u = y) :
    exec (.vaultGrant p t u) s = .next ((s.atCycle t).setStack p.st y) := by
  change execVaultGrant p t u s = _
  exact onStAt_eq h

end Rows

/-! ### VAULT_REQUEST_ARRIVE (R237, R392, R592) -/

section Arrive
variable {now p id : Nat} {x : Stack} {a : Access}

/-- An access of the site's own core enters the top-end queue. -/
theorem vaultArrive_top (free : columnsHeld x = false) (found : (x.vault p).entering.find? (fun a => decide (a.id = id)) = some a)
    (room : (x.vault p).top.length < 64) (first : firstOfLine x (x.vault p).entering a = true) :
    vaultArrive now x p id = x.setVault p { x.vault p with
      entering := (x.vault p).entering.filter (fun y => decide (y.id ≠ id)), top := (x.vault p).top ++ [{ a with arrived := now }] } := by
  simp only [vaultArrive, found]
  rw [if_neg (ne_true_of_eq_false free), if_pos ⟨room, first⟩]

section Router
variable (free : columnsHeld x = false) (notOwn : (x.vault p).entering.find? (fun a => decide (a.id = id)) = none)
  (found : x.entering.find? (fun a => decide (a.id = id) && a.refused.isNone) = some a) (site : routerSite x a.addr = some p)
  (column : takesColumn a = true) (first : firstOfLine x x.entering a = true)
include free notOwn found site column first

/-- An access of the router enters the base-end queue. -/
theorem vaultArrive_base (room : (x.vault p).base.length < 256) :
    vaultArrive now x p id = { x.setVault p { x.vault p with base := (x.vault p).base ++ [{ a with arrived := now }] } with
      entering := x.entering.filter (fun y => decide (y.id ≠ id)) } := by
  simp only [vaultArrive, notOwn, found]
  rw [if_neg (ne_true_of_eq_false free), if_neg (by simp [site, column, first]), if_pos (show _ < baseSize from room)]

/-- A full base-end queue refuses an access of a core for its back-off. -/
theorem vaultArrive_refused {c req sub : Nat} (full : 256 ≤ (x.vault p).base.length) (core : a.origin = .core c req sub) :
    vaultArrive now x p id = { x with entering := x.entering.map (fun y =>
      if y.id = id then { y with refused := some (now + backoffCycles (creditBackoff x)) } else y) } := by
  simp only [vaultArrive, notOwn, found, core]
  rw [if_neg (ne_true_of_eq_false free), if_neg (by simp [site, column, first]), if_neg (Nat.not_lt.mpr (show baseSize ≤ _ from full))]

end Router
end Arrive

/-! ### REFRESH_DUE (R240, R248, R249) -/

section Refresh
variable {now p bank layer : Nat} {x : Stack}

theorem refreshDue_selfRefresh (sleeps : (x.vault p).selfRefresh.getLsbD layer = true) : refreshDue now x p bank layer = x := if_pos sleeps

section Counted
variable (awake : (x.vault p).selfRefresh.getLsbD layer = false)
include awake

/-- A refresh holds its bank from when it is free. -/
theorem refreshDue_holds (clear : (x.vault p).rmw.any (fun r => decide (r.1 = layer * 16 + bank)) = false) :
    refreshDue now x p bank layer = x.setVault p { x.vault p with
      busy := tset (fun _ => 0) (x.vault p).busy (layer * 16 + bank) (max now (tget (fun _ => 0) (x.vault p).busy (layer * 16 + bank)) + 100)
      refreshes := tset (fun _ => 0) (x.vault p).refreshes (layer * 16 + bank)
        (tget (fun _ => 0) (x.vault p).refreshes (layer * 16 + bank) + 1) } := by
  simp only [refreshDue, awake, clear, Bool.false_eq_true, if_false]

/-- Behind an RMW whose write is still to come a refresh is owed. -/
theorem refreshDue_owes (waits : (x.vault p).rmw.any (fun r => decide (r.1 = layer * 16 + bank)) = true) :
    refreshDue now x p bank layer = x.setVault p { x.vault p with
      owed := tset (fun _ => 0) (x.vault p).owed (layer * 16 + bank) (tget (fun _ => 0) (x.vault p).owed (layer * 16 + bank) + 1)
      refreshes := tset (fun _ => 0) (x.vault p).refreshes (layer * 16 + bank)
        (tget (fun _ => 0) (x.vault p).refreshes (layer * 16 + bank) + 1) } := by
  simp only [refreshDue, awake, waits, Bool.false_eq_true, if_false, if_true]

end Counted
end Refresh

/-! ### VAULT_GRANT (R240 to R242, R245, R261, R271) -/

/-- An access that one row command performs whole; an RMW takes a second grant for its write. -/
abbrev OneRowCommand (a : Access) : Prop := a.kind = .read ∨ a.kind = .write ∨ (∃ i j o c, a.kind = .atomic i j o c) ∨ ∃ w, a.kind = .row w

section Grant
variable {now p k kind : Nat} {x : Stack} {a : Access} {u : DramUpsets}

/-- A line of DRAM read or written joins the transfers in flight. -/
theorem granted_flies {top : Bool} (bank : bankKey a.addr = some k) (one : OneRowCommand a) :
    granted now x p top a =
      let done := perform x p { a with granted := now }
      let w := done.1.vault p
      done.1.setVault p { w with
        busy := tset (fun _ => 0) w.busy k (now + bankHold x a)
        slots := match slotOf (x.vault p).path top a now with | some sl => w.slots ++ [sl] | none => w.slots
        flight := w.flight ++ [done.2] } := by
  rcases one with h | h | ⟨i, j, o, c, h⟩ | ⟨w, h⟩ <;> simp only [granted, bank, h] <;> rfl

theorem grantRmwWrite_none (none_ : (x.vault p).rmw = []) : grantRmwWrite x p now = none := by
  simp only [grantRmwWrite, none_, List.find?_nil]

/-- A cycle that has its row command, or in which the column's coils are tested, grants nothing. -/
theorem vaultGrant_closed (closed : ((flipDram x u).vault p).lastGrant = some now ∨ testing (flipDram x u) p = true) :
    vaultGrant now x p u = flipDram x u := if_pos closed

section Open
variable (first : ((flipDram x u).vault p).lastGrant ≠ some now) (untested : testing (flipDram x u) p = false)
  (noRmw : ((flipDram x u).vault p).rmw = [])
include first untested noRmw

/-- With no write of an RMW to come a cycle grants what `pickGrant` picks. -/
theorem vaultGrant_none (idle : pickGrant (flipDram x u) p now = none) : vaultGrant now x p u = flipDram x u := by
  simp only [vaultGrant, grantRmwWrite_none noRmw, idle]
  exact if_neg (by simp [first, untested])

theorem vaultGrant_picked (picked : pickGrant (flipDram x u) p now = some (kind, a))
    (allowed : nbuProtected (dequeue (flipDram x u) p a.id) a = false) :
    vaultGrant now x p u = granted now (countGrant (dequeue (flipDram x u) p a.id) p now a) p (decide (kind = 0)) a := by
  simp only [vaultGrant, grantRmwWrite_none noRmw, picked]
  rw [if_neg (by simp [first, untested]), if_neg (ne_true_of_eq_false allowed)]

end Open
end Grant

/-- Settles O23: each row by the lemma of its case. -/
theorem vaultControllersTakeAndGrant : Obligations.VaultControllersTakeAndGrant := by
  refine ⟨fun s p id t => ⟨fun a free found room first => ?top, fun a free notOwn found site column first => ⟨fun room => ?base,
    fun c req sub full core => ?refused⟩, exec_rateWindowStart, fun bank layer => ⟨fun sleeps => ?sleeps, fun awake =>
    ⟨fun clear => ?refresh, fun waits => ?owed⟩⟩⟩, fun s p t u => ⟨fun closed => ?closed, fun first untested noRmw idle => ?idle, ?granted⟩⟩
  case top => exact exec_vaultRequestArrive (vaultArrive_top free found room first)
  case base => exact exec_vaultRequestArrive (vaultArrive_base free notOwn found site column first room)
  case refused => exact exec_vaultRequestArrive (vaultArrive_refused free notOwn found site column first full core)
  case sleeps => exact exec_refreshDue (refreshDue_selfRefresh sleeps)
  case refresh => exact exec_refreshDue (refreshDue_holds awake clear)
  case owed => exact exec_refreshDue (refreshDue_owes awake waits)
  case closed => exact exec_vaultGrant (vaultGrant_closed closed)
  case idle => exact exec_vaultGrant (vaultGrant_none first untested noRmw idle)
  case granted =>
    intro kind a k first untested noRmw picked allowed bank one
    exact exec_vaultGrant ((vaultGrant_picked first untested noRmw picked allowed).trans (granted_flies bank one))

end Sys2Proof.Machine
end

section
/-! PROOFS. Soft repairs (O25): the repair that is taken up with its spare, the row operations in the tile, and the entry that is taken at the end. -/

namespace Sys2Proof.Machine
open Sys2Proof

/-! ### A repair taken up (R281, R285) -/

/-- A row and a column group as repairs that firmware is to make name them. -/
abbrev rowWanted (layer bank row : Nat) : Repair := ⟨false, layer, bank, row, 0, 0⟩
abbrev groupWanted (layer grp : Nat) : Repair := ⟨true, layer, 0, 0, grp, 0⟩

/-- The stack with a repair no longer to be made. -/
def repairTaken (x : Stack) (p : Nat) (r : Repair) : Stack := x.setVault p { x.vault p with wanted := (x.vault p).wanted.erase r }

/-- A repair with the spare that it takes. -/
def repairSpared (x : Stack) (p : Nat) (r : Repair) : Repair :=
  { r with spare := freeSpare (repairTaken x p r) p r (if r.group then 4 else 32) }

/-- A repair for which no spare or no soft entry is left. -/
def repairExhausted (x : Stack) (p : Nat) (r : Repair) : Stack :=
  raise (repairTaken x p r) { source := fRepairExhausted, addr := haVault p, vault := siteCore (repairTaken x p r) p }

section Take
variable {x : Stack} {p : Nat} {r : Repair}

theorem takeRepair_unwanted (unwanted : (x.vault p).wanted.contains r = false) : takeRepair x p r = (x, none) := by
  simp only [takeRepair, unwanted, Bool.not_false, if_true]

variable (wanted : (x.vault p).wanted.contains r = true)
include wanted

theorem takeRepair_exhausted (full : repairRoom (repairTaken x p r) p r = false) : takeRepair x p r = (repairExhausted x p r, none) := by
  simp only [takeRepair, wanted, Bool.not_true, Bool.false_eq_true, if_false]
  exact if_neg (ne_true_of_eq_false full)

theorem takeRepair_spared (room : repairRoom (repairTaken x p r) p r = true) :
    takeRepair x p r = (repairTaken x p r, some (repairSpared x p r)) := by
  simp only [takeRepair, wanted, Bool.not_true, Bool.false_eq_true, if_false]
  exact if_pos room

end Take

theorem enableRepair_entry {x : Stack} {p n : Nat} {r : Repair} (free : freeSoft x p = some n) :
    enableRepair x p r = updateSpares (setReg x (rVltSoftRepair p n) (softWord r)) p := by
  simp only [enableRepair, free]

/-! ### A row operation in the tile (R240, R247) -/

/-- A value other than the default is read back from any table. -/
theorem tget_tset_listed {α : Type} [DecidableEq α] {d : Nat → α} {t : Tbl α} {k : Nat} {v : α} (h : v ≠ d k) : tget d (tset d t k v) k = v := by
  rw [tset, if_neg h, tget, tfind_tput_same, Option.getD_some]

/-- A vault controller that has granted is read back as it was put. -/
theorem vault_setVault_granted {x : Stack} {p now : Nat} {v : VaultCtl} (h : v.lastGrant = some now) : (x.setVault p v).vault p = v :=
  tget_tset_listed (fun reset => by rw [reset] at h; cases h)

/-- So is one whose bank is then held. -/
theorem holdBank_granted {x : Stack} {p now a k hold : Nat} {v : VaultCtl} (bank : bankKey a = some k) (h : v.lastGrant = some now) :
    (holdBank (x.setVault p v) p now a hold).vault p = { v with busy := tset (fun _ => 0) v.busy k (now + hold) } := by
  simp only [holdBank, bank, vault_setVault_granted h]
  exact vault_setVault_granted h

/-- A row command of stack firmware has waited two cycles. -/
theorem firmwareMay_waited {x : Stack} {p now : Nat} {transfer : Bool} {a : Access} (may : firmwareMay x p now transfer a = true) :
    a.arrived + 2 ≤ now := by
  simp only [firmwareMay, Bool.and_eq_true, decide_eq_true_eq] at may
  obtain ⟨⟨⟨⟨⟨_, _, waited⟩, _⟩, _⟩, _⟩, _⟩ := may
  exact waited

/-- A row operation that is granted holds its bank and is the grant of its cycle. -/
theorem tileRow_granted {now p a k hold since : Nat} {y z : Stack} (bank : bankKey a = some k) (granted : tileRow now y p a hold since = some z) :
    tget (fun _ => 0) (z.vault p).busy k = now + hold ∧ (z.vault p).lastGrant = some now := by
  rw [tileRow] at granted
  split at granted
  next => cases granted
  next may =>
    have waited : since + 2 ≤ now := firmwareMay_waited (by simpa using may)
    have later : now + hold ≠ 0 := by omega
    cases granted
    rw [holdBank_granted bank]
    · exact ⟨tget_tset_listed later, rfl⟩
    · rfl

/-! ### SOFT_ROW_REPAIR (R282, R285) -/

section RowRepair
variable {now p layer bank row : Nat} {x : Stack}

theorem softRowRepair_unwanted (unwanted : (x.vault p).wanted.contains (rowWanted layer bank row) = false) :
    softRowRepair now x p layer bank row = x := by
  rw [softRowRepair, takeRepair_unwanted unwanted]

section Wanted
variable (wanted : (x.vault p).wanted.contains (rowWanted layer bank row) = true)
include wanted

theorem softRowRepair_exhausted (full : repairRoom (repairTaken x p (rowWanted layer bank row)) p (rowWanted layer bank row) = false) :
    softRowRepair now x p layer bank row = repairExhausted x p (rowWanted layer bank row) := by
  rw [softRowRepair, takeRepair_exhausted wanted full]

variable (room : repairRoom (repairTaken x p (rowWanted layer bank row)) p (rowWanted layer bank row) = true)
include room

/-- A row operation that cannot be granted yet leaves the repair to be made. -/
theorem softRowRepair_waits (late : tileRow now (repairTaken x p (rowWanted layer bank row)) p
      (rowLine x p layer bank row) 200 (repairSince now x p) = none) :
    softRowRepair now x p layer bank row = waitRepair now x p := by
  simp only [softRowRepair, takeRepair_spared wanted room, late]

/-- The row is copied and the entry enabled in the one row operation. -/
theorem softRowRepair_copies {y : Stack} (granted : tileRow now (repairTaken x p (rowWanted layer bank row)) p
      (rowLine x p layer bank row) 200 (repairSince now x p) = some y) :
    softRowRepair now x p layer bank row =
      let y := y.setVault p { y.vault p with repairAt := none }
      enableRepair (if row < 12288 then copyRow y p (rowLine x p layer bank row) (fun _ => true) else y) p
        (repairSpared x p (rowWanted layer bank row)) := by
  simp only [softRowRepair, takeRepair_spared wanted room, granted]

end Wanted
end RowRepair

/-! ### SOFT_GROUP_REPAIR (R283, R285) -/

section GroupRepair
variable {now p layer grp : Nat} {x : Stack} {g : GroupRun}

theorem softGroupRepair_goes (found : groupRunOf (x.vault p) layer grp = some g) : softGroupRepair now x p layer grp = groupStep now x p g := by
  simp only [softGroupRepair, found]

section Begin
variable (none_ : groupRunOf (x.vault p) layer grp = none)
include none_

theorem softGroupRepair_unwanted (unwanted : (x.vault p).wanted.contains (groupWanted layer grp) = false) :
    softGroupRepair now x p layer grp = x := by
  simp only [softGroupRepair, none_, takeRepair_unwanted unwanted]

variable (wanted : (x.vault p).wanted.contains (groupWanted layer grp) = true)
include wanted

theorem softGroupRepair_exhausted (full : repairRoom (repairTaken x p (groupWanted layer grp)) p (groupWanted layer grp) = false) :
    softGroupRepair now x p layer grp = repairExhausted x p (groupWanted layer grp) := by
  simp only [softGroupRepair, none_, takeRepair_exhausted wanted full]

/-- A group repair begins at row 0 of its tile. -/
theorem softGroupRepair_begins (room : repairRoom (repairTaken x p (groupWanted layer grp)) p (groupWanted layer grp) = true) :
    softGroupRepair now x p layer grp =
      let y := repairTaken x p (groupWanted layer grp)
      let first : GroupRun := ⟨repairSpared x p (groupWanted layer grp), 0⟩
      groupStep now (y.setVault p { y.vault p with groups := (y.vault p).groups ++ [first] }) p first := by
  simp only [softGroupRepair, none_, takeRepair_spared wanted room]

end Begin

/-- The stack after the row operation of a group repair, its word copied. -/
def groupCopied (x z : Stack) (p : Nat) (g : GroupRun) : Stack :=
  if g.ptr / 16 < 12288 then copyRow z p (rowLine x p g.r.layer (g.ptr % 16) (g.ptr / 16)) (fun i => decide (i = g.r.grp / 4)) else z

theorem groupStep_waits (late : tileRow now x p (rowLine x p g.r.layer (g.ptr % 16) (g.ptr / 16)) 180 (repairSince now x p) = none) :
    groupStep now x p g = waitRepair now x p := by
  simp only [groupStep, late]

section Granted
variable {z : Stack} (granted : tileRow now x p (rowLine x p g.r.layer (g.ptr % 16) (g.ptr / 16)) 180 (repairSince now x p) = some z)
include granted

theorem groupStep_moves (more : g.ptr + 1 < groupOps) :
    groupStep now x p g =
      let w := groupCopied x z p g
      let u := { w.vault p with repairAt := none }
      w.setVault p { u with groups := u.groups.map (fun h => if h = g then { g with ptr := g.ptr + 1 } else h) } := by
  simp only [groupStep, granted]
  exact if_pos more

theorem groupStep_ends (last : groupOps ≤ g.ptr + 1) :
    groupStep now x p g =
      let w := groupCopied x z p g
      let u := { w.vault p with repairAt := none }
      enableRepair (w.setVault p { u with groups := u.groups.erase g }) p g.r := by
  simp only [groupStep, granted]
  exact if_neg (Nat.not_lt.mpr last)

end Granted
end GroupRepair

/-- Settles O25: a row repair, a group repair, its row operations, and the bank that a row operation holds. -/
theorem softRepairsTakeASpare : Obligations.SoftRepairsTakeASpare := by
  intro s p x v taken exhausted spared
  refine ⟨fun f => ⟨fun unwanted => ?rowKept, fun wanted full => ?rowFull, fun wanted room late => ?rowWaits, ?rowCopied⟩,
    fun f => ⟨fun g found => ?groupGoes, fun none_ => ⟨fun unwanted => ?groupKept, fun wanted full => ?groupFull, fun wanted room => ?groupBegins⟩⟩,
    fun y g => ⟨groupStep_waits, fun z granted => ⟨groupStep_moves granted, groupStep_ends granted⟩⟩,
    fun y z a k hold since => tileRow_granted⟩
  case rowKept => exact exec_stackRow_idle rfl (softRowRepair_unwanted unwanted)
  case rowFull => exact exec_stackRow rfl (softRowRepair_exhausted wanted full)
  case rowWaits => exact exec_stackRow rfl (softRowRepair_waits wanted room late)
  case rowCopied =>
    intro y n wanted room granted y' z free
    exact exec_stackRow rfl ((softRowRepair_copies wanted room granted).trans (enableRepair_entry free))
  case groupGoes => exact exec_stackRow rfl (softGroupRepair_goes found)
  case groupKept => exact exec_stackRow_idle rfl (softGroupRepair_unwanted none_ unwanted)
  case groupFull => exact exec_stackRow rfl (softGroupRepair_exhausted none_ wanted full)
  case groupBegins => exact exec_stackRow rfl (softGroupRepair_begins none_ wanted room)

end Sys2Proof.Machine
end

section
/-! PROOFS. The memory commands (O43): READ, WRITE, FILL and COPY by their shares, the in-tile row operations, and REPAIR_COMMIT. -/

namespace Sys2Proof.Machine
open Sys2Proof

/-! ### READ, WRITE, FILL, COPY (R236, R280, R290, R293, R594) -/

section BulkRow
variable {s : State} {st : StackIx} {r : CmdRef} {op : Nat} {k : Cmd} {i : Instr} {u : Stack → Stack}
  {b : Cmd → Stack → Stack ⊕ (Tbl (Nat × Nat) × Tbl (Nat × Nat))} {d : Cmd → BulkRun → Nat → Option (Line × BitVec 512 × Option Nat)}
  {f : Cmd → Stack → BulkRun → Stack} (hi : exec i s = onBulk s st r op (fun k x => runBulk s.now (u x) r (b k) (d k) (f k)))
  (started : startedCmd (s.stack st) r = some k) (hop : k.op = op)
include hi started hop

theorem bulkRow_runs : exec i s = .next (s.setStack st (runBulk s.now (u (s.stack st)) r (b k) (d k) (f k))) := by
  rw [hi, onBulk_started _ started hop]
  rfl

/-- In a base non-transit reset a memory command waits. -/
theorem bulkRow_held (keeps : u (s.stack st) = s.stack st) (held : columnsHeld (s.stack st) = true) : exec i s = .next s := by
  rw [bulkRow_runs hi started hop, keeps, runBulk_held held, State.setStack_self]

/-- A memory command by its presentations: it is refused or begins, goes on while lines are left, then ends. -/
theorem bulkRow_presented (free : columnsHeld (u (s.stack st)) = false) :
    (∀ t, bulkOf (u (s.stack st)) r = none → b k (u (s.stack st)) = .inl t → exec i s = .next (s.setStack st t))
    ∧ (∀ reads writes, bulkOf (u (s.stack st)) r = none → b k (u (s.stack st)) = .inr (reads, writes) →
      exec i s = .next (s.setStack st (beginBulk (beginCmd (u (s.stack st)) r) r reads writes)))
    ∧ (∀ q, bulkOf (u (s.stack st)) r = some q →
      (bulkOver q = false → exec i s = .next (s.setStack st (bulkStep s.now (u (s.stack st)) q (d k))))
      ∧ (bulkOver q = true → exec i s = .next (s.setStack st
        (f k { u (s.stack st) with bulk := (u (s.stack st)).bulk.filter (fun z => decide (z.id ≠ q.id)) } q)))) := by
  rw [bulkRow_runs hi started hop]
  refine ⟨fun t fresh refused => ?_, fun reads writes fresh begins => ?_, fun q runs => ⟨fun more => ?_, fun over_ => ?_⟩⟩
  · rw [runBulk_refused free fresh refused]
  · rw [runBulk_begins free fresh begins]
  · rw [runBulk_goes free runs more]
  · rw [runBulk_ends free runs over_]

end BulkRow

section ReadReply
variable {now : Nat} {k : Cmd} {x : Stack} {q : BulkRun}

/-- The bytes that a READ asks for, from the lines that its run has read. -/
def readBytes (q : BulkRun) (k : Cmd) : List (Byte × Bool) :=
  ((bulkBytes q (rangeLines (k.arg 0).toNat (k.arg 1).toNat)).drop ((k.arg 0).toNat % 512)).take (k.arg 1).toNat

/-- The data of the reply: the words that hold a byte of a poisoned word are zeros. -/
def readData (q : BulkRun) (k : Cmd) : List Byte :=
  (readBytes q k).zipIdx.map (fun e => if (poisonedWords (readBytes q k)).contains (e.2 / 32) then 0 else e.1.1)

/-- The reply of a READ: OK, or POISONED with the first poisoned word and their number, after one bite. -/
def readReply (now : Nat) (k : Cmd) (q : BulkRun) (x : Stack) : Stack :=
  match poisonedWords (readBytes q k) with
  | [] => replyAt now (actTick x) x k stOk [] (readData q k) q.unchecked
  | w :: rest =>
    let y := biteUnit x haController biteReply
    replyAt now (actTick y) y k stPoisoned [0, 0, 0, 0, 0, 0, bv 64 w, bv 64 (rest.length + 1)] (readData q k) q.unchecked

theorem finishRead_eq : finishRead now k x q = readReply now k q x := by
  rw [finishRead, ← readBytes, ← readData, readReply]
  cases poisonedWords (readBytes q k) with
  | nil => rfl
  | cons w rest => rfl

end ReadReply

/-! ### One access of a share (R431, R594) -/

section Issue
variable {now id i lo stop p : Nat} {y : Stack} {q : BulkRun}

/-- An access of a run asked for at a vault controller. -/
def bulkAsk (now : Nat) (y : Stack) (p : Nat) (q : BulkRun) (w : Bool) (lo : Nat) (l : Line) (m : BitVec 512) : Stack :=
  { y.setVault p { y.vault p with firm := (y.vault p).firm ++ [bulkAccess now y q w lo l m] } with nextId := y.nextId + 1 }

/-- A share without its first line. -/
def shareLeft (t : Tbl (Nat × Nat)) (i lo stop : Nat) : Tbl (Nat × Nat) := if lo + 512 < stop then tput t i (lo + 512, stop) else tdel t i

variable (found : y.bulk.find? (fun z => decide (z.id = id)) = some q) (site : routerSite y lo = some p)
include found site

section Reads
variable (share : tfind q.reads i = some (lo, stop))
include share

theorem issueRead_waits (waits : bulkWaits y p id false = true) : issueRead now id y i = y := by
  simp only [issueRead, found, share, site]
  exact if_pos waits

theorem issueRead_asks (free : bulkWaits y p id false = false) :
    issueRead now id y i =
      putBulk (bulkAsk now y p q false lo Line.zero 0) { q with reads := shareLeft q.reads i lo stop, asked := q.asked + 1 } := by
  simp only [issueRead, found, share, site]
  exact if_neg (ne_true_of_eq_false free)

end Reads

section Writes
variable {data : BulkRun → Nat → Option (Line × BitVec 512 × Option Nat)} (share : tfind q.writes i = some (lo, stop))
include share

theorem issueWrite_waits (waits : bulkWaits y p id true = true ∨ data q lo = none) : issueWrite now id data y i = y := by
  simp only [issueWrite, found, share, site]
  cases line : data q lo with
  | none => rfl
  | some e => exact if_pos (waits.resolve_right (by simp [line]))

theorem issueWrite_asks {l : Line} {m : BitVec 512} {used : Option Nat} (free : bulkWaits y p id true = false)
    (line : data q lo = some (l, m, used)) :
    issueWrite now id data y i = putBulk (bulkAsk now y p q true lo l m)
      { q with writes := shareLeft q.writes i lo stop, asked := q.asked + 1, lines := q.lines.filter (fun e => decide (some e.1 ≠ used)) } := by
  simp only [issueWrite, found, share, site, line]
  exact if_neg (ne_true_of_eq_false free)

end Writes
end Issue

/-! ### Commands that act as they start -/

theorem exec_cmdRow {s : State} {st : StackIx} {r : CmdRef} {op : Nat} {k : Cmd} {i : Instr} {f : Cmd → Stack → Stack} {y : Stack}
    (hi : exec i s = onCmd s st r op f) (started : CmdStarted s st r op k) (hf : f k (s.stack st) = y) : exec i s = .next (s.setStack st y) := by
  rw [hi, onCmd_started f started, hf]

/-! ### SCRUB and SET_REGION_TAG (R270, R287, R288) -/

section Tiles
variable {s : State} {st : StackIx} {r : CmdRef} {k : Cmd} {y : Stack}

/-- A run over the lines `left`, which begins, or ends at once with none. -/
def tilesBegun (now : Nat) (x : Stack) (r : CmdRef) (retag : Option Bool) (left : List (Nat × Nat × Nat)) (regions : BitVec 12) : Stack :=
  if left = [] then finishTiles now x (TileRun.of r retag left regions)
  else { beginCmd x r with tiles := x.tiles ++ [TileRun.of r retag left regions] }

section Begun
variable {now : Nat} {x : Stack} {retag : Option Bool} {left : List (Nat × Nat × Nat)} {regions : BitVec 12}

theorem tilesBegun_none (nothing : left = []) : tilesBegun now x r retag left regions = finishTiles now x (TileRun.of r retag [] regions) := by
  rw [tilesBegun, if_pos nothing, nothing]

theorem tilesBegun_some (some_ : left ≠ []) :
    tilesBegun now x r retag left regions = { beginCmd x r with tiles := x.tiles ++ [TileRun.of r retag left regions] } := if_neg some_

end Begun

/-- The lines of each vault that a SCRUB covers. -/
abbrev scrubShares (k : Cmd) : List (Nat × Nat × Nat) :=
  ((List.range 168).map (fun v => (v, vaultSpan (k.arg 0).toNat (k.arg 1).toNat v))).filter (fun e => decide (e.2.1 < e.2.2))

/-- The lines of each vault from its first region whose tag a SET_REGION_TAG changes. -/
abbrev retagShares (x : Stack) (k : Cmd) : List (Nat × Nat × Nat) :=
  (if (k.arg 0).toNat = 0xFF then List.range 168 else [(k.arg 0).toNat]).filterMap (fun v =>
    (changingRegions x v (bv 12 (k.arg 1).toNat) (decide ((k.arg 2).toNat = 1))).head?.map (fun j => (v, (j * 131072, 1572864))))

theorem exec_scrub (started : CmdStarted s st r 0x0104 k) (h : tilesBegun s.now (s.stack st) r none (scrubShares k) 0 = y) :
    exec (.scrub st r) s = .next (s.setStack st y) := exec_cmdRow rfl started h

theorem exec_setRegionTag (started : CmdStarted s st r 0x0105 k)
    (h : tilesBegun s.now (s.stack st) r (some (decide ((k.arg 2).toNat = 1))) (retagShares (s.stack st) k) (bv 12 (k.arg 1).toNat) = y) :
    exec (.setRegionTag st r) s = .next (s.setStack st y) := exec_cmdRow rfl started h

end Tiles

/-! ### In-tile row operations (R240, R247, R270, R287) -/

/-- The cycle since which the next row operation of a run at vault `v` waits. -/
def tileSince (now : Nat) (t : TileRun) (v : Nat) : Nat := (tfind t.since v).getD (now - 2)

/-- The stack once the row operation on line `l` of vault `v` is granted; a SCRUB skips a line that is not coded. -/
def tileGranted (now : Nat) (y : Stack) (p v l : Nat) (t : TileRun) : Option Stack :=
  if t.retag.isNone ∧ holding y (vaultLine v l) ≠ .coded then some y
  else tileRow now y p (vaultLine v l) (if tileWrites y v l t then 180 else 100) (tileSince now t v)

/-- What the row operation makes of the line and of the run, whose share of vault `v` ends at `hi`. -/
def tileLine (z : Stack) (v l hi : Nat) (t : TileRun) : Stack × TileRun :=
  match t.retag with
  | none =>
    let e := scrubLine z v l t
    (e.1, { e.2 with left := if l + 1 < hi then tput e.2.left v (l + 1, hi) else tdel e.2.left v })
  | some tag =>
    let e := nextRetag (retagLine z v l) v l t.regions tag
    (e.1, { t with left := match e.2 with | some m => tput t.left v (m, hi) | none => tdel t.left v })

/-- The run put back, and its command answered where no line or no time is left. -/
def tileEnd (now : Nat) (d : Stack × TileRun) : Stack :=
  let q := { d.1 with tiles := d.1.tiles.map (fun m => if m.cmd = d.2.cmd then d.2 else m) }
  if d.2.left = [] || scrubLate now d.1 d.2 then finishTiles now q d.2 else q

/-- What a presentation makes of the stack, as its row operation is granted or not; one that is not is kept with the time of its first presentation. -/
def tilePresented (now : Nat) (x : Stack) (v l hi : Nat) (t : TileRun) (g : Option Stack) : Stack :=
  match g with
  | none => { x with tiles := x.tiles.map (fun m => if m.cmd = t.cmd then { m with since := tput m.since v (tileSince now t v) } else m) }
  | some z => tileEnd now (tileLine z v l hi { t with since := tput t.since v now })

theorem tileGranted_eq (now : Nat) (y : Stack) (p v l : Nat) (t : TileRun) :
    tileGranted now y p v l t = if t.retag = none ∧ holding y (vaultLine v l) ≠ .coded then some y
      else tileRow now y p (vaultLine v l) (if tileWrites y v l t then 180 else 100) (tileSince now t v) := by
  simp only [tileGranted, Option.isNone_iff_eq_none]

theorem tileEnd_eq (now : Nat) (d : Stack × TileRun) :
    tileEnd now d =
      let q := { d.1 with tiles := d.1.tiles.map (fun m => if m.cmd = d.2.cmd then d.2 else m) }
      if d.2.left = [] ∨ scrubLate now d.1 d.2 = true then finishTiles now q d.2 else q := by
  simp only [tileEnd, Bool.or_eq_true, decide_eq_true_eq]

section Tile
variable {s : State} {st : StackIx} {p : SiteIx} {now site v l hi : Nat} {x y : Stack} {u : DramUpsets} {t : TileRun}

theorem tileOp_idle (at_ : siteCore x site = some v) (none_ : x.tiles.find? (fun t => (tfind t.left v).isSome) = none) :
    tileOp now x site u = x := by
  simp only [tileOp, at_, none_]

/-- The first run with a line left at the vault presents its next one. What the row operation makes of the line is generalised before the two
sides are compared: the kernel would otherwise evaluate its address. -/
theorem tileOp_presents (at_ : siteCore x site = some v) (found : x.tiles.find? (fun t => (tfind t.left v).isSome) = some t)
    (share : tfind t.left v = some (l, hi)) :
    tileOp now x site u = tilePresented now x v l hi t (tileGranted now (flipDram x u) site v l t) := by
  unfold tileOp
  split
  next none_ => cases none_.symm.trans at_
  next v' h =>
    cases h.symm.trans at_
    split
    next none_ => cases none_.symm.trans found
    next t' h =>
      cases h.symm.trans found
      split
      next none_ => cases none_.symm.trans share
      next l' hi' h =>
        cases h.symm.trans share
        extract_lets f a since kept put
        have row : (if t.retag.isNone = true ∧ holding f a ≠ Holding.coded then some f
          else tileRow now f site a (if tileWrites f v l t = true then 180 else 100) since) = tileGranted now (flipDram x u) site v l t := rfl
        rw [row]
        generalize tileGranted now (flipDram x u) site v l t = g
        split
        next => rfl
        next z =>
          change _ = tileEnd now (tileLine z v l hi kept)
          unfold tileLine
          cases kept.retag with
          | none =>
            generalize scrubLine z v l kept = e
            obtain ⟨s', t'⟩ := e
            rfl
          | some tag =>
            generalize nextRetag (retagLine z v l) v l kept.regions tag = e
            obtain ⟨s', next_⟩ := e
            rfl

theorem exec_inTileRowOpDone (free : columnsHeld (s.stack st) = false) (h : tileOp s.now (s.stack st) p.val u = y) :
    exec (.inTileRowOpDone ⟨st, p⟩ u) s = .next (s.setStack st y) :=
  exec_stackRow rfl ((if_neg (ne_true_of_eq_false free)).trans h)

theorem exec_inTileRowOpDone_idle (h : columnsHeld (s.stack st) = true ∨ tileOp s.now (s.stack st) p.val u = s.stack st) :
    exec (.inTileRowOpDone ⟨st, p⟩ u) s = .next s := by
  refine exec_stackRow_idle (f := fun x => if columnsHeld x then x else tileOp s.now x p.val u) rfl ?_
  split
  next => rfl
  next free => exact h.resolve_left free

end Tile

/-! ### REPAIR_COMMIT (R286) -/

section Commit
variable {s : State} {st : StackIx} {r : CmdRef} {k : Cmd} {x : Stack}

/-- The soft entries of the vaults that a REPAIR_COMMIT names, and how many stay soft. -/
abbrev commitOf (x : Stack) (k : Cmd) : List (Nat × Nat × Repair) × Nat :=
  commitPlan x (if (k.arg 0).toNat = 0xFF then List.range 168 else [(k.arg 0).toNat])

/-- What a REPAIR_COMMIT with a plan makes of its stack; one is carried out at a time. -/
def commitPlanned (now : Nat) (x : Stack) (r : CmdRef) (plan : List (Nat × Nat × Repair) × Nat) : Stack :=
  if x.commit.isSome then x
  else if plan.1 = [] then finishCommit now x ⟨r, 0, plan.2⟩
  else { beginCmd x r with burns := x.burns ++ plan.1.map (fun e => Burn.repair e.1 e.2.1 e.2.2), commit := some ⟨r, 0, plan.2⟩ }

theorem commitPlanned_waits {now : Nat} {plan : List (Nat × Nat × Repair) × Nat} (busy : x.commit ≠ none) : commitPlanned now x r plan = x :=
  if_pos (Option.isSome_iff_ne_none.mpr busy)

theorem commitPlanned_idle {now : Nat} {plan : List (Nat × Nat × Repair) × Nat} (idle : x.commit = none) :
    commitPlanned now x r plan = if plan.1 = [] then finishCommit now x ⟨r, 0, plan.2⟩
      else { beginCmd x r with burns := x.burns ++ plan.1.map (fun e => Burn.repair e.1 e.2.1 e.2.2), commit := some ⟨r, 0, plan.2⟩ } := by
  rw [commitPlanned, idle]
  rfl

theorem exec_repairCommit (started : CmdStarted s st r 0x0107 k) {y : Stack}
    (h : commitPlanned s.now (s.stack st) r (commitOf (s.stack st) k) = y) : exec (.repairCommit st r) s = .next (s.setStack st y) :=
  exec_cmdRow rfl started h

end Commit

/-- Settles O43: each command by its presentations. -/
theorem memoryCommands : Obligations.MemoryCommands := by
  intro s st r k x a b n end_ here refuse begins goes
  refine ⟨?write, ?read, ?fill, ?copy, ?held, ?shares, ?tags, ?scrub, ?retag, ?commit, ?tile⟩
  case write =>
    rintro ⟨started, op, free⟩
    obtain ⟨refused, begins, goes⟩ := bulkRow_presented (i := .write st r) (u := id) rfl started op free
    exact ⟨fun fresh bad => refused _ fresh (if_pos bad), fun fresh good => begins _ _ fresh (if_neg (ne_true_of_eq_false good)), goes⟩
  case read =>
    rintro u z ⟨started, op, free⟩
    obtain ⟨refused, begins, goes⟩ := bulkRow_presented (i := .read st ⟨r, u⟩) (u := fun x => applyUpsets x u) rfl started op free
    exact ⟨fun fresh bad => refused _ fresh (if_pos bad), fun fresh good => begins _ _ fresh (if_neg (ne_true_of_eq_false good)),
      fun q runs => ⟨(goes q runs).1, fun over_ => ((goes q runs).2 over_).trans (congrArg (fun y => Host.Outcome.next (s.setStack st y)) finishRead_eq)⟩⟩
  case fill =>
    rintro ⟨started, op, free⟩
    obtain ⟨refused, begins, goes⟩ := bulkRow_presented (i := .fill st r) (u := id) rfl started op free
    refine ⟨fun fresh busy => refused _ fresh (if_pos busy), fun fresh halted bad => refused _ fresh ?_, fun fresh halted good => begins _ _ fresh ?_, goes⟩
    · exact (if_neg (ne_true_of_eq_false halted)).trans (if_pos bad)
    · exact (if_neg (ne_true_of_eq_false halted)).trans (if_neg (ne_true_of_eq_false good))
  case copy =>
    rintro u z ⟨started, op, free⟩
    obtain ⟨refused, begins, goes⟩ := bulkRow_presented (i := .copy st ⟨r, u⟩) (u := fun x => applyUpsets x u) rfl started op free
    exact ⟨fun fresh bad => refused _ fresh (if_pos (Bool.or_eq_true_iff.mpr bad)),
      fun fresh good => begins _ _ fresh (if_neg (fun bad => good (Bool.or_eq_true_iff.mp bad))), goes⟩
  case held =>
    intro started held
    exact ⟨fun op => bulkRow_held (i := .write st r) (u := id) rfl started op rfl held,
      fun op => bulkRow_held (i := .fill st r) (u := id) rfl started op rfl held⟩
  case shares =>
    intro y id i lo stop p q found site
    exact ⟨fun share => ⟨issueRead_waits found site share, issueRead_asks found site share⟩,
      fun share data => ⟨issueWrite_waits found site share, fun l m used => issueWrite_asks found site share⟩⟩
  case tags => exact fun started => exec_cmdRow rfl started rfl
  case scrub => exact fun started => ⟨fun nothing => exec_scrub started (tilesBegun_none nothing), fun some_ => exec_scrub started (tilesBegun_some some_)⟩
  case retag => exact fun started => ⟨fun nothing => exec_setRegionTag started (tilesBegun_none nothing), fun some_ => exec_setRegionTag started (tilesBegun_some some_)⟩
  case commit =>
    refine fun started => ⟨fun busy => ?_, fun idle nothing => ?_, fun idle some_ => ?_⟩
    · exact (exec_repairCommit started (commitPlanned_waits busy)).trans (by rw [State.setStack_self])
    · exact exec_repairCommit started ((commitPlanned_idle idle).trans (if_pos nothing))
    · exact exec_repairCommit started ((commitPlanned_idle idle).trans (if_neg some_))
  case tile =>
    refine fun p u => ⟨fun held => exec_inTileRowOpDone_idle (.inl held), fun v at_ none_ => exec_inTileRowOpDone_idle (.inr (tileOp_idle at_ none_)), ?_⟩
    intro v t l hi free at_ found share y since row
    have presents := tileOp_presents (now := s.now) (u := u) at_ found share
    rw [tileGranted_eq] at presents
    refine ⟨fun late => exec_inTileRowOpDone free ?_, fun z granted => ?_⟩
    · exact presents.trans (congrArg (tilePresented s.now x v l hi t) late)
    · exact exec_inTileRowOpDone free
        ((presents.trans (congrArg (tilePresented s.now x v l hi t) granted)).trans (tileEnd_eq s.now _))

end Sys2Proof.Machine
end

section
/-! PROOFS. The code of a DRAM word (O60). A check value is linear in data and tag, so a syndrome is the XOR of the columns of the bits that differ;
the decoder's outcomes then follow from the number of bits set in it: 3 for a data column, 1 for a check bit, 2 for a tag bit, 16 for stored poison. -/

namespace Sys2Proof.Machine
open Sys2Proof

/-! ### Weights -/

/-- The number of bits set in a syndrome. -/
def weight (x : BitVec 16) : Nat := ∑ k : Fin 16, (x.getLsbD k).toNat

theorem weight_xor (x y : BitVec 16) : weight (x ^^^ y) + 2 * weight (x &&& y) = weight x + weight y := by
  simp only [weight, Finset.mul_sum, ← Finset.sum_add_distrib, BitVec.getLsbD_xor, BitVec.getLsbD_and]
  refine Finset.sum_congr rfl fun k _ => ?_
  cases x.getLsbD k <;> cases y.getLsbD k <;> rfl

theorem weight_and_le_right (x y : BitVec 16) : weight (x &&& y) ≤ weight y := by
  refine Finset.sum_le_sum fun k _ => ?_
  rw [BitVec.getLsbD_and]
  exact Bool.toNat_le_toNat (Bool.and_le_right _ _)

theorem weight_eq_zero {x : BitVec 16} : weight x = 0 ↔ x = 0 := by
  refine ⟨fun h => BitVec.eq_of_getLsbD_eq fun k hk => ?_, fun h => h ▸ by decide⟩
  have bit := Finset.sum_eq_zero_iff.mp h ⟨k, hk⟩ (Finset.mem_univ _)
  simpa using bit

/-- The bits that stored poison adds are all that a syndrome lacks. -/
theorem weight_poisoned (x : BitVec 16) : weight (x ^^^ 0xFFFF#16) + weight x = 16 := by
  have sum := weight_xor x 0xFFFF#16
  have all : x &&& 0xFFFF#16 = x := BitVec.and_allOnes
  have ones : weight 0xFFFF#16 = 16 := by decide
  rw [all, ones] at sum
  omega

theorem weight_eq_sixteen {x : BitVec 16} : weight x = 16 ↔ x = 0xFFFF#16 := by
  have lacks := weight_poisoned x
  calc weight x = 16 ↔ weight (x ^^^ 0xFFFF#16) = 0 := by omega
    _ ↔ x = 0xFFFF#16 := weight_eq_zero.trans BitVec.xor_eq_zero_iff

/-! ### The columns (Table 9.2) -/

/-- The columns of the tag bits. -/
def tagColumns : List (BitVec 16) := (List.range 25).map hl

theorem hdList_length : hdList.length = 256 := by decide +kernel

theorem weight_three_bits : ∀ h < 13, ∀ m < h, ∀ l < m, weight (bv 16 (2 ^ h + 2 ^ m + 2 ^ l)) = 3 := by decide +kernel

theorem weight_of_mem_hdList {c : BitVec 16} (hc : c ∈ hdList) : weight c = 3 := by
  obtain ⟨h, hh, hc⟩ := List.mem_flatMap.mp (List.mem_of_mem_take hc)
  obtain ⟨m, hm, hc⟩ := List.mem_flatMap.mp hc
  obtain ⟨l, hl, rfl⟩ := List.mem_map.mp hc
  exact weight_three_bits h (List.mem_range.mp hh) m (List.mem_range.mp hm) l (List.mem_range.mp hl)

theorem hdList_nodup : hdList.Nodup := by
  have ascending : hdList.IsChain (· < ·) := by decide +kernel
  exact ascending.pairwise.imp BitVec.ne_of_lt

theorem weight_checkBit : ∀ k < 16, weight (1#16 <<< k) = 1 := by decide +kernel

theorem checkBit_ne {k j : Nat} (hk : k < 16) (ne : k ≠ j) : 1#16 <<< k ≠ 1#16 <<< j := fun same => by
  have bit := congrArg (fun x => x.getLsbD k) same
  simp only [← BitVec.twoPow_eq, BitVec.getLsbD_twoPow] at bit
  simp [hk, ne.symm] at bit

theorem weight_hl : ∀ j < 25, weight (hl j) = 2 := by decide +kernel

theorem weight_of_mem_tagColumns {c : BitVec 16} (hc : c ∈ tagColumns) : weight c = 2 := by
  obtain ⟨j, hj, rfl⟩ := List.mem_map.mp hc
  exact weight_hl j (List.mem_range.mp hj)

theorem tagColumns_nodup : tagColumns.Nodup := by decide +kernel

/-! ### XOR of columns -/

section XorCols
variable {cols : List (BitVec 16)} {bit : Nat → Bool}

theorem xorCols_xor (cols : List (BitVec 16)) (p q : Nat → Bool) (i : Nat) :
    xorCols cols (fun k => p k ^^ q k) i = xorCols cols p i ^^^ xorCols cols q i := by
  induction cols generalizing i with
  | nil => exact (BitVec.xor_self).symm
  | cons c cs ih =>
    have head : (if (p i ^^ q i) then c else 0) = (if p i then c else 0) ^^^ (if q i then c else 0) := by
      cases p i <;> cases q i <;> simp
    simp only [xorCols, ih, head]
    ac_rfl

theorem xorCols_eq_zero {i : Nat} (clear : ∀ k < cols.length, bit (i + k) = false) : xorCols cols bit i = 0 := by
  induction cols generalizing i with
  | nil => rfl
  | cons c cs ih =>
    have head : bit i = false := clear 0 (Nat.zero_lt_succ _)
    have tail : xorCols cs bit (i + 1) = 0 := ih fun k hk => by
      rw [Nat.add_assoc, Nat.add_comm 1]
      exact clear (k + 1) (Nat.succ_lt_succ hk)
    simp [xorCols, head, tail]

theorem xorCols_single (j i : Nat) (hj : j < cols.length) : xorCols cols (fun k => decide (i + j = k)) i = cols[j] := by
  induction cols generalizing j i with
  | nil => cases hj
  | cons c cs ih =>
    cases j with
    | zero =>
      have tail : xorCols cs (fun k => decide (i + 0 = k)) (i + 1) = 0 := xorCols_eq_zero fun k _ => decide_eq_false (by omega)
      simp only [xorCols, tail]
      simp
    | succ j =>
      have tail := ih j (i + 1) (Nat.lt_of_succ_lt_succ hj)
      rw [Nat.add_assoc, Nat.add_comm 1] at tail
      simp [xorCols, tail]

theorem xorCols_append (as bs : List (BitVec 16)) (bit : Nat → Bool) (i : Nat) :
    xorCols (as ++ bs) bit i = xorCols as bit i ^^^ xorCols bs bit (i + as.length) := by
  induction as generalizing i with
  | nil => simp [xorCols]
  | cons a as ih =>
    simp only [List.cons_append, xorCols, ih, List.length_cons, BitVec.xor_assoc]
    rw [Nat.add_assoc, Nat.add_comm 1]

/-- Columns of even weight give a syndrome of even weight. -/
theorem even_weight_xorCols (even : ∀ c ∈ cols, Even (weight c)) (i : Nat) : Even (weight (xorCols cols bit i)) := by
  have zero : Even (weight 0) := by rw [weight_eq_zero.mpr rfl]; exact Even.zero
  induction cols generalizing i with
  | nil => exact zero
  | cons c cs ih =>
    have head : Even (weight (if bit i then c else 0)) := by
      split
      · exact even c List.mem_cons_self
      · exact zero
    have tail := ih (fun d hd => even d (List.mem_cons_of_mem _ hd)) (i + 1)
    have sum := weight_xor (if bit i then c else 0) (xorCols cs bit (i + 1))
    rw [Nat.even_iff] at head tail ⊢
    simp only [xorCols]
    omega

/-- Whether no column has bit `b`. -/
def lacksBit (cols : List (BitVec 16)) (b : Nat) : Bool := cols.all fun c => !c.getLsbD b

theorem xorCols_lacksBit {b : Nat} (lacks : lacksBit cols b = true) (i : Nat) : (xorCols cols bit i).getLsbD b = false := by
  induction cols generalizing i with
  | nil => exact BitVec.getLsbD_zero
  | cons c cs ih =>
    obtain ⟨own, rest⟩ := Bool.and_eq_true_iff.mp lacks
    have head : (if bit i then c else 0).getLsbD b = false := by
      split
      · exact (Bool.not_eq_true' _).mp own
      · exact BitVec.getLsbD_zero
    rw [xorCols, BitVec.getLsbD_xor, head, ih rest]
    rfl

/-- Whether each column has a bit that no later one has. -/
def triangular : List (BitVec 16) → Bool
  | [] => true
  | c :: cs => ((List.range 16).any fun b => c.getLsbD b && lacksBit cs b) && triangular cs

/-- Triangular columns are linearly independent. -/
theorem xorCols_ne_zero {i : Nat} (tri : triangular cols = true) (some_ : ∃ k < cols.length, bit (i + k) = true) :
    xorCols cols bit i ≠ 0 := by
  induction cols generalizing i with
  | nil =>
    obtain ⟨k, hk, -⟩ := some_
    cases hk
  | cons c cs ih =>
    obtain ⟨lead, rest⟩ := Bool.and_eq_true_iff.mp tri
    obtain ⟨b, -, own⟩ := List.any_eq_true.mp lead
    obtain ⟨own, others⟩ := Bool.and_eq_true_iff.mp own
    cases set : bit i with
    | true =>
      have head : (xorCols (c :: cs) bit i).getLsbD b = true := by
        rw [xorCols, set, if_pos rfl, BitVec.getLsbD_xor, own, xorCols_lacksBit others]
        rfl
      intro zero
      rw [zero] at head
      exact Bool.false_ne_true (BitVec.getLsbD_zero.symm.trans head)
    | false =>
      obtain ⟨k, hk, hit⟩ := some_
      cases k with
      | zero => exact absurd (set.symm.trans hit) Bool.false_ne_true
      | succ k =>
        have tail : xorCols cs bit (i + 1) ≠ 0 := ih rest ⟨k, Nat.lt_of_succ_lt_succ hk, by rwa [Nat.add_assoc, Nat.add_comm 1]⟩
        simpa [xorCols, set] using tail

end XorCols

/-! ### Syndromes -/

/-- What data bits that differ add to a syndrome. -/
def dataSyn (e : BitVec 256) : BitVec 16 := xorCols hdList e.getLsbD 0

/-- What tag bits that differ add to a syndrome. -/
def tagSyn (e : Nat) : BitVec 16 := xorCols tagColumns e.testBit 0

theorem check_eq (d : BitVec 256) (tag : Nat) : check d tag false = dataSyn d ^^^ tagSyn tag := rfl

theorem check_poison (d : BitVec 256) (tag : Nat) : check d tag true = check d tag false ^^^ 0xFFFF#16 := rfl

theorem dataSyn_xor (a b : BitVec 256) : dataSyn (a ^^^ b) = dataSyn a ^^^ dataSyn b := by
  rw [dataSyn, funext fun k => BitVec.getLsbD_xor (x := a) (y := b) (i := k)]
  exact xorCols_xor hdList a.getLsbD b.getLsbD 0

theorem tagSyn_xor (a b : Nat) : tagSyn (a ^^^ b) = tagSyn a ^^^ tagSyn b := by
  rw [tagSyn, funext fun k => Nat.testBit_xor (x := a) (y := b) (i := k)]
  exact xorCols_xor tagColumns a.testBit b.testBit 0

/-- The syndrome where data bits `e` differ (R266). -/
theorem syndrome_data (d e : BitVec 256) (tag : Nat) : check (d ^^^ e) tag false ^^^ check d tag false = dataSyn e := by
  rw [check_eq, check_eq, dataSyn_xor]
  calc dataSyn d ^^^ dataSyn e ^^^ tagSyn tag ^^^ (dataSyn d ^^^ tagSyn tag)
      = (dataSyn d ^^^ dataSyn d) ^^^ (tagSyn tag ^^^ tagSyn tag) ^^^ dataSyn e := by ac_rfl
    _ = dataSyn e := by simp

/-- The syndrome where the tag expected is not the one written (R266). -/
theorem syndrome_tag (d : BitVec 256) (t tag : Nat) : check d t false ^^^ check d tag false = tagSyn (t ^^^ tag) := by
  rw [check_eq, check_eq, tagSyn_xor]
  calc dataSyn d ^^^ tagSyn t ^^^ (dataSyn d ^^^ tagSyn tag)
      = (dataSyn d ^^^ dataSyn d) ^^^ (tagSyn t ^^^ tagSyn tag) := by ac_rfl
    _ = tagSyn t ^^^ tagSyn tag := by simp

/-- The syndrome where check bits `m` differ (R266). -/
theorem syndrome_check (d : BitVec 256) (tag : Nat) (m : BitVec 16) : check d tag false ^^^ (check d tag false ^^^ m) = m := by
  rw [← BitVec.xor_assoc, BitVec.xor_self, BitVec.zero_xor]

theorem dataSyn_bit {i : Nat} (hi : i < hdList.length) : dataSyn (1#256 <<< i) = hdList[i] := by
  have bits : (1#256 <<< i).getLsbD = fun k => decide (0 + i = k) := funext fun k => by
    rw [← BitVec.twoPow_eq, BitVec.getLsbD_twoPow, Nat.zero_add]
    rw [hdList_length] at hi
    simp [hi]
  rw [dataSyn, bits]
  exact xorCols_single i 0 hi

theorem tagSyn_bit {j : Nat} (hj : j < tagColumns.length) : tagSyn (2 ^ j) = tagColumns[j] := by
  have bits : (2 ^ j).testBit = fun k => decide (0 + j = k) := funext fun k => by rw [Nat.testBit_two_pow, Nat.zero_add]
  rw [tagSyn, bits]
  exact xorCols_single j 0 hj

theorem weight_dataSyn_bit {i : Nat} (hi : i < 256) : weight (dataSyn (1#256 <<< i)) = 3 := by
  rw [dataSyn_bit (hdList_length ▸ hi)]
  exact weight_of_mem_hdList (List.getElem_mem _)

theorem dataSyn_bit_ne {i j : Nat} (hi : i < 256) (hj : j < 256) (ne : i ≠ j) : dataSyn (1#256 <<< i) ≠ dataSyn (1#256 <<< j) := by
  rw [dataSyn_bit (hdList_length ▸ hi), dataSyn_bit (hdList_length ▸ hj)]
  exact fun same => ne (hdList_nodup.getElem_inj_iff.mp same)

/-! ### An error of the tag (R268) -/

theorem even_weight_tagSyn (e : Nat) : Even (weight (tagSyn e)) :=
  even_weight_xorCols (fun c hc => by rw [weight_of_mem_tagColumns hc]; exact even_two) 0

/-- At most two tag bits: their columns are distinct. -/
theorem tagSyn_two_bits_ne_zero {i j : Nat} (hi : i < 25) (hj : j < 25) : tagSyn (2 ^ i ||| 2 ^ j) ≠ 0 := by
  have hi' : i < tagColumns.length := hi
  have hj' : j < tagColumns.length := hj
  rcases eq_or_ne i j with rfl | ne
  · rw [Nat.or_self, tagSyn_bit hi', ne_eq, ← weight_eq_zero, weight_of_mem_tagColumns (List.getElem_mem _)]
    decide
  · have apart : 2 ^ i ||| 2 ^ j = 2 ^ i ^^^ 2 ^ j := Nat.eq_of_testBit_eq fun k => by
      simp only [Nat.testBit_or, Nat.testBit_xor, Nat.testBit_two_pow]
      by_cases h : i = k
      · simp [h, show j ≠ k from h ▸ ne.symm]
      · simp [h]
    rw [apart, tagSyn_xor, tagSyn_bit hi', tagSyn_bit hj']
    exact fun zero => ne (tagColumns_nodup.getElem_inj_iff.mp (BitVec.xor_eq_zero_iff.mp zero))

/-- The fields of a tag, word, row, bank and layer, each as its lowest bit and its width (Table 9.1). -/
def tagFields : List (Nat × Nat) := [(0, 4), (4, 14), (18, 4), (22, 3)]

/-- An error of one field alone. -/
def OneField (e : Nat) : Prop := e ≠ 0 ∧ ∃ f ∈ tagFields, e % 2 ^ f.1 = 0 ∧ e / 2 ^ (f.1 + f.2) = 0

theorem tagFields_fit : ∀ f ∈ tagFields, f.1 + f.2 ≤ tagColumns.length := by decide

/-- The columns of a tag field. -/
def fieldColumns (f : Nat × Nat) : List (BitVec 16) := (tagColumns.drop f.1).take f.2

/-- Within each field the columns are linearly independent (R265), and some bit of stored poison is in none of them. -/
theorem fieldColumns_independent :
    (tagFields.all fun f => triangular (fieldColumns f) && (List.range 16).any (lacksBit (fieldColumns f))) = true := by
  decide +kernel

theorem fieldColumns_length {f : Nat × Nat} (mem : f ∈ tagFields) : (fieldColumns f).length = f.2 := by
  have fits := tagFields_fit f mem
  exact List.length_take_of_le (by rw [List.length_drop]; omega)

theorem testBit_below {e n k : Nat} (low : e % 2 ^ n = 0) (hk : k < n) : e.testBit k = false := by
  have bit := Nat.testBit_mod_two_pow e n k
  rw [low, Nat.zero_testBit, decide_eq_true hk, Bool.true_and] at bit
  exact bit.symm

theorem testBit_above {e n k : Nat} (high : e / 2 ^ n = 0) (hk : n ≤ k) : e.testBit k = false :=
  Nat.testBit_lt_two_pow (((Nat.div_eq_zero_iff_lt (Nat.two_pow_pos _)).mp high).trans_le (Nat.pow_le_pow_right Nat.two_pos hk))

/-- An error in one field alone is a sum of the field's columns. -/
theorem tagSyn_field {e : Nat} {f : Nat × Nat} (mem : f ∈ tagFields) (low : e % 2 ^ f.1 = 0) (high : e / 2 ^ (f.1 + f.2) = 0) :
    tagSyn e = xorCols (fieldColumns f) e.testBit f.1 := by
  have fits := tagFields_fit f mem
  have split : tagColumns = tagColumns.take f.1 ++ (fieldColumns f ++ tagColumns.drop (f.1 + f.2)) := by
    rw [fieldColumns, ← List.drop_drop, List.take_append_drop, List.take_append_drop]
  have start : (tagColumns.take f.1).length = f.1 := List.length_take_of_le (by omega)
  have below : xorCols (tagColumns.take f.1) e.testBit 0 = 0 :=
    xorCols_eq_zero fun k hk => testBit_below low (by omega)
  have above : xorCols (tagColumns.drop (f.1 + f.2)) e.testBit (f.1 + f.2) = 0 :=
    xorCols_eq_zero fun k _ => testBit_above high (Nat.le_add_right _ _)
  rw [tagSyn, split, xorCols_append, xorCols_append, below, start, fieldColumns_length mem, Nat.zero_add, above]
  simp

/-- The columns of a field make neither the syndrome 0 nor that of stored poison. -/
theorem tagSyn_oneField {e : Nat} (one : OneField e) : tagSyn e ≠ 0 ∧ tagSyn e ≠ 0xFFFF#16 := by
  obtain ⟨some_, f, mem, low, high⟩ := one
  obtain ⟨tri, spare⟩ := Bool.and_eq_true_iff.mp (List.all_eq_true.mp fieldColumns_independent f mem)
  obtain ⟨b, hb, lacks⟩ := List.any_eq_true.mp spare
  rw [tagSyn_field mem low high]
  refine ⟨xorCols_ne_zero tri ?_, fun ones => ?_⟩
  · obtain ⟨k, hit⟩ := Nat.exists_testBit_of_ne_zero some_
    have above : f.1 ≤ k := Nat.le_of_not_lt fun hk => by simp [testBit_below low hk] at hit
    have below : k < f.1 + f.2 := Nat.lt_of_not_le fun hk => by simp [testBit_above high hk] at hit
    exact ⟨k - f.1, by rw [fieldColumns_length mem]; omega, by rwa [Nat.add_sub_cancel' above]⟩
  · have set : (0xFFFF#16).getLsbD b = true := BitVec.getLsbD_allOnes.trans (decide_eq_true (List.mem_range.mp hb))
    rw [← ones, xorCols_lacksBit lacks] at set
    cases set

/-! ### The decoder (Table 9.3) -/

theorem findIdx?_hdList_getElem {i : Nat} (hi : i < hdList.length) : hdList.findIdx? (fun h => h = hdList[i]) = some i :=
  List.findIdx?_eq_some_iff_getElem.mpr ⟨hi, decide_eq_true rfl, fun _ hj same =>
    hj.ne (hdList_nodup.getElem_inj_iff.mp (of_decide_eq_true same))⟩

section Decode
variable {s : BitVec 16} (d : BitVec 256)

theorem findIdx?_hdList_eq_none (light : weight s ≠ 3) : hdList.findIdx? (fun h => h = s) = none :=
  List.findIdx?_eq_none_iff.mpr fun _ mem => decide_eq_false fun same => light (same ▸ weight_of_mem_hdList mem)

theorem decodeWord_clean : decodeWord d 0 = (d, false, .clean) := if_pos rfl

theorem decodeWord_poison : decodeWord d 0xFFFF#16 = (d, true, .poisonSeen) := (if_neg (by decide)).trans (if_pos rfl)

theorem ne_zero_of_weight (h : weight s ≠ 0) : s ≠ 0 := fun zero => h (weight_eq_zero.mpr zero)

theorem ne_ones_of_weight (h : weight s ≠ 16) : s ≠ 0xFFFF#16 := fun ones => h (weight_eq_sixteen.mpr ones)

theorem decodeWord_column {i : Nat} (hi : i < 256) :
    decodeWord d (dataSyn (1#256 <<< i)) = (d ^^^ (1#256 <<< i), false, .corrected) := by
  have three := weight_dataSyn_bit hi
  rw [decodeWord, if_neg (ne_zero_of_weight (by omega)), if_neg (ne_ones_of_weight (by omega)), dataSyn_bit (hdList_length ▸ hi),
    findIdx?_hdList_getElem]

theorem decodeWord_checkBit {k : Nat} (hk : k < 16) : decodeWord d (1#16 <<< k) = (d, false, .corrected) := by
  have one := weight_checkBit k hk
  have hit : (List.range 16).any (fun j => decide (1#16 <<< k = 1#16 <<< j)) = true :=
    List.any_eq_true.mpr ⟨k, List.mem_range.mpr hk, decide_eq_true rfl⟩
  rw [decodeWord, if_neg (ne_zero_of_weight (by omega)), if_neg (ne_ones_of_weight (by omega)), findIdx?_hdList_eq_none (by omega)]
  exact if_pos hit

/-- A weight that no correctable column has. -/
theorem decodeWord_uncorrectable (h0 : weight s ≠ 0) (h1 : weight s ≠ 1) (h3 : weight s ≠ 3) (h16 : weight s ≠ 16) :
    decodeWord d s = (d, true, .uncorrectable) := by
  have miss : ¬ (List.range 16).any (fun k => decide (s = 1#16 <<< k)) = true := fun hit => by
    obtain ⟨k, hk, same⟩ := List.any_eq_true.mp hit
    exact h1 (of_decide_eq_true same ▸ weight_checkBit k (List.mem_range.mp hk))
  rw [decodeWord, if_neg (ne_zero_of_weight h0), if_neg (ne_ones_of_weight h16), findIdx?_hdList_eq_none h3]
  exact if_neg miss

/-- A syndrome of even weight corrects nothing, and marks the word where it is not 0. -/
theorem decodeWord_even (even : Even (weight s)) :
    (decodeWord d s).2.2 ≠ .corrected ∧ (decodeWord d s).1 = d ∧ (s ≠ 0 → (decodeWord d s).2.1 = true) := by
  rw [Nat.even_iff] at even
  by_cases h0 : weight s = 0
  · obtain rfl := weight_eq_zero.mp h0
    rw [decodeWord_clean]
    simp
  by_cases h16 : weight s = 16
  · obtain rfl := weight_eq_sixteen.mp h16
    rw [decodeWord_poison]
    simp
  · rw [decodeWord_uncorrectable d h0 (by omega) (by omega) h16]
    simp

end Decode

/-! ### What a reader gets (R268) -/

section Read
variable (d : BitVec 256) (tag : Nat)

theorem read_dataBit {i : Nat} (hi : i < 256) :
    decodeWord (d ^^^ 1#256 <<< i) (check (d ^^^ 1#256 <<< i) tag false ^^^ check d tag false) = (d, false, .corrected) := by
  rw [syndrome_data, decodeWord_column _ hi, BitVec.xor_assoc, BitVec.xor_self, BitVec.xor_zero]

theorem read_twoDataBits {i j : Nat} (hi : i < 256) (hj : j < 256) (ne : i ≠ j) (r : BitVec 256) (hr : r = d ^^^ 1#256 <<< i ^^^ 1#256 <<< j) :
    decodeWord r (check r tag false ^^^ check d tag false) = (r, true, .uncorrectable) := by
  have syn : check r tag false ^^^ check d tag false = dataSyn (1#256 <<< i) ^^^ dataSyn (1#256 <<< j) := by
    rw [hr, BitVec.xor_assoc, syndrome_data, dataSyn_xor]
  have apart : weight (dataSyn (1#256 <<< i) ^^^ dataSyn (1#256 <<< j)) ≠ 0 := fun zero =>
    dataSyn_bit_ne hi hj ne (BitVec.xor_eq_zero_iff.mp (weight_eq_zero.mp zero))
  have sum := weight_xor (dataSyn (1#256 <<< i)) (dataSyn (1#256 <<< j))
  rw [weight_dataSyn_bit hi, weight_dataSyn_bit hj] at sum
  rw [syn]
  exact decodeWord_uncorrectable r apart (by omega) (by omega) (by omega)

theorem read_dataAndCheckBit {i k : Nat} (hi : i < 256) (hk : k < 16) :
    decodeWord (d ^^^ 1#256 <<< i) (check (d ^^^ 1#256 <<< i) tag false ^^^ (check d tag false ^^^ 1#16 <<< k))
      = (d ^^^ 1#256 <<< i, true, .uncorrectable) := by
  have sum := weight_xor (dataSyn (1#256 <<< i)) (1#16 <<< k)
  have shared := weight_and_le_right (dataSyn (1#256 <<< i)) (1#16 <<< k)
  rw [weight_dataSyn_bit hi, weight_checkBit k hk] at sum
  rw [weight_checkBit k hk] at shared
  rw [← BitVec.xor_assoc, syndrome_data]
  exact decodeWord_uncorrectable _ (by omega) (by omega) (by omega) (by omega)

theorem read_twoCheckBits {k j : Nat} (hk : k < 16) (hj : j < 16) (ne : k ≠ j) :
    decodeWord d (check d tag false ^^^ (check d tag false ^^^ 1#16 <<< k ^^^ 1#16 <<< j)) = (d, true, .uncorrectable) := by
  have apart : weight (1#16 <<< k ^^^ 1#16 <<< j) ≠ 0 := fun zero =>
    checkBit_ne hk ne (BitVec.xor_eq_zero_iff.mp (weight_eq_zero.mp zero))
  have sum := weight_xor (1#16 <<< k) (1#16 <<< j)
  rw [weight_checkBit k hk, weight_checkBit j hj] at sum
  rw [BitVec.xor_assoc (check d tag false), syndrome_check]
  exact decodeWord_uncorrectable d apart (by omega) (by omega) (by omega)

theorem read_wrongTag (t : Nat) : let x := decodeWord d (check d t false ^^^ check d tag false)
    x.2.2 ≠ .corrected ∧ x.1 = d ∧ (check d t false ^^^ check d tag false ≠ 0 → x.2.1 = true) := by
  rw [syndrome_tag]
  exact decodeWord_even d (even_weight_tagSyn _)

/-- The columns of a tag error of one field, or of at most two bits, do not cancel. -/
theorem syndrome_tag_ne_zero {t : Nat} (small : OneField (t ^^^ tag) ∨ ∃ i < 25, ∃ j < 25, t ^^^ tag = 2 ^ i ||| 2 ^ j) :
    check d t false ^^^ check d tag false ≠ 0 := by
  rw [syndrome_tag]
  rcases small with one | ⟨i, hi, j, hj, two⟩
  · exact (tagSyn_oneField one).1
  · rw [two]
    exact tagSyn_two_bits_ne_zero hi hj

/-- An error beside stored poison is marked where its syndrome has a weight that keeps the sum off the correctable columns. -/
theorem decodeWord_poisoned {s : BitVec 16} (h0 : weight s ≠ 0) (h16 : weight s ≠ 16) (h13 : weight s ≠ 13) (h15 : weight s ≠ 15) :
    decodeWord d (s ^^^ 0xFFFF#16) = (d, true, .uncorrectable) := by
  have lacks := weight_poisoned s
  exact decodeWord_uncorrectable d (by omega) (by omega) (by omega) (by omega)

theorem read_poison : decodeWord d (check d tag false ^^^ check d tag true) = (d, true, .poisonSeen) := by
  rw [check_poison, syndrome_check, decodeWord_poison]

theorem read_poison_dataBit {i : Nat} (hi : i < 256) :
    decodeWord (d ^^^ 1#256 <<< i) (check (d ^^^ 1#256 <<< i) tag false ^^^ check d tag true) = (d ^^^ 1#256 <<< i, true, .uncorrectable) := by
  have three := weight_dataSyn_bit hi
  rw [check_poison, ← BitVec.xor_assoc, syndrome_data]
  exact decodeWord_poisoned _ (by omega) (by omega) (by omega) (by omega)

theorem read_poison_checkBit {k : Nat} (hk : k < 16) :
    decodeWord d (check d tag false ^^^ (check d tag true ^^^ 1#16 <<< k)) = (d, true, .uncorrectable) := by
  have one := weight_checkBit k hk
  rw [check_poison, BitVec.xor_assoc (check d tag false), syndrome_check, BitVec.xor_comm]
  exact decodeWord_poisoned d (by omega) (by omega) (by omega) (by omega)

theorem read_poison_oneField {t : Nat} (one : OneField (t ^^^ tag)) :
    decodeWord d (check d t false ^^^ check d tag true) = (d, true, .uncorrectable) := by
  obtain ⟨ne_zero, ne_ones⟩ := tagSyn_oneField one
  have even := Nat.even_iff.mp (even_weight_tagSyn (t ^^^ tag))
  rw [check_poison, ← BitVec.xor_assoc, syndrome_tag]
  exact decodeWord_poisoned d (mt weight_eq_zero.mp ne_zero) (mt weight_eq_sixteen.mp ne_ones) (by omega) (by omega)

end Read

/-- Settles O60: each clause by the weight of its syndrome. -/
theorem dramCodeCorrectsAndDetects : Obligations.DramCodeCorrectsAndDetects := by
  intro d tag _ read c p db cb
  refine ⟨?clean, read_poison d tag, fun i hi => read_dataBit d tag hi, ?checkBit, fun i hi j hj ne => read_twoDataBits d tag hi hj ne _ rfl,
    fun i hi k hk => read_dataAndCheckBit d tag hi hk, fun k hk j hj ne => read_twoCheckBits d tag hk hj ne, fun t _ => read_wrongTag d tag t,
    fun t _ small => ?marked, fun i hi => read_poison_dataBit d tag hi, fun k hk => read_poison_checkBit d tag hk,
    fun _ _ one => read_poison_oneField d tag one⟩
  case clean => exact (congrArg (decodeWord d) BitVec.xor_self).trans (decodeWord_clean d)
  case checkBit => exact fun k hk => (congrArg (decodeWord d) (syndrome_check d tag _)).trans (decodeWord_checkBit d hk)
  case marked =>
    obtain ⟨-, -, marks⟩ := read_wrongTag d tag t
    exact marks (syndrome_tag_ne_zero d tag small)

end Sys2Proof.Machine
end

section
/-! PROOFS. What the near-bank unit computes in place (O31): the line of an element operation as a function of the element's number, and each
operation on INT32 as that of the VX operation it shares. -/

namespace Sys2Proof.Machine
open Sys2Proof

/-- Element `i` of the line that an element operation writes and its poison, of elements `i` of the row it read and of the line it carries. -/
def nbuEl (op : Nat) (t : Bool) (imm : BitVec 32) (old b : Line) (i : Nat) : BitVec 32 × Bool :=
  (nbuElem op t imm (bv 32 (lineEl 32 old i)) (bv 32 (lineEl 32 b i)), elPoison 32 old i || (nbuUsesB op && elPoison 32 b i))

theorem rmwLine_rmwElem (op : Nat) (t : Bool) (imm : BitVec 32) (old b : Line) :
    rmwLine (.rmwElem op t imm) old b = lineOf (nbuEl op t imm old b) := by
  rw [rmwLine, line32_eq, line32_eq, List.zipWith_map, List.zipWith_self]
  rfl

/-- Settles O31: the line is tabulated from `nbuEl`, whose poison is that of the word. -/
theorem nbuElementResults : Obligations.NbuElementResults := by
  constructor
  · intro op t imm old b i hi
    rw [rmwLine_rmwElem]
    have word : ∀ j, j / 8 = i / 8 → (nbuEl op t imm old b j).2 = (nbuEl op t imm old b i).2 := by
      intro j hj
      simp only [nbuEl, elPoison_32, hj]
    exact ⟨lineEl_lineOf _ hi, elPoison_lineOf_of_word _ word hi⟩
  · intro imm d b
    exact ⟨BitVec.toNat_add d b, BitVec.toNat_mul d b, toInt_signedMin d b, toInt_signedMax d b, toNat_mulAdd imm b d, BitVec.toNat_mul d imm⟩

end Sys2Proof.Machine
end

section
/-! PROOFS. The row operations of a near-bank unit (O28): one request adds one row operation to those outstanding, and the unit places it only
within both bounds of R306. -/

namespace Sys2Proof.Machine
open Sys2Proof

/-! ### One request -/

section Request
variable {now p v tag line : Nat} {x : Stack} {k : AccessKind} {d : Line}

/-- The row operation that a request places, under identity `id`. -/
def nbuAccess (now id v tag line : Nat) (k : AccessKind) (d : Line) : Access :=
  { id := id, origin := .nbu v tag, kind := k, addr := v * 0x30000000 + line * 512, data := d, mask := if accessWritesKind k then fullMask else 0,
    arrived := now, granted := 0, result := Line.zero, unchecked := false, syn := [], refused := none, done := false }

/-- One request adds its row operation to those outstanding. -/
theorem nbuOut_nbuRequest :
    (nbuOut (nbuRequest now x p v tag line k d) p).Perm (nbuAccess now x.nextId v tag line k d :: nbuOut x p) := by
  have listed : (nbuRequest now x p v tag line k d).vault p
      = { x.vault p with nbu := (x.vault p).nbu ++ [nbuAccess now x.nextId v tag line k d] } :=
    tget_tset_listed (fun reset => List.append_ne_nil_of_right_ne_nil _ (List.cons_ne_nil _ _) (congrArg VaultCtl.nbu reset))
  simp only [nbuOut, listed, List.append_assoc, List.cons_append, List.nil_append]
  exact (List.perm_middle.filter isNbu).trans (.of_eq (List.filter_cons_of_pos rfl))

theorem length_nbuOut_nbuRequest : (nbuOut (nbuRequest now x p v tag line k d) p).length = (nbuOut x p).length + 1 :=
  nbuOut_nbuRequest.length_eq

/-- The read-modify-writes among the row operations of the unit of site `p` outstanding. -/
abbrev nbuRmws (x : Stack) (p : Nat) : List Access := (nbuOut x p).filter (fun a => isRmw a.kind)

theorem length_nbuRmws_nbuRequest :
    (nbuRmws (nbuRequest now x p v tag line k d) p).length = (nbuRmws x p).length + if isRmw k then 1 else 0 := by
  rw [(nbuOut_nbuRequest.filter _).length_eq, List.filter_cons]
  show List.length (if isRmw k = true then _ else _) = _
  split <;> rfl

end Request

/-! ### The requests of an entry (R306) -/

section Place
variable {now p v n : Nat} {x : Stack} {j : NbuJob}

/-- What every request made within both bounds keeps, the requests of an entry keep. -/
theorem nbuPlace_keeps {P : Stack → Prop}
    (request : ∀ (y : Stack) (tag line : Nat) (k : AccessKind) (d : Line), P y → (nbuOut y p).length < 64 →
      (isRmw k = true → (nbuRmws y p).length < 16) → P (nbuRequest now y p v tag line k d)) (start : P x) :
    P (nbuPlace now p v n x j).1 := by
  have read : ∀ (y : Stack) (tag line : Nat), P y → (nbuOut y p).length < 64 → P (nbuRequest now y p v tag line .read Line.zero) :=
    fun y tag line hy room => request y tag line .read Line.zero hy room (fun rmw => nomatch rmw)
  induction n generalizing x j with
  | zero => exact start
  | succ n ih =>
    rw [nbuPlace]
    split
    next => exact start
    next full =>
      have room := Nat.lt_of_not_le full
      split
      next line k d rest pending =>
        split
        next =>
          split
          next => exact ih (read _ _ _ start room)
          next => exact start
        next free => exact ih (request _ _ _ _ _ start room (fun rmw => Nat.lt_of_not_le (fun sixteen => free ⟨rmw, sixteen⟩)))
      next nothing =>
        split
        next =>
          split
          next => exact start
          next free => exact ih (request _ _ _ _ _ start room (fun _ => Nat.lt_of_not_le free))
        next =>
          split
          next => exact ih (read _ _ _ start room)
          next => exact start

theorem length_nbuOut_nbuPlace (within : (nbuOut x p).length ≤ 64) : (nbuOut (nbuPlace now p v n x j).1 p).length ≤ 64 :=
  nbuPlace_keeps (P := fun y => (nbuOut y p).length ≤ 64) (fun y tag line k d _ room _ => by rw [length_nbuOut_nbuRequest]; exact room) within

theorem length_nbuRmws_nbuPlace (within : (nbuRmws x p).length ≤ 16) : (nbuRmws (nbuPlace now p v n x j).1 p).length ≤ 16 := by
  refine nbuPlace_keeps (P := fun y => (nbuRmws y p).length ≤ 16) (fun y tag line k d few _ room => ?_) within
  rw [length_nbuRmws_nbuRequest]
  split
  next rmw => exact room rmw
  next => exact few

end Place

/-! ### The rows of the near-bank operations (R304) -/

theorem exec_nbuCommand {op : Nat} {p : SiteAt} {e : NbuEntry} {i : Instr} (row : nbuCommand op p e = some i) (s : State) :
    exec i s = onSt s p.st (fun y => nbuRow s.now y p.s.val op e) := by
  unfold nbuCommand at row
  split at row <;> cases row <;> rfl

section Row
variable {now p v op : Nat} {x : Stack} {r : NbuRun} {j : NbuJob} {e : NbuEntry} (free : columnsHeld x = false) (site : siteCore x p = some v)
  (run : (x.nbu v).run = some r) (job : r.job = some j)
include free site run job

theorem nbuRow_places (entry : j.e = e) (code : e.op = op) :
    nbuRow now x p op e =
      let d := nbuPlace now p v 65 x j
      d.1.setNbu v { d.1.nbu v with run := some { r with job := some d.2 } } := by
  simp [nbuRow, free, site, run, job, entry, code]

theorem nbuRow_other (other : j.e ≠ e ∨ e.op ≠ op) : nbuRow now x p op e = x := by
  have no : ¬ (j.e = e ∧ e.op = op) := not_and_or.mpr other
  simp [nbuRow, free, site, run, job, no]

end Row

/-- Settles O28: a request keeps each bound where it is made within it (`nbuPlace_keeps`). -/
theorem nbuOperationsPlaceRowOps : Obligations.NbuOperationsPlaceRowOps := by
  intro s p op e i v r j row x free site run job
  refine ⟨fun entry code => ⟨?_, length_nbuOut_nbuPlace, length_nbuRmws_nbuPlace⟩, fun other => ?_⟩
  · exact exec_stackRow (exec_nbuCommand row s) (nbuRow_places free site run job entry code)
  · exact exec_stackRow_idle (exec_nbuCommand row s) (nbuRow_other free site run job other)

end Sys2Proof.Machine
end

section
/-! PROOFS. The entries of a near-bank unit (O29): an entry that is looked at is checked before any access, and a row operation that completes
gives its line to the entry in its turn. -/

namespace Sys2Proof.Machine
open Sys2Proof

/-- A near-bank unit that runs is read back as it was put. -/
theorem nbu_setNbu_running {x : Stack} {v : Nat} {n : Nbu} {r : NbuRun} (run : n.run = some r) : (x.setNbu v n).nbu v = n :=
  tget_tset_listed (fun reset => by rw [reset] at run; cases run)

/-! ### NBU_ENTRY_START (R310, R317, R318, R320 to R322) -/

/-- The run with entry `e` counted among its stochastic entries. -/
def nbuCounted (r : NbuRun) (e : NbuEntry) : NbuRun := { r with stoch := if nbuStochastic e then r.stoch + 1 else r.stoch }

/-- The stack with entry `i` of run `r` looked at. -/
def entryTaken (x : Stack) (p v i : Nat) (r : NbuRun) (e : NbuEntry) : Stack :=
  (x.setVault p { x.vault p with nbuEntry := i }).setNbu v { x.nbu v with ran := true, run := some (nbuCounted r e) }

/-- N of an entry, with its selector applied. -/
def entryN (l : Line) (e : NbuEntry) : Int := if selOn e.nsel then (nbuParam l (e.nsel - 64)).1.toInt else (e.n : Int)

/-- The first line of B: of an exchange entry in the half that its tick reads. -/
def entryB (y : Stack) (r : NbuRun) (l : Line) (e : NbuEntry) : Int :=
  selLine l e.bsel e.b + ((if e.x then (r.tick + 1) % 2 * 2 ^ fld (reg y rTckXchg) 0 6 / 512 else 0 : Nat) : Int)

/-- The first line of an entry's ranges outside the vault. -/
def entryOut (y : Stack) (r : NbuRun) (l : Line) (e : NbuEntry) : Option Nat :=
  let spans := nbuSpans e (entryN l e).toNat
  (outLine (selLine l e.asel e.a) spans.1).orElse (fun _ => (outLine (entryB y r l e) spans.2.1).orElse (fun _ =>
    (outLine (selLine l e.dsel e.d) spans.2.2.1).orElse (fun _ => outLine (e.s : Int) spans.2.2.2)))

/-- The started entry, with nothing read. -/
def entryJob (y : Stack) (i : Nat) (r : NbuRun) (l : Line) (e : NbuEntry) : NbuJob :=
  { idx := i, e := e, n := (entryN l e).toNat, a := (selLine l e.asel e.a).toNat, b := (entryB y r l e).toNat, d := (selLine l e.dsel e.d).toNat,
    rd := 0, used := 0, ready := [], vec := [], acc := [], buf := [], pend := [], out := 0, elem := 0, ord := r.stoch }

/-- Row operations are outstanding, or the exchange gate is closed: a command is not gated (log 41). -/
abbrev entryWaits (x : Stack) (p : Nat) (r : NbuRun) (e : NbuEntry) : Prop := nbuOut x p ≠ [] ∨ (e.x ∧ r.cmd.isNone ∧ !goReceived x r.tick)

theorem entryWaits_iff {x : Stack} {p : Nat} {r : NbuRun} {e : NbuEntry} :
    entryWaits x p r e ↔ nbuOut x p ≠ [] ∨ (e.x = true ∧ r.cmd = none ∧ goReceived x r.tick = false) := by
  simp only [entryWaits, Option.isNone_iff_eq_none, Bool.not_eq_true']

/-- What becomes of an entry that has been looked at. -/
def entryChecked (now : Nat) (y : Stack) (p v i : Nat) (r : NbuRun) (l : Line) (e : NbuEntry) : Stack :=
  if selPoison l e = true then nbuNext now (nbuFault y p v 4 fPoisonBite 0 (bv 64 biteAddress)) v false
  else if entryN l e < 1 ∨ !nbuNOk e (entryN l e).toNat then
    nbuNext now (nbuFault y p v 1 fNbuAddr (Config.unstated 20 now % 2 ^ 21) 0) v false
  else match entryOut y r l e with
    | some line => nbuNext now (nbuFault y p v 1 fNbuAddr line 0) v false
    | none => y.setNbu v { y.nbu v with run := (y.nbu v).run.map (fun q => { q with job := some (entryJob y i r l e) }) }

section Start
variable {now p v i : Nat} {x y : Stack} {rest : List Nat} {r : NbuRun} {l : Line} {e : NbuEntry}

/-- With the parameter line there the next entry waits, or is looked at. -/
theorem nbuEntryStart_looks (free : columnsHeld x = false) (site : siteCore x p = some v) (run : (x.nbu v).run = some r) (params : r.params = some l)
    (job : r.job = none) (todo : r.todo = i :: rest) (sched : (x.nbu v).sched[i]? = some e) :
    nbuEntryStart now x p = if entryWaits x p r e then x else entryChecked now (entryTaken x p v i r e) p v i r l e := by
  obtain ⟨tick, member, seed, cmd, _, _, _, stoch, failed⟩ := r
  cases params
  cases job
  cases todo
  unfold nbuEntryStart
  rw [if_neg (ne_true_of_eq_false free), site]
  dsimp only
  rw [run]
  dsimp only
  rw [sched]
  rfl

theorem entryChecked_bites (poison : selPoison l e = true) :
    entryChecked now y p v i r l e = nbuNext now (nbuFault y p v 4 fPoisonBite 0 (bv 64 biteAddress)) v false := if_pos poison

theorem entryN_inRange (least : 1 ≤ entryN l e) (fits : nbuNOk e (entryN l e).toNat = true) : ¬ (entryN l e < 1 ∨ !nbuNOk e (entryN l e).toNat) := by
  rw [fits]
  rintro (low | no)
  · omega
  · cases no

section Clean
variable (clean : selPoison l e = false)
include clean

theorem entryChecked_badN (bad : entryN l e < 1 ∨ nbuNOk e (entryN l e).toNat = false) :
    entryChecked now y p v i r l e = nbuNext now (nbuFault y p v 1 fNbuAddr (Config.unstated 20 now % 2 ^ 21) 0) v false :=
  (if_neg (ne_true_of_eq_false clean)).trans (if_pos (bad.imp_right (fun no => by rw [no]; rfl)))

section InRange
variable (least : 1 ≤ entryN l e) (fits : nbuNOk e (entryN l e).toNat = true)
include least fits

theorem entryChecked_outside {line : Nat} (outside : entryOut y r l e = some line) :
    entryChecked now y p v i r l e = nbuNext now (nbuFault y p v 1 fNbuAddr line 0) v false := by
  rw [entryChecked, if_neg (ne_true_of_eq_false clean), if_neg (entryN_inRange least fits), outside]

theorem entryChecked_starts (inside : entryOut y r l e = none) (run : (y.nbu v).run = some (nbuCounted r e)) :
    entryChecked now y p v i r l e = y.setNbu v { y.nbu v with run := some { nbuCounted r e with job := some (entryJob y i r l e) } } := by
  rw [entryChecked, if_neg (ne_true_of_eq_false clean), if_neg (entryN_inRange least fits), inside, run]
  rfl

end InRange
end Clean
end Start

/-! ### NBU_ROW_OP_COMPLETE (R306, R310, R319) -/

section Complete
variable {now p v tag fails : Nat} {x : Stack} {a : Access} {failing : BitVec 16} {r : NbuRun} {j : NbuJob}

theorem columnTransfer_granted : (columnTransfer now x p a fails failing).2.granted = a.granted := by
  unfold columnTransfer
  dsimp only
  split <;> rfl

theorem nbuRefused_columnTransfer : nbuRefused (columnTransfer now x p a fails failing).2 = nbuRefused a := by
  rw [nbuRefused, columnTransfer_granted, nbuRefused]

/-- The transfer of row operation `a`, gone from those in flight. -/
def rowOpMoved (now : Nat) (x : Stack) (p : Nat) (a : Access) (fails : Nat) (failing : BitVec 16) : Stack × Access :=
  columnTransfer now (x.setVault p { x.vault p with flight := (x.vault p).flight.filter (fun b => decide (b.id ≠ a.id)) }) p a fails failing

/-- The stack with row operation `a` gone from the column and counted. -/
def rowOpCounted (now : Nat) (x : Stack) (p : Nat) (a : Access) (fails : Nat) (failing : BitVec 16) : Stack :=
  let y := (rowOpMoved now x p a fails failing).1
  setReg y (rNbuCount p) (addSat (reg y (rNbuCount p)) 32 32 1)

/-- What a started entry makes of a completed row operation with its tag and its line: a read's line waits for its turn. -/
def rowOpTaken (tag : Nat) (l : Line) (j : NbuJob) : NbuJob := if tag = 0 then j else { j with ready := j.ready ++ [(tag - 1, l)] }

/-- The stack with what a drained entry has become put back into its run. -/
def nbuDrained (v : Nat) (r : NbuRun) (c : NbuJob × Stack) : Stack :=
  c.2.setNbu v { c.2.nbu v with run := some { (match (c.2.nbu v).run with | some q => q | none => r) with job := some c.1 } }

variable (oldest : (x.vault p).flight.find? isNbu = some a) (origin : a.origin = .nbu v tag) (granted : a.granted ≠ 0)
  (run : ((rowOpCounted now x p a fails failing).nbu v).run = some r)
include oldest origin granted run

theorem nbuComplete_params (unread : r.params = none) (job : r.job = none) :
    nbuComplete now x p fails failing =
      let z := rowOpCounted now x p a fails failing
      z.setNbu v { z.nbu v with run := some { r with params := some (rowOpMoved now x p a fails failing).2.result } } := by
  have performed : nbuRefused a = false := decide_eq_false granted
  simp only [rowOpCounted, rowOpMoved] at run
  simp only [nbuComplete, rowOpCounted, rowOpMoved, oldest, performed, nbuRefused_columnTransfer, columnTransfer_keeps.2, origin, run, unread, job,
    Bool.false_eq_true, if_false]

theorem nbuComplete_consumes (job : r.job = some j) :
    nbuComplete now x p fails failing =
      let c := nbuDrain p v r 64 (rowOpCounted now x p a fails failing) (rowOpTaken tag (rowOpMoved now x p a fails failing).2.result j)
      if nbuSpent c.1 = true ∧ nbuOut (nbuDrained v r c) p = [] then nbuNext now (nbuDrained v r c) v true else nbuDrained v r c := by
  have performed : nbuRefused a = false := decide_eq_false granted
  simp only [rowOpCounted, rowOpMoved] at run
  simp only [nbuComplete, rowOpCounted, rowOpMoved, oldest, performed, nbuRefused_columnTransfer, columnTransfer_keeps.2, origin, run, job,
    Bool.false_eq_true, if_false]
  cases r.params <;> rfl

end Complete

/-- Settles O29: the entry that is looked at by its checks in their order, the row operation that completes by what it was for. -/
theorem nbuEntriesStartAndComplete : Obligations.NbuEntriesStartAndComplete := by
  constructor
  · intro s p v i rest r l e x r' y free site run params job todo sched
    have looks := nbuEntryStart_looks (now := s.now) free site run params job todo sched
    refine ⟨fun waits => exec_stackRow_idle rfl (looks.trans (if_pos (entryWaits_iff.mpr waits))), fun idle gate => ?_⟩
    have goes : ¬ entryWaits x p.s.val r e := by
      rw [entryWaits_iff]
      rintro (busy | ⟨exchange, ofJob, closed⟩)
      · exact busy idle
      · exact Bool.false_ne_true (closed.symm.trans (gate exchange ofJob))
    have checks : ∀ {z}, entryChecked s.now y p.s.val v i r l e = z → exec (.nbuEntryStart p) s = .next (s.setStack p.st z) :=
      fun becomes => exec_stackRow rfl ((looks.trans (if_neg goes)).trans becomes)
    refine ⟨fun poison => checks (entryChecked_bites poison), fun clean => ⟨fun bad => ⟨_, checks (entryChecked_badN clean bad)⟩,
      fun least fits line outside => checks (entryChecked_outside clean least fits outside), fun least fits inside =>
        ⟨entryJob y i r l e, checks (entryChecked_starts clean least fits inside (congrArg Nbu.run (nbu_setNbu_running rfl))), rfl, rfl, ?_, rfl, rfl, rfl,
          rfl, rfl, rfl, rfl, rfl⟩⟩⟩
    exact Int.toNat_of_nonneg (Int.le_of_lt least)
  · intro s p a v tag r x w y d z oldest origin granted run
    exact ⟨fun unread job => exec_stackRow rfl (nbuComplete_params oldest origin granted run unread job),
      fun j job => exec_stackRow rfl (nbuComplete_consumes oldest origin granted run job)⟩


end Sys2Proof.Machine
end

section
/-! PROOFS. The commands of near-bank units (O30): NBU_LOAD, NBU_RUN and NBU_GET_STATE by their checks in their order. -/

namespace Sys2Proof.Machine
open Sys2Proof

variable {s : State} {st : StackIx} {c : CmdRef} {k : Cmd}

/-! ### NBU_LOAD (R309, R326) -/

section Load
variable (started : CmdStarted s st c 0x0400 k)
include started

theorem nbuLoad_refused (refused : jobHeld (s.stack st) = true ∨ ((k.arg 0).toNat ≤ 167 ∧ rowRetired (s.stack st) (coreRow (k.arg 0).toNat) = true)) :
    exec (.nbuLoad st c) s = .next (s.setStack st (answerCmd s.now (s.stack st) k stState)) :=
  exec_cmdRow rfl started (if_pos refused)

/-- The schedules of the vaults that V names are replaced. -/
theorem nbuLoad_replaces (noJob : jobHeld (s.stack st) = false)
    (live : (k.arg 0).toNat ≤ 167 → rowRetired (s.stack st) (coreRow (k.arg 0).toNat) = false) :
    exec (.nbuLoad st c) s = .next (s.setStack st (answerCmd s.now
      ((if (k.arg 0).toNat = 0xFF then (List.range 168).filter (fun u => !rowRetired (s.stack st) (coreRow u)) else [(k.arg 0).toNat]).foldl
        (nbuLoadVault (nbuPayload k.data) (k.arg 1).toNat) (s.stack st)) k stOk)) := by
  refine exec_cmdRow rfl started (if_neg ?_)
  rintro (job | ⟨vault, retired⟩)
  · exact Bool.false_ne_true (noJob.symm.trans job)
  · exact Bool.false_ne_true ((live vault).symm.trans retired)

end Load

/-! ### NBU_RUN (R325) -/

/-- What NBU_RUN makes of the entry that it names, on a unit that runs nothing. -/
def nbuRunNamed (now : Nat) (x : Stack) (k : Cmd) (c : CmdRef) : Option NbuEntry → Stack
  | none => answerCmd now x k stInvalidParam
  | some e =>
    if nbuInvalid x e || (nbuZl8 e && decide (fld (reg x rSecLicence) 1 1 = 0)) then answerCmd now x k stInvalidParam
    else nbuBegin now x (k.arg 0).toNat
      { tick := 0, member := 0, seed := k.arg 2, cmd := some c, todo := [(k.arg 1).toNat], params := none, job := none, stoch := 0, failed := false }

section Named
variable {now : Nat} {x : Stack} {e : NbuEntry}

theorem nbuRunNamed_invalid (bad : nbuInvalid x e = true ∨ (nbuZl8 e = true ∧ fld (reg x rSecLicence) 1 1 = 0)) :
    nbuRunNamed now x k c (some e) = answerCmd now x k stInvalidParam := by
  refine if_pos ?_
  rwa [Bool.or_eq_true, Bool.and_eq_true, decide_eq_true_eq]

theorem nbuRunNamed_begins (valid : nbuInvalid x e = false) (licence : nbuZl8 e = true → fld (reg x rSecLicence) 1 1 ≠ 0) :
    nbuRunNamed now x k c (some e) = nbuBegin now x (k.arg 0).toNat
      { tick := 0, member := 0, seed := k.arg 2, cmd := some c, todo := [(k.arg 1).toNat], params := none, job := none, stoch := 0, failed := false } := by
  refine if_neg ?_
  rw [Bool.or_eq_true, Bool.and_eq_true, decide_eq_true_eq]
  rintro (invalid | ⟨zl8, unlicensed⟩)
  · exact Bool.false_ne_true (valid.symm.trans invalid)
  · exact licence zl8 unlicensed

end Named

section Run
variable (started : CmdStarted s st c 0x0401 k) (idle : ((s.stack st).nbu (k.arg 0).toNat).run = none)
include started idle

theorem nbuRun_idle : exec (.nbuRun st c) s = .next (s.setStack st
    (if jobHeld (s.stack st) = true ∨ rowRetired (s.stack st) (coreRow (k.arg 0).toNat) = true then answerCmd s.now (s.stack st) k stState
    else nbuRunNamed s.now (s.stack st) k c ((s.stack st).nbu (k.arg 0).toNat).sched[(k.arg 1).toNat]?)) := by
  refine exec_cmdRow rfl started ?_
  dsimp only
  rw [idle]
  rfl

theorem nbuRun_refused (refused : jobHeld (s.stack st) = true ∨ rowRetired (s.stack st) (coreRow (k.arg 0).toNat) = true) :
    exec (.nbuRun st c) s = .next (s.setStack st (answerCmd s.now (s.stack st) k stState)) := by
  rw [nbuRun_idle started idle, if_pos refused]

theorem nbuRun_named (noJob : jobHeld (s.stack st) = false) (live : rowRetired (s.stack st) (coreRow (k.arg 0).toNat) = false) :
    exec (.nbuRun st c) s = .next (s.setStack st
      (nbuRunNamed s.now (s.stack st) k c ((s.stack st).nbu (k.arg 0).toNat).sched[(k.arg 1).toNat]?)) := by
  rw [nbuRun_idle started idle, noJob, live, if_neg (by decide)]

end Run

/-- Settles O30: each command by its checks in their order. -/
theorem nbuCommands : Obligations.NbuCommands := by
  intro s st c k x v done
  refine ⟨?load, ?run, ?getState⟩
  case load =>
    intro started es load
    refine ⟨fun job => nbuLoad_refused started (.inl job), fun noJob vault live => ?_, fun noJob all => ?_, fun noJob vault retired =>
      nbuLoad_refused started (.inr ⟨vault, retired⟩)⟩
    · have one := nbuLoad_replaces started noJob (fun _ => live)
      rwa [if_neg (show ¬ v = 0xFF by omega)] at one
    · have many := nbuLoad_replaces started noJob (fun vault => absurd vault (show ¬ v ≤ 167 by omega))
      rwa [if_pos all] at many
  case run =>
    intro started idle
    refine ⟨nbuRun_refused started idle, fun noJob live => ?_⟩
    rw [nbuRun_named started idle noJob live]
    refine ⟨fun absent => ?_, fun e found bad => ?_, fun e found valid licence => ?_⟩
    · rw [absent]
      rfl
    · rw [found, nbuRunNamed_invalid bad]
    · rw [found, nbuRunNamed_begins valid licence]
  case getState => exact fun started => exec_cmdRow rfl started rfl

end Sys2Proof.Machine
end

section
/-! PROOFS. Every step keeps the record copies within their bound (O58). -/

namespace Sys2Proof.Machine
open Sys2Proof

theorem relayReplies_same (s : State) : s.Same (relayReplies s) :=
  .ite (.refl s) ((mc_same s _ (by rfl)).trans (onStacks_same _ _ _))

/-- One CCLK cycle moves the time on and touches no record copy. -/
theorem cycle_goes (s : State) : s.Goes (cycle s) := by
  have hclock := atCycle_goes s (s.now + 1)
  have hrelay := (relayReplies_same (s.atCycle (s.now + 1))).kept
  have hlinks : ∀ (t : State) (q : Quad Stack) (p : Prop) [Decidable p],
      t.Same (if p then { t with quad := q } else updateFaultL { t with quad := q }) := fun t q p _ => .ite ⟨rfl, rfl, rfl⟩ ⟨rfl, rfl, rfl⟩
  have h : (s.atCycle (s.now + 1)).Kept (cycle s) := hrelay.trans (hlinks _ _ _).kept
  exact ⟨h.pending.trans hclock.pending, hclock.now.trans h.now.ge, fun b => h.copies (hclock.copies b)⟩

/-- A step keeps the bound: an empty queue idles one cycle, a command at the front goes on as every row does. -/
theorem step_copiesBounded {s t : State} (hb : s.copiesBounded) (h : step s = .next t) : t.copiesBounded := by
  unfold step at h
  split at h
  next => exact Host.Outcome.next.inj h ▸ (cycle_goes s).copies hb
  next c rest _ =>
    obtain ⟨u, hu, hg⟩ := exec_goesOn c { s with pending := rest }
    exact Host.Outcome.next.inj (hu.symm.trans h) ▸ hg.copies hb

/-- Settles O58: every row and the idle cycle go on with at most 256 record copies of each stack. -/
theorem recordCopiesStayBounded : Obligations.RecordCopiesStayBounded := fun _ _ hb h => step_copiesBounded hb h

end Sys2Proof.Machine
end

section
/-! PROOFS. A step takes the front command; an empty queue idles one cycle (O56). -/

namespace Sys2Proof.Machine
open Sys2Proof

theorem step_front (c : Instr) (rest : List Instr) (s : State) : step { s with pending := c :: rest } = exec c { s with pending := rest } := rfl

theorem step_idle {s : State} (h : s.pending = []) : step s = .next (cycle s) := by simp [step, h]

theorem atCycle_next_now (s : State) : (s.atCycle (s.now + 1)).now = s.now + 1 := by simp [State.atCycle]

/-- A stack none of whose links holds a symbol and which remembers no pair passes a cycle as it is. -/
theorem stackCycle_quiet {now : Nat} {x : Stack} (hl : x.router.links.all (fun e => (x.link e.1).symbols.isEmpty) = true)
    (hw : x.faults.wires = []) : stackCycle now x = x := by
  have hfold : ∀ l : Tbl Link, (∀ e ∈ l, (x.link e.1).symbols = []) → l.foldl (fun s e => controlDue now s e.1) x = x := by
    intro l hl
    induction l with
    | nil => rfl
    | cons e l ih =>
      rw [List.foldl_cons, show controlDue now x e.1 = x by simp [controlDue, hl e (by simp)]]
      exact ih fun e he => hl e (by simp [he])
  have hsend : sendControls now x = x := hfold _ (by simpa using hl)
  have hkept : settleWires now x.faults = x.faults := by
    unfold settleWires
    rw [hw, List.filter_nil, ← hw]
  unfold stackCycle
  dsimp only
  rw [hsend, hkept]

/-- With no reply waiting at a stack the sideband carries none. -/
theorem relayReplies_quiet {s : State} (h : ∀ i : StackIx, (s.stack i).sent.all (fun e => (replyOf e).isNone) = true) : relayReplies s = s := by
  have hnone : ∀ i : StackIx, (s.stack i).sent.filterMap replyOf = [] := fun i =>
    List.filterMap_eq_nil_iff.2 fun e he => by simpa using List.all_eq_true.1 (h i) e he
  simp [relayReplies, hnone]

theorem cycle_quiet {s : State} (h : ∀ i : StackIx, let x := s.stack i
    x.router.links.all (fun e => (x.link e.1).symbols.isEmpty) = true ∧ x.faults.wires = [] ∧ x.sent.all (fun e => (replyOf e).isNone) = true) :
    cycle s = s.atCycle (s.now + 1) := by
  have hstack : ∀ i, (s.atCycle (s.now + 1)).stack i = s.stack i := fun i => by simp [State.atCycle, State.stack]
  have hrelay : relayReplies (s.atCycle (s.now + 1)) = s.atCycle (s.now + 1) := relayReplies_quiet fun i => by rw [hstack]; exact (h i).2.2
  have hgo : ∀ (n : Nat) (i : StackIx), stackCycle n ((s.atCycle (s.now + 1)).stack i) = (s.atCycle (s.now + 1)).stack i := fun n i => by
    rw [hstack]; exact stackCycle_quiet (h i).1 (h i).2.1
  have h0 := hgo (s.atCycle (s.now + 1)).now 0
  have h1 := hgo (s.atCycle (s.now + 1)).now 1
  have h2 := hgo (s.atCycle (s.now + 1)).now 2
  have h3 := hgo (s.atCycle (s.now + 1)).now 3
  simp only [State.stack, Quad.get] at h0 h1 h2 h3
  simp only [cycle, hrelay, h0, h1, h2, h3]
  simp

theorem mem_allStacks (i : StackIx) : i ∈ allStacks := by
  match i with
  | 0 | 1 | 2 | 3 => decide

/-- Settles O56: the idle cycle is `cycle`, whose FAULT_L follows the pairs where they have changed. -/
theorem stepTakesTheFrontCommand : Obligations.StepTakesTheFrontCommand := by
  unfold Obligations.StepTakesTheFrontCommand
  refine ⟨step_front, fun s hq => ?_, fun s hq hquiet => ?_⟩
  · refine ⟨(relayReplies_same _).now.trans (atCycle_next_now s), fun hsame => ?_, fun i hchanged => ?_⟩
    · rw [step_idle hq]
      exact congrArg _ (if_pos (List.all_eq_true.2 fun i _ => decide_eq_true (hsame i)))
    · rw [step_idle hq]
      exact congrArg _ (if_neg fun hall => hchanged (of_decide_eq_true (List.all_eq_true.1 hall i (mem_allStacks i))))
  · rw [step_idle hq, cycle_quiet hquiet]

end Sys2Proof.Machine
end

section
/-! PROOFS. What reset leaves (O59). -/

namespace Sys2Proof.Machine
open Sys2Proof

theorem reset_stack (i : StackIx) : State.reset.stack i = Stack.reset := Quad.get_all _ i

/-- The reset value of IVT_ROUTEn: the other registers of `resetValue` lie elsewhere. -/
theorem resetValue_route (n : Fin 4096) : resetValue (rIvtRoute n.val) = 0xFFFFFFFFFFFFFFFF#64 := by
  have hn := n.isLt
  unfold resetValue rIvtRoute
  simp only [rTckConfig, rFltPoisonSev, rFltCfg, rFltRepairCfg, rKveCfg, rIvtNode, rIvtCredit, rIvtCfg]
  refine congrArg (bv 64) (a₂ := 0xFFFFFFFFFFFFFFFF) ?_
  iterate 12 refine (if_neg (by omega)).trans ?_
  exact if_pos (by omega)

theorem resetValue_lost (n : Fin 1024) : resetValue (rIvtLost n.val) = 0 := by
  have hn := n.isLt
  unfold resetValue rIvtLost
  simp only [rTckConfig, rFltPoisonSev, rFltCfg, rFltRepairCfg, rKveCfg, rIvtNode, rIvtCredit, rIvtCfg, rPwrLimit, rPwrIdle, rThmCfg, rThmCoolant]
  refine congrArg (bv 64) (a₂ := 0) ?_
  iterate 18 refine (if_neg (by omega)).trans ?_
  rfl

/-- Settles O59: each stack is `Stack.reset`, and the table's registers are given by `resetValue`. -/
theorem resetLeavesItsValues : Obligations.ResetLeavesItsValues := by
  unfold Obligations.ResetLeavesItsValues
  refine ⟨rfl, reset_memWf, reset_copiesBounded, rfl, rfl, fun i => ?_,
    resetValue_route, resetValue_lost, by decide, by decide⟩
  rw [reset_stack]
  exact ⟨rfl, rfl, rfl, rfl, rfl, fun _ => rfl, fun _ => rfl, fun _ => ⟨rfl, rfl, rfl, rfl⟩⟩

end Sys2Proof.Machine
end

section
/-! PROOFS. The KV commands of issuers and of row agents (O32): what `kvRow` makes of a command that has started and of a record that is taken. -/

namespace Sys2Proof.Machine
open Sys2Proof

section KvCommands
variable {s : State} {st : StackIx} {op : Nat} {i : Instr}

/-- A stack on which an issuer's KV command of opcode `op` has been acted on and answered. -/
def issuerAnswered (now : Nat) (k : Cmd) (op : Nat) (z : Stack) : Stack :=
  let d := kvRun z none op k.arg
  sendReply now (dropCmd d.2.2 k.ref) k (replyBytes now (actTick d.2.2) k d.1 d.2.1 [] false)

/-- A stack on which the record that a row's agent has taken has been acted on, as one of opcode `op`, and answered. -/
def recordAnswered (r id : Nat) (rec : List Byte) (op : Nat) (z : Stack) : Stack :=
  let d := kvRun (z.setRow r { z.row r with kvTaken := none }) (some r) op (fun n => recWord rec (n + 1))
  setReply d.2.2 r id (replyLine rec d.1 d.2.1)

theorem kvAnswer_eq (now : Nat) (z : Stack) (k : Cmd) : kvAnswer now z k = issuerAnswered now k k.op z := rfl

theorem agentRun_eq (r id : Nat) (rec : List Byte) (z : Stack) :
    agentRun (z.setRow r { z.row r with kvTaken := none }) r id rec = recordAnswered r id rec (fld (recWord rec 0) 0 16) z := rfl

/-- What O32 says of a row that finds an issuer's command started. -/
def KvIssuerRow (s : State) (st : StackIx) (op : Nat) (i : CmdRef → Instr) : Prop :=
  ∀ (r : CmdRef) (k : Cmd), startedCmd (s.stack st) r = some k → k.op = op →
    let x := s.stack st
    let y := issuerAnswered s.now k op (kvSees x (kvAskedBy x (some (.issuer r))))
    (columnsHeld x = true → exec (i r) s = .next s)
    ∧ (columnsHeld x = false → ¬ (op ≤ 0x0305 ∧ jobRuns x = true ∧ kvConfigured x = true) →
      (kvReady x y (some (.issuer r)) = true → exec (i r) s = .next (s.setStack st (kvDone x y (some (.issuer r)))))
      ∧ (kvReady x y (some (.issuer r)) = false →
        exec (i r) s = .next (s.setStack st ((kvMissing x y (some (.issuer r))).foldl (kvAsk s.now (some (.issuer r)) 0) x))))
    ∧ (columnsHeld x = false → op ≤ 0x0305 → jobRuns x = true → kvConfigured x = true →
      (k.arg 7 = 0 ∨ (k.arg 7).toNat ≤ x.kv.phaseTick → exec (i r) s = .next (s.setStack st (answerCmd s.now x k stState)))
      ∧ (k.arg 7 ≠ 0 → x.kv.phaseTick < (k.arg 7).toNat → exec (i r) s = .next (s.setStack st
        { dropCmd x r with kv := { x.kv with waiting := x.kv.waiting ++ [k] } })))

/-- What O32 says of a row whose agent has taken a record. -/
def KvAgentRow (s : State) (st : StackIx) (op : Nat) (i : RowIx → Instr) : Prop :=
  ∀ (r : RowIx) (id : Nat) (rec : List Byte), columnsHeld (s.stack st) = false → ((s.stack st).row r.val).kvTaken = some (id, rec) →
    let x := s.stack st
    let y := recordAnswered r.val id rec op (kvSees x (kvAskedBy x (some (.agent r))))
    (fld (recWord rec 0) 0 16 = op →
      (kvReady x y (some (.agent r)) = true → exec (i r) s = .next (s.setStack st (kvDone x y (some (.agent r)))))
      ∧ (kvReady x y (some (.agent r)) = false →
        exec (i r) s = .next (s.setStack st ((kvMissing x y (some (.agent r))).foldl (kvAsk s.now (some (.agent r)) r.val) x))))
    ∧ (fld (recWord rec 0) 0 16 ≠ op → exec (i r) s = .next s)

/-- A phase command of a configured engine while a job runs does not act at once (R345). -/
theorem kvInPhase_iff (kv : 0x0301 ≤ op) (x : Stack) :
    (kvInPhase op = true ∧ jobRuns x = true ∧ kvConfigured x = true) ↔ (op ≤ 0x0305 ∧ jobRuns x = true ∧ kvConfigured x = true) := by
  simp [kvInPhase, kv]

section Issuer
variable {now : Nat} {x : Stack} {r : CmdRef} {k : Cmd} (started : startedCmd x r = some k) (kv : 0x0301 ≤ k.op)
include started kv

theorem kvIssuer_acts (free : ¬ (k.op ≤ 0x0305 ∧ jobRuns x = true ∧ kvConfigured x = true)) :
    kvIssuer now x r k.op = kvMay now (some (.issuer r)) 0 x (issuerAnswered now k k.op) := by
  unfold kvIssuer
  rw [started]
  exact (if_neg (not_not_intro rfl)).trans (if_neg (mt (kvInPhase_iff kv x).mp free))

/-- A phase command answers STATE where it names no later tick, and waits for its tick otherwise. -/
theorem kvIssuer_waits (waits : k.op ≤ 0x0305 ∧ jobRuns x = true ∧ kvConfigured x = true) :
    kvIssuer now x r k.op = if (k.arg 7).toNat = 0 ∨ (k.arg 7).toNat ≤ x.kv.phaseTick then answerCmd now x k stState
      else { dropCmd x r with kv := { x.kv with waiting := x.kv.waiting ++ [k] } } := by
  unfold kvIssuer
  rw [started]
  exact (if_neg (not_not_intro rfl)).trans (if_pos ((kvInPhase_iff kv x).mpr waits))

end Issuer

theorem kvRow_held {now : Nat} {x : Stack} {src : KvSource} (held : columnsHeld x = true) : kvRow now x src op = x := if_pos held

theorem kvRow_issuer {now : Nat} {x : Stack} {r : CmdRef} (free : columnsHeld x = false) : kvRow now x (.issuer r) op = kvIssuer now x r op :=
  if_neg (Bool.eq_false_iff.mp free)

theorem kvRow_agent {now : Nat} {x : Stack} {r : RowIx} (free : columnsHeld x = false) : kvRow now x (.agent r) op = agentAct now x r op :=
  if_neg (Bool.eq_false_iff.mp free)

theorem kvIssuerRow {i : CmdRef → Instr} (hi : ∀ r, exec (i r) s = onSt s st (fun x => kvRow s.now x (.issuer r) op)) (kv : 0x0301 ≤ op) :
    KvIssuerRow s st op i := by
  rintro r k started rfl
  refine ⟨fun held => ?held, fun free acts => ?acts, fun free phase job configured => ⟨fun past => ?past, fun named later => ?later⟩⟩
  case held => exact exec_stackRow_idle (hi r) (kvRow_held held)
  case acts =>
    have row := exec_kvMay (exec_stackRow (hi r) ((kvRow_issuer free).trans (kvIssuer_acts started kv acts)))
    exact row
  case past =>
    refine exec_stackRow (hi r) ((kvRow_issuer free).trans ((kvIssuer_waits started kv ⟨phase, job, configured⟩).trans (if_pos ?_)))
    exact past.imp_left fun none_ => by rw [none_]; rfl
  case later =>
    refine exec_stackRow (hi r) ((kvRow_issuer free).trans ((kvIssuer_waits started kv ⟨phase, job, configured⟩).trans (if_neg ?_)))
    exact not_or.mpr ⟨fun zero => named (BitVec.eq_of_toNat_eq zero), Nat.not_le.mpr later⟩

/-- An agent acts on the record that it has taken where the row is the record's. -/
theorem agentAct_taken {now : Nat} {x : Stack} {r : RowIx} {id : Nat} {rec : List Byte} (taken : (x.row r.val).kvTaken = some (id, rec)) :
    agentAct now x r op = if fld (recWord rec 0) 0 16 = op then
      kvMay now (some (.agent r)) r.val x (recordAnswered r.val id rec (fld (recWord rec 0) 0 16)) else x := by
  unfold agentAct
  rw [taken]
  rfl

theorem kvAgentRow {i : RowIx → Instr} (hi : ∀ r, exec (i r) s = onSt s st (fun x => kvRow s.now x (.agent r) op)) : KvAgentRow s st op i :=
  fun r id rec free taken => by
    have act := (kvRow_agent free).trans (agentAct_taken (now := s.now) (op := op) taken)
    refine ⟨fun same => ?_, fun other => exec_stackRow_idle (hi r) (act.trans (if_neg other))⟩
    have row := exec_kvMay (exec_stackRow (hi r) (act.trans (if_pos same)))
    rw [same] at row
    exact row

end KvCommands

/-- Settles O32: the eight rows are `kvRow` of their opcodes. -/
theorem kvCommandsAct : Obligations.KvCommandsAct := by
  intro s st
  have row : ∀ (op : Nat) (i : CmdRef → Instr) (j : RowIx → Instr), (∀ r, exec (i r) s = onSt s st (fun x => kvRow s.now x (.issuer r) op)) →
      (∀ r, exec (j r) s = onSt s st (fun x => kvRow s.now x (.agent r) op)) → 0x0301 ≤ op →
      KvIssuerRow s st op i ∧ KvAgentRow s st op j := fun op i j hi hj kv => ⟨kvIssuerRow hi kv, kvAgentRow hj⟩
  exact ⟨row 0x0301 (fun r => .kvSeqCreate st (.issuer r)) (fun r => .kvSeqCreate st (.agent r)) (fun _ => rfl) (fun _ => rfl) (by decide),
    row 0x0302 (fun r => .kvStepReserve st (.issuer r)) (fun r => .kvStepReserve st (.agent r)) (fun _ => rfl) (fun _ => rfl) (by decide),
    row 0x0303 (fun r => .kvFork st (.issuer r)) (fun r => .kvFork st (.agent r)) (fun _ => rfl) (fun _ => rfl) (by decide),
    row 0x0304 (fun r => .kvFree st (.issuer r)) (fun r => .kvFree st (.agent r)) (fun _ => rfl) (fun _ => rfl) (by decide),
    row 0x0305 (fun r => .kvSetEviction st (.issuer r)) (fun r => .kvSetEviction st (.agent r)) (fun _ => rfl) (fun _ => rfl) (by decide),
    row 0x0306 (fun r => .kvAppend st (.issuer r)) (fun r => .kvAppend st (.agent r)) (fun _ => rfl) (fun _ => rfl) (by decide),
    row 0x0307 (fun r => .kvCommit st (.issuer r)) (fun r => .kvCommit st (.agent r)) (fun _ => rfl) (fun _ => rfl) (by decide),
    row 0x0308 (fun r => .kvGetSeq st (.issuer r)) (fun r => .kvGetSeq st (.agent r)) (fun _ => rfl) (fun _ => rfl) (by decide)⟩

end Sys2Proof.Machine
end

section
/-! PROOFS. What the KV commands make of a configured pool (O33): the writes of the engine leave its trays and backing slots, and each command
follows its own checks. -/

namespace Sys2Proof.Machine
open Sys2Proof

/-! ### Trays and backing slots under the engine's writes -/

/-- The trays and the backing slots are as they were. -/
structure Stack.KeepsTrays (x y : Stack) : Prop where
  trays : y.kv.trays = x.kv.trays
  backing : y.kv.backing = x.kv.backing

theorem Stack.KeepsTrays.refl (x : Stack) : x.KeepsTrays x := ⟨rfl, rfl⟩

theorem Stack.KeepsTrays.trans {x y z : Stack} (a : x.KeepsTrays y) (b : y.KeepsTrays z) : x.KeepsTrays z :=
  ⟨b.trays.trans a.trays, b.backing.trans a.backing⟩

theorem Stack.KeepsTrays.foldl {α : Type} {f : Stack → α → Stack} (h : ∀ (x : Stack) (a : α), x.KeepsTrays (f x a)) (l : List α) (x : Stack) :
    x.KeepsTrays (l.foldl f x) := by
  induction l generalizing x with
  | nil => exact .refl x
  | cons a l ih => exact (h x a).trans (ih (f x a))

theorem writeLine_keepsTrays (x : Stack) (a : Nat) (l : Line) (mask : BitVec 512) : x.KeepsTrays (writeLine x a l mask) := by
  unfold writeLine putLine freshParity
  exact ⟨rfl, rfl⟩

theorem kvNote_keepsTrays (x : Stack) (write part : Bool) (ls : List Nat) : x.KeepsTrays (kvNote x write part ls) := ⟨rfl, rfl⟩

theorem kvTouch_keepsTrays (x : Stack) (write : Bool) (ls : List Nat) : x.KeepsTrays (kvTouch x write ls) := kvNote_keepsTrays x write false ls

theorem kvPutAt_keepsTrays (r : Nat) (x : Stack) (a : Nat) (l : Line) : x.KeepsTrays (kvPutAt r x a l) := by
  have noted := kvTouch_keepsTrays x true [a]
  unfold kvPutAt
  refine .trans ?_ (writeLine_keepsTrays _ _ _ _)
  split
  · exact noted.trans ⟨rfl, rfl⟩
  · exact noted

theorem kvPut_keepsTrays (x : Stack) (a : Nat) (l : Line) : x.KeepsTrays (kvPut x a l) := kvPutAt_keepsTrays 0 x a l

theorem putDesc_keepsTrays (x : Stack) (q : Nat) (d : KvDesc) : x.KeepsTrays (putDesc x q d) := kvPut_keepsTrays x _ _

theorem kvCopyLine_keepsTrays (r : Nat) (x : Stack) (src dst : Nat) : x.KeepsTrays (kvCopyLine r x src dst) :=
  (kvTouch_keepsTrays x false [src]).trans (kvPutAt_keepsTrays _ _ _ _)

/-! ### The commands of a configured pool -/

section Effects
variable {x : Stack} {row : Option Nat} {p : Nat → Word}

section Named
variable (configured : kvConfigured x = true)
include configured

theorem kvDo_create : kvDo x row 0x0301 p = kvCreate x p := by unfold kvDo; simp [configured]
theorem kvDo_reserve : kvDo x row 0x0302 p = kvReserve x p := by unfold kvDo; simp [configured]
theorem kvDo_fork : kvDo x row 0x0303 p = kvFork x p := by unfold kvDo; simp [configured]
theorem kvDo_free : kvDo x row 0x0304 p = kvFree x p := by unfold kvDo; simp [configured]
theorem kvDo_setEviction : kvDo x row 0x0305 p = kvSetEviction x p := by unfold kvDo; simp [configured]
theorem kvDo_append (r : Nat) : kvDo x (some r) 0x0306 p = kvAppend x r p := by unfold kvDo; simp [configured]
theorem kvDo_commit (r : Nat) : kvDo x (some r) 0x0307 p = kvCommit x r p := by unfold kvDo; simp [configured]
theorem kvDo_getSeq : kvDo x row 0x0308 p = kvGetSeq x p := by unfold kvDo; simp [configured]
theorem kvDo_append_issuer : kvDo x none 0x0306 p = .error ⟨stState, 0⟩ := by unfold kvDo; simp [configured, kvNo]
theorem kvDo_commit_issuer : kvDo x none 0x0307 p = .error ⟨stState, 0⟩ := by unfold kvDo; simp [configured, kvNo]

theorem kvDo_unknown {op : Nat} (h : op < 0x0301 ∨ 0x0308 < op) : kvDo x row op p = .error ⟨stInvalidOpcode, 0⟩ := by
  unfold kvDo
  simp only [configured, Bool.not_true, Bool.false_eq_true, if_false]
  split
  case h_11 => rfl
  all_goals omega

end Named

/-- The stack with tray `t` taken by sequence `q`, and with the tray of `q` released. -/
def trayTaken (q t : Nat) (y : Stack) : Stack := { y with kv := { y.kv with trays := tput y.kv.trays q t } }
def trayReleased (q : Nat) (y : Stack) : Stack := { y with kv := { y.kv with trays := tdel y.kv.trays q } }

/-- KV_SEQ_CREATE of a sequence that is not live, outside ring mode. -/
theorem kvCreate_creates {d : KvDesc} {t : Nat} (seq : (p 0).toNat ≤ 4095) (cls : fld (p 1) 0 4 ≤ 8) (pages : kvPages x (fld (p 1) 0 4) ≠ 0)
    (flat : fld (p 1) 8 1 = 0) (noRing : fld (p 1) 16 32 = 0) (desc : kvDesc x (p 0).toNat = .ok d) (dead : d.live = false)
    (tray : freeTray x = some t) :
    kvCreate x p = .ok ([bv 64 t], trayTaken (p 0).toNat t (putDesc x (p 0).toNat
      { live := true, cls := fld (p 1) 0 4, ring := false, evict := false, owner := fld (p 2) 0 3, tray := t, npages := 0, ringPages := 0,
        window := fld (p 3) 0 32, appended := 0, res := 0, staged := 0, committed := 0, unbacked := 0, high := 0 })) := by
  have taken : ¬ (4095 < (p 0).toNat ∨ 8 < fld (p 1) 0 4 ∨ kvPages x (fld (p 1) 0 4) = 0
      ∨ (false = true ∧ (fld (p 1) 16 32 = 0 ∨ 8127 < fld (p 1) 16 32)) ∨ ((!false) = true ∧ fld (p 1) 16 32 ≠ 0)) := by
    simp [Nat.not_lt.mpr seq, Nat.not_lt.mpr cls, pages, noRing]
  have ring : decide (fld (p 1) 8 1 = 1) = false := by simp [flat]
  unfold kvCreate
  simp only [ring, taken, if_false, desc]
  simp only [noRing, bind, Except.bind, pure, Except.pure, dead, tray, Bool.false_eq_true, if_false]
  rfl

theorem kvLive_live {q : Nat} {d : KvDesc} (desc : kvDesc x q = .ok d) (live : d.live = true) : kvLive x q = .ok d := by
  unfold kvLive
  rw [desc]
  exact if_pos live

/-- A count that KV_APPEND and KV_COMMIT take. -/
theorem counted (seq : (p 0).toNat ≤ 4095) (some_ : 1 ≤ (p 1).toNat) (fits : (p 1).toNat ≤ 64) :
    ¬ (4095 < (p 0).toNat ∨ (p 1).toNat = 0 ∨ 64 < (p 1).toNat) := by omega

section Live
variable {d : KvDesc} (seq : (p 0).toNat ≤ 4095) (desc : kvLive x (p 0).toNat = .ok d)
include seq desc

section Count
variable {r : Nat} (some_ : 1 ≤ (p 1).toNat) (fits : (p 1).toNat ≤ 64)
include some_ fits

/-- KV_APPEND of the owner's agent where the tray has room. -/
theorem kvAppend_stages {slots : List Nat} (owner : d.owner = r) (room : d.staged + (p 1).toNat ≤ kvT d.cls)
    (backs : if min (p 1).toNat d.res = 0 then slots = [] else kvNextSlots x (p 0).toNat d (min (p 1).toNat d.res) = .ok slots) :
    let n := (p 1).toNat
    let q := (p 0).toNat
    kvAppend x r p = .ok ([bv 64 d.staged, bv 64 (min n d.res), bv 64 d.appended],
      putDesc (setBacking x q (kvBacking x q ++ slots)) q { d with
        staged := d.staged + n, appended := d.appended + n, res := d.res - min n d.res, unbacked := d.unbacked + (n - min n d.res) }) := by
  unfold kvAppend
  simp only [counted seq some_ fits, if_false, desc]
  simp only [bind, Except.bind, pure, Except.pure, owner, ne_eq, not_true_eq_false, if_false, Nat.not_lt.mpr room]
  split at backs
  next h => simp only [h, if_true, backs]
  next h => simp only [h, if_false, backs]

theorem kvAppend_noRoom (owner : d.owner = r) (full : kvT d.cls < d.staged + (p 1).toNat) : kvAppend x r p = .error ⟨stPageExhausted, 0⟩ := by
  unfold kvAppend
  simp only [counted seq some_ fits, if_false, desc]
  simp only [bind, Except.bind, owner, ne_eq, not_true_eq_false, if_false, full, if_true, kvNo]

theorem kvAppend_notOwner (other : d.owner ≠ r) : kvAppend x r p = .error ⟨stState, 0⟩ := by
  unfold kvAppend
  simp only [counted seq some_ fits, if_false, desc]
  simp only [bind, Except.bind, if_pos other, kvNo]

theorem kvCommit_notOwner (other : d.owner ≠ r) : kvCommit x r p = .error ⟨stState, 0⟩ := by
  unfold kvCommit
  simp only [counted seq some_ fits, if_false, desc]
  simp only [bind, Except.bind, if_pos other, kvNo]

theorem kvCommit_beyond (owner : d.owner = r) (beyond : d.staged - d.committed < (p 1).toNat) : kvCommit x r p = .error ⟨stInvalidParam, 0⟩ := by
  unfold kvCommit
  simp only [counted seq some_ fits, if_false, desc]
  simp only [bind, Except.bind, owner, ne_eq, not_true_eq_false, if_false, if_pos beyond, kvNo]

end Count

theorem kvSetEviction_sets (allowed : ¬ (fld (p 1) 0 1 = 1 ∧ d.ring = true)) :
    kvSetEviction x p = .ok ([], putDesc x (p 0).toNat { d with evict := decide (fld (p 1) 0 1 = 1), window := fld (p 2) 0 32 }) := by
  unfold kvSetEviction
  simp only [Nat.not_lt.mpr seq, if_false, desc]
  simp only [bind, Except.bind, pure, Except.pure, decide_eq_true_eq, allowed, if_false]

/-- KV_STEP_RESERVE outside ring mode, within the free slots of a sequence that shares none of the pages it takes. -/
theorem kvReserve_backs {tab : List (Nat × Nat)} {free slots : List Nat} (flat : d.ring = false) (count : (p 1).toNat ≤ 65536) (unpinned : fld (p 2) 0 1 = 0)
    (table : kvTable x (p 0).toNat d.npages = .ok tab) (pages : kvFreePages x d.cls = .ok free) (open_ : kvFreeSlots x (p 0).toNat d = .ok slots)
    (room : d.unbacked + (p 1).toNat ≤ slots.length)
    (unshared : kvSharedOf x d.cls tab (slots.take (d.unbacked + (p 1).toNat)) = .ok []) :
    let q := (p 0).toNat
    kvReserve x p = .ok ([0, 0, 0], putDesc (setBacking x q (kvBacking x q ++ slots.take d.unbacked)) q { d with unbacked := 0, res := (p 1).toNat }) := by
  have next : kvNextSlots x (p 0).toNat d d.unbacked = .ok (slots.take d.unbacked) := by
    simp [kvNextSlots, flat, open_, bind, Except.bind, pure, Except.pure]
  have taken : ¬ (4095 < (p 0).toNat ∨ 65536 < (p 1).toNat) := by omega
  unfold kvReserve
  simp only [taken, if_false, desc]
  simp [bind, Except.bind, pure, Except.pure, table, pages, open_, flat, Nat.not_lt.mpr room, Nat.min_eq_left room, unshared, kvEvict, kvCopyShared, kvAllocate,
    reserveEnd, next, unpinned]

/-- KV_FREE of a sequence with no page. -/
theorem kvFree_frees (none_ : d.npages = 0) :
    let q := (p 0).toNat
    kvFree x p = .ok ([0], setBacking (trayReleased q
      (putDesc x q { d with live := false, npages := 0, staged := 0, committed := 0, unbacked := 0, res := 0 })) q []) := by
  unfold kvFree
  simp only [Nat.not_lt.mpr seq, if_false, desc]
  simp only [none_, kvTable, List.range_zero, List.mapM_nil, bind, Except.bind, pure, Except.pure, refsDown, List.foldl_nil]
  rfl

end Live

/-- The first `n` entries of tray `from_` copied to tray `into` (R353). -/
def entriesCopied (from_ into n : Nat) (x : Stack) : Stack :=
  (List.range (n * kvE x)).foldl (fun y k => kvCopyLine 0 y (trayAddr y from_ (1 + k)) (trayAddr y into (1 + k))) x

/-- The entries of a tray copied with their records, the other records of tray `into` clear (R353). -/
def trayCopied (from_ into n : Nat) (x : Stack) : Stack :=
  let y := entriesCopied from_ into n x
  writeLine (kvNote (kvTouch (kvPut y (trayAddr y into 0) Line.zero) false [trayAddr y from_ 0]) true true [trayAddr y into 0]) (trayAddr y into 0)
    (readLine y (trayAddr y from_ 0)) (spanMask 0 (8 * n))

theorem trayCopied_keepsTrays (from_ into n : Nat) (x : Stack) : x.KeepsTrays (trayCopied from_ into n x) := by
  have entries : x.KeepsTrays (entriesCopied from_ into n x) := .foldl (fun y _ => kvCopyLine_keepsTrays 0 y _ _) _ x
  exact (((entries.trans (kvPut_keepsTrays _ _ _)).trans (kvTouch_keepsTrays _ _ _)).trans (kvNote_keepsTrays _ _ _ _)).trans (writeLine_keepsTrays _ _ _ _)

/-- KV_FORK of a sequence with no page. -/
theorem kvFork_forks {d c : KvDesc} {t : Nat} {free : List Nat} (seq : (p 0).toNat ≤ 4095) (child : (p 1).toNat ≤ 4095) (differ : (p 0).toNat ≠ (p 1).toNat)
    (desc : kvLive x (p 0).toNat = .ok d) (childDesc : kvDesc x (p 1).toNat = .ok c) (dead : c.live = false) (tray : freeTray x = some t)
    (none_ : d.npages = 0) (pages : kvFreePages x d.cls = .ok free) :
    kvFork x p = .ok ([bv 64 t, 0], trayTaken (p 1).toNat t (putDesc (trayCopied d.tray t d.committed x) (p 1).toNat
      { d with owner := fld (p 2) 0 3, evict := false, res := 0, tray := t, staged := d.committed, unbacked := d.committed })) := by
  have taken : ¬ (4095 < (p 0).toNat ∨ 4095 < (p 1).toNat ∨ (p 0).toNat = (p 1).toNat) := by omega
  have table : kvTable x (p 0).toNat d.npages = .ok [] := by
    rw [none_]
    rfl
  unfold kvFork
  simp only [taken, if_false, desc]
  simp only [childDesc]
  simp only [bind, Except.bind, dead, tray, Bool.false_eq_true, if_false]
  simp only [table, pages]
  simp only [List.length_nil, List.range_zero, List.filter_nil, List.map_nil, Nat.not_lt_zero, if_false, forkTable, refsUp, pure, Except.pure]
  simp only [trayCopied, entriesCopied]
  generalize putDesc _ _ _ = z
  rfl

theorem trayTaken_trays (q t : Nat) (y : Stack) : (trayTaken q t y).kv.trays = tput y.kv.trays q t := rfl

theorem trayTaken_mem (q t : Nat) (y : Stack) : (trayTaken q t y).mem = y.mem := rfl

/-- The tray taken, by the trays of a stack before that has the same. -/
theorem trayTaken_eq {q t : Nat} {y z : Stack} (h : z.kv.trays = y.kv.trays) :
    trayTaken q t z = { z with kv := { z.kv with trays := tput y.kv.trays q t } } := by
  unfold trayTaken
  rw [h]

theorem released_mem (q : Nat) (y : Stack) : (setBacking (trayReleased q y) q []).mem = y.mem := rfl

theorem released_trays (q : Nat) (y : Stack) : (setBacking (trayReleased q y) q []).kv.trays = tdel y.kv.trays q := rfl

theorem released_backing (q : Nat) (y : Stack) : (setBacking (trayReleased q y) q []).kv.backing = tset (fun _ => []) y.kv.backing q [] := rfl

theorem kvGetSeq_reads {v : Nat} (seq : (p 0).toNat ≤ 4095) (read : kvRead 2 x (descAddr x (p 0).toNat) 52 = .ok v) :
    kvGetSeq x p = .ok ((List.range 7).map (fun i => bv 64 (v / 2 ^ (64 * i))), x) := by
  unfold kvGetSeq
  simp only [Nat.not_lt.mpr seq, if_false]
  rw [read]
  rfl

end Effects

/-- Settles O33: each command by the lemma of its case. -/
theorem kvCommandEffects : Obligations.KvCommandEffects := by
  intro x row p configured q
  refine ⟨fun d t seq cls pages flat noRing desc dead tray => ?create, fun d seq desc live => ?_, fun v seq read => ?get,
    kvDo_append_issuer configured, kvDo_commit_issuer configured, fun op _ outside => kvDo_unknown configured outside⟩
  case create =>
    refine ⟨_, (kvDo_create configured).trans (kvCreate_creates seq cls pages flat noRing desc dead tray), ?_, trayTaken_mem _ _ _⟩
    rw [trayTaken_trays, (putDesc_keepsTrays _ _ _).trays]
  case get => exact (kvDo_getSeq configured).trans (kvGetSeq_reads seq read)
  have alive := kvLive_live desc live
  refine ⟨fun r slots some_ fits owner room backs => (kvDo_append configured r).trans (kvAppend_stages seq alive some_ fits owner room backs),
    fun r some_ fits owner full => (kvDo_append configured r).trans (kvAppend_noRoom seq alive some_ fits owner full),
    fun r other some_ fits => ⟨(kvDo_append configured r).trans (kvAppend_notOwner seq alive some_ fits other),
      (kvDo_commit configured r).trans (kvCommit_notOwner seq alive some_ fits other)⟩,
    fun r some_ fits owner beyond => (kvDo_commit configured r).trans (kvCommit_beyond seq alive some_ fits owner beyond),
    fun allowed => (kvDo_setEviction configured).trans (kvSetEviction_sets seq alive allowed),
    fun tab free slots flat count unpinned table pages open_ room unshared =>
      (kvDo_reserve configured).trans (kvReserve_backs seq alive flat count unpinned table pages open_ room unshared),
    fun c t free child differ childDesc dead tray none_ pages => ?fork, fun none_ => ?free⟩
  case fork =>
    have copied := trayCopied_keepsTrays d.tray t d.committed x
    refine ⟨trayCopied d.tray t d.committed x, ?_, copied.trays, copied.backing⟩
    refine ((kvDo_fork configured).trans (kvFork_forks seq child differ alive childDesc dead tray none_ pages)).trans ?_
    rw [trayTaken_eq (putDesc_keepsTrays _ _ _).trays]
  case free =>
    have kept := putDesc_keepsTrays x q { d with live := false, npages := 0, staged := 0, committed := 0, unbacked := 0, res := 0 }
    refine ⟨_, (kvDo_free configured).trans (kvFree_frees seq alive none_), ?_, ?_, released_mem _ _⟩
    · rw [released_trays, kept.trays]
    · rw [released_backing, kept.backing]

end Sys2Proof.Machine
end

section
/-! PROOFS. Data slots, ACK, NAK and CREDIT of a link (O37). -/

namespace Sys2Proof.Machine
open Sys2Proof

/-! ### A link put back in the table of links -/

theorem tput_tput {α : Type} (t : Tbl α) (k : Nat) (v w : α) : tput (tput t k v) k w = tput t k w := by
  induction t with
  | nil => simp [tput]
  | cons e t ih =>
    obtain ⟨a, u⟩ := e
    by_cases same : a = k
    · simp [tput, same]
    · by_cases before : k < a
      · simp [tput, same, before]
      · simp [tput, same, before, ih]

/-- A link that is not as reset leaves it is read back as it was put. -/
theorem link_setLink {x : Stack} {n : Nat} {k : Link} (used : k ≠ Link.reset) : (x.setLink n k).link n = k := tget_tset_listed used

/-- A link put over another one, neither as reset leaves it. -/
theorem setLink_setLink {x : Stack} {n : Nat} {k k' : Link} (used : k ≠ Link.reset) (used' : k' ≠ Link.reset) :
    (x.setLink n k).setLink n k' = x.setLink n k' := by
  unfold Stack.setLink
  simp only [tset, if_neg used, if_neg used', tput_tput]

/-- A link that has received a slot is not as reset leaves it. -/
theorem received_ne_reset {k : Link} {m : Nat} (h : k.rxSlot = m + 1) : k ≠ Link.reset := fun reset => by
  rw [reset] at h
  cases h

/-! ### A data slot (R376-R379, R382) -/

section Slot
variable {now n : Nat} {x : Stack} {w : WireSlot}

theorem slotReceive_idle (h : linkUp x n = false ∨ w.n % 48 = 47) : slotReceive now x n w = x :=
  if_pos (h.imp_left fun down => by simp [down])

theorem slotReceive_outOfOrder (up : linkUp x n = true) (data : w.n % 48 ≠ 47) (other : w.seq.toNat ≠ (x.link n).rxSeq) :
    slotReceive now x n w = (slotBits x n w).2.2.2 :=
  (if_neg (by simp [up, data])).trans (if_pos other)

/-- The awaited slot, with no check injected. -/
theorem slotReceive_awaited (up : linkUp x n = true) (data : w.n % 48 ≠ 47) (awaited : w.seq.toNat = (x.link n).rxSeq)
    (quiet : tget (fun _ => 0) x.inject (checkerKey (haLink n) 0) = 0) :
    slotReceive now x n w =
      let y := (slotBits x n w).2.2.2
      if (slotBits x n w).2.1 = true then acceptSlot y n w.n (slotBits x n w).1 false (slotBits x n w).2.2.1
      else if (x.link n).fails < 3 then
        sendSymbol (y.setLink n { y.link n with fails := (x.link n).fails + 1, rxSlot := w.n + 1 }) n 3 (bv 64 (x.link n).rxSeq)
      else if (x.link n).asm.isNone = true then linkLost now y n
      else acceptSlot (linkFault y n false) n w.n (slotBits x n w).1 true (slotBits x n w).2.2.1 := by
  unfold slotReceive
  dsimp only
  rw [if_neg (by simp [up, data]), if_neg (not_not_intro awaited), takeInject_none quiet]
  simp only [Bool.not_false, Bool.and_true]

theorem slotBits_beat (bridge : 4 ≤ n) (m : Nat) (seq : BitVec 24) (b : BitVec 256) (p : BitVec 4) (q : Bool) :
    slotBits x n ⟨m, seq, .beat b p q⟩ = (b, decide (slotParity b = p), some q, x) := by
  simp [slotBits, bridge]

end Slot

/-! ### What an accepted slot carries (R373, R382) -/

section Accept
variable {x : Stack} {n m : Nat} {b : BitVec 256}

/-- A link whose awaited slot, number `m`, has been taken. -/
def slotTaken (k : Link) (m : Nat) : Link := { k with rxSeq := (k.rxSeq + 1) % 2 ^ 24, rxSlot := m + 1, fails := 0 }

theorem link_slotTaken : (x.setLink n (slotTaken (x.link n) m)).link n = slotTaken (x.link n) m := link_setLink (received_ne_reset (m := m) rfl)

theorem acceptSlot_head {bad : Bool} {signal : Option Bool} (header : (x.link n).asm = none) :
    acceptSlot x n m b bad signal = sendSymbol (headSlot (x.setLink n (slotTaken (x.link n) m)) n b) n 2 (bv 64 (x.link n).rxSeq) := by
  unfold acceptSlot
  dsimp only
  split
  · rfl
  next found => simp [header] at found

theorem acceptSlot_body {a : Assembly} {bad : Bool} {signal : Option Bool} (payload : (x.link n).asm = some a) :
    acceptSlot x n m b bad signal
      = sendSymbol (bodySlot (x.setLink n (slotTaken (x.link n) m)) n a b bad signal) n 2 (bv 64 (x.link n).rxSeq) := by
  unfold acceptSlot
  dsimp only
  split
  next found => simp [payload] at found
  next found => cases payload.symm.trans found; rfl

theorem headSlot_idle {y : Stack} (type0 : fld ((slotWords b).getD 0 0) 59 5 = 0) : headSlot y n b = y := if_pos type0

theorem headSlot_whole {y : Stack} {h : Packet} (header : headerPacket (slotWords b) = some h) (typed : fld ((slotWords b).getD 0 0) 59 5 ≠ 0)
    (noPayload : fld ((slotWords b).getD 0 0) 32 10 = 0) :
    headSlot y n b = y.setLink n { y.link n with inbox := (y.link n).inbox ++ [h] } := by
  refine (if_neg typed).trans ((if_pos noPayload).trans ?_)
  rw [header]
  rfl

/-- The last payload slot of a packet, with no clash between the poison signal and the header. -/
theorem bodySlot_last {y : Stack} {a : Assembly} {h : Packet} {signal : Option Bool} (head : a.head = some h)
    (agrees : signal = none ∨ signal = some (h.poison.getLsbD a.got)) (last : a.left ≤ 32 * (a.got + 1)) :
    bodySlot y n a b false signal = y.setLink n { y.link n with
      asm := none
      inbox := (y.link n).inbox ++ [{ h with poison := h.poison ||| a.marks, data := (a.body ++ natBytes 32 b.toNat).take a.left }] } := by
  have noClash : signal.any (fun q => decide (q ≠ h.poison.getLsbD a.got)) = false := by
    obtain none_ | same := agrees
    · simp [none_]
    · simp [same]
  have unmarked : a.marks ||| 0 = a.marks := BitVec.or_zero
  unfold bodySlot
  simp only [head, Option.map_some, Option.getD_some, noClash, Bool.and_false, Bool.false_eq_true, if_false, Bool.or_self, unmarked,
    Nat.not_lt.mpr last, Option.toList_some]

end Accept

/-! ### Control symbols (R374, R376) -/

section Symbols
variable {now n q : Nat} {x : Stack}

theorem ackReceive_idle (h : linkUp x n = false ∨ (x.link n).retry.any (fun e => decide (e.seq = q)) = false) : ackReceive now x n q = x :=
  if_pos (h.imp (fun down => by simp [down]) fun none_ => by simp [none_])

theorem nakReceive_idle (h : linkUp x n = false ∨ (x.link n).retry.any (fun e => decide (e.seq = q)) = false) : nakReceive now x n q = x :=
  if_pos (h.imp (fun down => by simp [down]) fun none_ => by simp [none_])

theorem creditReceive_idle {c freed : Nat} (down : linkUp x n = false) : creditReceive now x n c freed = x := if_pos (by simp [down])

variable (up : linkUp x n = true) 
include up

theorem creditReceive_gives {c freed : Nat} :
    creditReceive now x n c freed = drainLink now (x.setLink n { x.link n with
      credits := (x.link n).credits.set c ((x.link n).credits.getD c 0 + (freed + 65536 - (x.link n).seen.getD c 0) % 65536)
      seen := (x.link n).seen.set c freed }) n := if_neg (by simp [up])

variable (held : (x.link n).retry.any (fun e => decide (e.seq = q)) = true)
include held

theorem awaits_symbol : ¬ ((!linkUp x n) = true ∨ (!(x.link n).retry.any (fun e => decide (e.seq = q))) = true) := by simp only [up, held]; decide

theorem ackReceive_takes :
    ackReceive now x n q = drainLink now (x.setLink n { x.link n with
      retry := (x.link n).retry.drop ((x.link n).retry.findIdx (fun e => e.seq = q) + 1), lastAck := now }) n := if_neg (awaits_symbol up held)

/-- The slots from the one named on that may be sent once more. -/
def slotsAgain (x : Stack) (n q : Nat) : List RetrySlot :=
  ((x.link n).retry.drop ((x.link n).retry.findIdx (fun e => e.seq = q))).takeWhile (fun e => decide (e.sends < 4))

theorem nakReceive_spent (spent : slotsAgain x n q = []) : nakReceive now x n q = x := (if_neg (awaits_symbol up held)).trans (if_pos spent)

theorem nakReceive_sends (again : slotsAgain x n q ≠ []) :
    nakReceive now x n q =
      let j := (x.link n).retry.findIdx (fun e => e.seq = q)
      let y := (slotsAgain x n q).foldl (fun (s : Stack) e => dataSlot { s with sent := .slot n e.seq e.bits :: s.sent } n e.bits e.parity)
        (x.setLink n { x.link n with
          retry := (x.link n).retry.take j ++ (slotsAgain x n q).map (fun e => { e with at_ := now, sends := e.sends + 1 })
            ++ (x.link n).retry.drop (j + (slotsAgain x n q).length) })
      raise (setReg y (rIvtLink n) (addSat (reg y (rIvtLink n)) 32 32 (slotsAgain x n q).length)) { source := fIvtReplay, addr := haLink n } :=
  (if_neg (awaits_symbol up held)).trans (if_neg again)

end Symbols

theorem exec_dataSlotReceive {s : State} {l : LinkAt} {w : WireSlot} {y : Stack} (h : slotReceive s.now (s.stack l.st) l.l.val w = y) :
    exec (.dataSlotReceive l w) s = .next (onMember s l.st (fun _ => y)) := by
  rw [← h]
  rfl

/-- Settles O37: each symbol and each slot by the lemma of its case. -/
theorem linkSlotsAndSymbols : Obligations.LinkSlotsAndSymbols := by
  intro s l
  refine ⟨fun up => ⟨fun w => ⟨fun control => ?control, fun other data => ?other, fun awaited data good quiet => ?good,
      fun awaited data bad quiet => ⟨fun few => ?refused, fun spent header => ?lost, fun spent payload => ?poisoned⟩⟩,
    fun bridge b p q m seq => slotBits_beat bridge m seq b p q,
    fun m b signal => ⟨fun h header found typed noPayload => ?head, fun header type0 => ?idle, fun a h payload head agrees last => ?body⟩,
    fun q => ⟨fun held => ⟨?ack, fun spent => ?nakSpent, fun again => ?nak⟩, fun none_ => ⟨?ackNone, ?nakNone⟩⟩, fun c freed => ?credit⟩,
    fun down w q c f => ⟨?downSlot, ?downAck, ?downNak, ?downCredit⟩⟩
  case control => exact exec_dataSlotReceive (slotReceive_idle (.inr control))
  case other => exact exec_dataSlotReceive (slotReceive_outOfOrder up data other)
  case good => exact exec_dataSlotReceive ((slotReceive_awaited up data awaited quiet).trans (if_pos good))
  case refused =>
    exact exec_dataSlotReceive ((slotReceive_awaited up data awaited quiet).trans ((if_neg (ne_true_of_eq_false bad)).trans (if_pos few)))
  case lost =>
    exact exec_dataSlotReceive ((slotReceive_awaited up data awaited quiet).trans ((if_neg (ne_true_of_eq_false bad)).trans
      ((if_neg (Nat.not_lt.mpr spent)).trans (if_pos (Option.isNone_iff_eq_none.mpr header)))))
  case poisoned =>
    exact exec_dataSlotReceive ((slotReceive_awaited up data awaited quiet).trans ((if_neg (ne_true_of_eq_false bad)).trans
      ((if_neg (Nat.not_lt.mpr spent)).trans (if_neg (mt Option.isNone_iff_eq_none.mp payload)))))
  case head =>
    rw [acceptSlot_head header, headSlot_whole found typed noPayload, link_slotTaken,
      setLink_setLink (received_ne_reset (m := m) rfl) (received_ne_reset (m := m) rfl)]
    rfl
  case idle => exact (acceptSlot_head header).trans (congrArg (sendSymbol · _ _ _) (headSlot_idle type0))
  case body =>
    rw [acceptSlot_body payload, bodySlot_last head agrees last, link_slotTaken,
      setLink_setLink (received_ne_reset (m := m) rfl) (received_ne_reset (m := m) rfl)]
    rfl
  case ack => exact exec_stackRow rfl (ackReceive_takes up held)
  case nakSpent => exact exec_stackRow_idle rfl (nakReceive_spent up held spent)
  case nak => exact exec_stackRow rfl (nakReceive_sends up held again)
  case ackNone => exact exec_stackRow_idle rfl (ackReceive_idle (.inr none_))
  case nakNone => exact exec_stackRow_idle rfl (nakReceive_idle (.inr none_))
  case credit => exact exec_stackRow rfl (creditReceive_gives up)
  case downSlot => exact exec_dataSlotReceive (slotReceive_idle (.inl down))
  case downAck => exact exec_stackRow_idle rfl (ackReceive_idle (.inl down))
  case downNak => exact exec_stackRow_idle rfl (nakReceive_idle (.inl down))
  case downCredit => exact exec_stackRow_idle rfl (creditReceive_idle down)

end Sys2Proof.Machine
end

section
/-! PROOFS. Requests of other nodes at the router (O35). -/

namespace Sys2Proof.Machine
open Sys2Proof

/-! ### A request at the router (R385, R391-R394, R461, R530) -/

section Requests
variable {now l : Nat} {x : Stack} {k : Packet}

theorem requestArrive_held (holds : routerHolds x = true) :
    requestArrive now x l k = (txPacket now (noteBackoff now x k.src (fld (reg x rIvtCredit) 48 16))
      (errPacket x k stRetryLater (fld (reg x rIvtCredit) 48 16))).2 := if_pos holds

variable (open_ : routerHolds x = false)
include open_

/-- The exit from BANKED begins; what is left of it is the back-off. -/
theorem requestArrive_banked (banked : x.power.idle = 2) : ∃ b, b ≤ 0xFFFF ∧ requestArrive now x l k = retryLater now (wake now x) k b :=
  ⟨_, Nat.min_le_left _ _, (if_neg (ne_true_of_eq_false open_)).trans (if_pos banked)⟩

variable (awake : x.power.idle ≠ 2)
include awake

theorem requestArrive_migrating (migrates : atMigrating (wake now x) k.addr = true) :
    requestArrive now x l k = retryLater now (wake now x) k (fld (reg x rIvtCredit) 48 16) :=
  (if_neg (ne_true_of_eq_false open_)).trans ((if_neg awake).trans (if_pos migrates))

variable (still : atMigrating (wake now x) k.addr = false)
include still

/-- Whether an earlier refusal's back-off still runs for the source of a request. -/
def refusedEarly (now : Nat) (y : Stack) (src : Nat) : Prop := y.router.backoff.any (fun e => decide (e.1 = src ∧ now < e.2)) = true

/-- Whether the window of the source, the total or the table of sources is full. -/
def windowFull (y : Stack) (src : Nat) : Prop :=
  fld (reg y rIvtCredit) 0 15 ≤ rspsFrom y src ∨ maxRsps ≤ (y.router.rsps.filter (fun r => !r.multicast)).length
    ∨ (rspsFrom y src = 0 ∧ maxSources ≤ (sources y).length)

theorem requestArrive_refused (busy : refusedEarly now (wake now x) k.src ∨ windowFull (wake now x) k.src) :
    requestArrive now x l k = retryLater now (wake now x) k (creditBackoff (wake now x)) := by
  refine (if_neg (ne_true_of_eq_false open_)).trans ((if_neg awake).trans ((if_neg (ne_true_of_eq_false still)).trans ?_))
  by_cases early : refusedEarly now (wake now x) k.src
  · exact if_pos early
  · exact (if_neg early).trans (if_pos (busy.resolve_left early))

variable (later : ¬ refusedEarly now (wake now x) k.src) (room : ¬ windowFull (wake now x) k.src)
include later room

theorem requestArrive_bad (bad : requestBad (wake now x) k = true) :
    requestArrive now x l k = (txPacket now (wake now x) (errPacket (wake now x) k stAddrInvalid 0)).2 :=
  (if_neg (ne_true_of_eq_false open_)).trans ((if_neg awake).trans ((if_neg (ne_true_of_eq_false still)).trans
    ((if_neg later).trans ((if_neg room).trans (if_pos bad)))))

theorem requestArrive_accepted (good : requestBad (wake now x) k = false) : requestArrive now x l k = openRsp (wake now x) k l false :=
  (if_neg (ne_true_of_eq_false open_)).trans ((if_neg awake).trans ((if_neg (ne_true_of_eq_false still)).trans
    ((if_neg later).trans ((if_neg room).trans (if_neg (ne_true_of_eq_false good))))))

end Requests

/-! ### The rows -/

section Rows
variable {s : State} {l : LinkAt} {k0 : Packet} {ty : PktType} {i : Instr} (hi : exec i s = onRequest s l k0 ty)
include hi

theorem exec_requestRow_away (away : arrives (s.stack l.st) l.l.val k0 ty = false) : exec i s = .next (settleControl s l.st) := by
  rw [hi, onRequest, onPacket, if_neg (ne_true_of_eq_false away)]

theorem exec_requestRow (comes : arrives (s.stack l.st) l.l.val k0 ty = true) {y : Stack}
    (h : requestArrive s.now (received (s.stack l.st) l.l.val k0).2 l.l.val (received (s.stack l.st) l.l.val k0).1 = y) :
    exec i s = .next (settleControl (s.setStack l.st y) l.st) := by
  rw [hi, onRequest, onPacket, if_pos comes, ← h]
  rfl

end Rows

/-- Settles O35: the four rows are one row of a request, refused, rejected or accepted. -/
theorem requestsOfOtherNodes : Obligations.RequestsOfOtherNodes := by
  intro s l k0 k x request
  have row : ∀ ty i, exec i s = onRequest s l k0 ty → request ty i := fun ty i hi => by
    refine ⟨exec_requestRow_away hi, fun comes => ⟨fun holds => exec_requestRow hi comes (requestArrive_held holds), fun open_ banked => ?banked,
      fun open_ awake => ⟨fun migrates => exec_requestRow hi comes (requestArrive_migrating open_ awake migrates),
        fun still busy => exec_requestRow hi comes (requestArrive_refused open_ awake still busy),
        fun still later room bad => exec_requestRow hi comes (requestArrive_bad open_ awake still later room bad),
        fun still later room good => exec_requestRow hi comes (requestArrive_accepted open_ awake still later room good)⟩⟩⟩
    case banked =>
      obtain ⟨b, small, refused⟩ := requestArrive_banked (now := s.now) (l := l.l.val) (k := k) open_ banked
      exact ⟨b, small, exec_requestRow hi comes refused⟩
  exact ⟨row _ _ rfl, row _ _ rfl, row _ _ rfl, row _ _ rfl⟩

end Sys2Proof.Machine
end

section
/-! PROOFS. Links and nodes lost, and packets for other nodes (O38). -/

namespace Sys2Proof.Machine
open Sys2Proof

/-! ### What sending control slots leaves alone (R375) -/

theorem reg_of_regs {x y : Stack} (same : y.regs = x.regs) (a : Nat) : reg y a = reg x a := by rw [reg, reg, same]

theorem setReg_regs {x y : Stack} (same : y.regs = x.regs) (a : Nat) (v : Word) : (setReg y a v).regs = (setReg x a v).regs := by
  rw [setReg, setReg, same]

/-- Stack `y` has the registers, the tags and what waits on link `n` that stack `x` has, and has sent no less on that link. -/
structure LinkKeeps (n : Nat) (x y : Stack) : Prop where
  regs : y.regs = x.regs
  tags : y.router.tags = x.router.tags
  waiting : (y.link n).waiting = (x.link n).waiting
  branch : (y.link n).branch = (x.link n).branch
  slots : (x.link n).txSlot ≤ (y.link n).txSlot

section Keeps
variable {n : Nat} {x y z : Stack}

theorem LinkKeeps.refl (n : Nat) (x : Stack) : LinkKeeps n x x := ⟨rfl, rfl, rfl, rfl, Nat.le_refl _⟩

theorem LinkKeeps.trans (h : LinkKeeps n x y) (h' : LinkKeeps n y z) : LinkKeeps n x z :=
  ⟨h'.regs.trans h.regs, h'.tags.trans h.tags, h'.waiting.trans h.waiting, h'.branch.trans h.branch, h.slots.trans h'.slots⟩

theorem LinkKeeps.sent (h : LinkKeeps n x y) (v : List Sent) : LinkKeeps n x { y with sent := v } := ⟨h.1, h.2, h.3, h.4, h.5⟩

theorem LinkKeeps.setLink {k : Link} (used : k ≠ Link.reset) (waiting : k.waiting = (x.link n).waiting) (branch : k.branch = (x.link n).branch)
    (slots : (x.link n).txSlot ≤ k.txSlot) : LinkKeeps n x (x.setLink n k) := by
  have back := link_setLink (x := x) (n := n) used
  exact ⟨rfl, rfl, by rw [back, waiting], by rw [back, branch], by rw [back]; exact slots⟩

/-- A link on which a slot has been sent is not as reset leaves it. -/
theorem ne_reset_of_txSlot {k : Link} (h : 1 ≤ k.txSlot) : k ≠ Link.reset := fun reset => by
  rw [reset] at h
  cases h

theorem putSlot_keeps (b : BitVec 256) (p : BitVec 4) : LinkKeeps n x (putSlot x n b p) ∧ 1 ≤ ((putSlot x n b p).link n).txSlot := by
  have put : ∀ fill filled : Nat, LinkKeeps n x (x.setLink n { x.link n with txSlot := (x.link n).txSlot + 1, fill := fill, filled := filled })
      ∧ 1 ≤ ((x.setLink n { x.link n with txSlot := (x.link n).txSlot + 1, fill := fill, filled := filled }).link n).txSlot := fun fill filled => by
    have used : { x.link n with txSlot := (x.link n).txSlot + 1, fill := fill, filled := filled } ≠ Link.reset :=
      ne_reset_of_txSlot (Nat.le_add_left _ _)
    exact ⟨.setLink used rfl rfl (Nat.le_succ _), by rw [link_setLink used]; exact Nat.le_add_left _ _⟩
  unfold putSlot
  dsimp only
  split
  · split
    · exact put _ _
    · exact ⟨(put _ _).1.sent _, (put _ _).2⟩
  · exact put _ _

theorem controlSlot_keeps (later : 1 ≤ (x.link n).txSlot) : LinkKeeps n x (controlSlot x n) := by
  have taken : ∀ symbols : List CtlSymbol, LinkKeeps n x (x.setLink n { x.link n with symbols := symbols }) := fun symbols =>
    LinkKeeps.setLink (ne_reset_of_txSlot later) rfl rfl (Nat.le_refl _)
  exact ((taken _).sent _).trans (putSlot_keeps _ _).1

theorem idleSlot_keeps (now : Nat) : LinkKeeps n x (idleSlot now x n) ∧ 1 ≤ ((idleSlot now x n).link n).txSlot := by
  unfold idleSlot
  dsimp only
  split
  · have used : { x.link n with txSlot := (x.link n).txSlot + 1 } ≠ Link.reset := ne_reset_of_txSlot (Nat.le_add_left _ _)
    exact ⟨.setLink used rfl rfl (Nat.le_succ _), by rw [link_setLink used]; exact Nat.le_add_left _ _⟩
  · have held : ∀ (e : RetrySlot) (q : Nat), LinkKeeps n x (x.setLink n { x.link n with retry := (x.link n).retry ++ [e], txSeq := q }) := fun e q =>
      LinkKeeps.setLink (fun reset => List.append_ne_nil_of_right_ne_nil _ (List.cons_ne_nil e []) (congrArg Link.retry reset)) rfl rfl (Nat.le_refl _)
    exact ⟨(held _ _).trans (putSlot_keeps _ _).1, (putSlot_keeps _ _).2⟩

theorem idleSlots_keeps (now m : Nat) (x : Stack) : LinkKeeps n x (idleSlots now n m x) ∧ (m ≠ 0 → 1 ≤ ((idleSlots now n m x).link n).txSlot) := by
  induction m generalizing x with
  | zero => exact ⟨.refl _ _, fun none_ => absurd rfl none_⟩
  | succ m ih =>
    obtain ⟨keeps, later⟩ := idleSlot_keeps (n := n) (x := x) now
    obtain ⟨rest, _⟩ := ih (idleSlot now x n)
    exact ⟨keeps.trans rest, fun _ => later.trans rest.slots⟩

theorem controlDue_keeps (now : Nat) : LinkKeeps n x (controlDue now x n) := by
  unfold controlDue
  split
  · exact .refl _ _
  · obtain ⟨keeps, later⟩ := idleSlots_keeps (n := n) now (47 - (x.link n).txSlot % 48) x
    refine keeps.trans (controlSlot_keeps ?_)
    by_cases due : 47 - (x.link n).txSlot % 48 = 0
    · exact Nat.le_trans (by omega) keeps.slots
    · exact later due

theorem sendSymbol_keeps (kind : Nat) (content : Word) : LinkKeeps n x (sendSymbol x n kind content) :=
  ((LinkKeeps.refl n x).sent _).trans (.setLink (fun reset => List.append_ne_nil_of_right_ne_nil _ (List.cons_ne_nil _ _) (congrArg Link.symbols reset))
    rfl rfl (Nat.le_refl _))

theorem sendLinkDown_keeps (now : Nat) : LinkKeeps n x (sendLinkDown now x n) :=
  (sendSymbol_keeps _ _).trans ((controlDue_keeps now).trans (controlDue_keeps now))

end Keeps

/-! ### A link lost (R383, R403) -/

section Lost
variable {now n : Nat} {x : Stack}

theorem linkLost_idle (stopped : linkRuns x n = false) : linkLost now x n = x := if_pos (by rw [stopped]; rfl)

theorem failTxns_untagged {y : Stack} (st : Nat) (p : Txn → Bool) (none_ : y.router.tags = []) : failTxns y st p = y := by
  rw [failTxns, none_]
  rfl

/-- A stack that has sent LINK_DOWN on a link, reads it DOWN and has counted and raised its loss. -/
def linkStopped (now n : Nat) (x : Stack) : Stack :=
  let z := sendLinkDown now x n
  let z := setReg z (rIvtLink n) (setFld (reg z (rIvtLink n)) 0 3 3)
  raise (setReg z (rIvtLinkCnt n) (addSat (reg z (rIvtLinkCnt n)) 0 16 1)) { source := fIvtLinkDown, addr := haLink n }

theorem linkLost_bare (runs : linkRuns x n = true) (untagged : x.router.tags = []) (none_ : (x.link n).waiting = []) (noCopies : (x.link n).branch = [])
    (alone : partnerOf ((forgetFrom (linkStopped now n x) n).setLink n Link.reset) n = none) :
    linkLost now x n = (forgetFrom (linkStopped now n x) n).setLink n Link.reset := by
  have keeps := sendLinkDown_keeps (n := n) (x := x) now
  have tags : (linkStopped now n x).router.tags = [] := keeps.tags.trans untagged
  have waiting : ((linkStopped now n x).link n).waiting = [] := keeps.waiting.trans none_
  have branch : ((linkStopped now n x).link n).branch = [] := keeps.branch.trans noCopies
  have start : ¬ (!linkRuns x n) = true := by rw [runs]; decide
  have drops : dropBranch now ((forgetFrom (linkStopped now n x) n).setLink n Link.reset) n true [] = (forgetFrom (linkStopped now n x) n).setLink n Link.reset := rfl
  unfold linkLost
  rw [if_neg start]
  dsimp only [linkStopped] at tags waiting branch drops alone ⊢
  simp only [failTxns_untagged _ _ tags, waiting, branch, List.foldl_nil, drops, alone]

end Lost

/-! ### A packet for another node (R365, R368-R370) -/

section Forward
variable {now n : Nat} {y : Stack} {k : Packet} (numbered : nodeId y ≠ 0xFFFF)
include numbered

theorem forwardPacket_spent (spent : k.hops = 0) : forwardPacket now y n k =
    raise (setReg (freeSlots y n k) rIvtHopsCnt (addSat (reg y rIvtHopsCnt) 0 32 1)) { source := fIvtHops, addr := haRouter } :=
  (if_neg numbered).trans (if_pos spent)

variable (hops : k.hops ≠ 0)
include hops

theorem forwardPacket_link {m : Nat} (egress : egressOf y k.dst = .link m) : forwardPacket now y n k =
    if linkUp y m = true then sendWaiting now y m ⟨{ k with hops := k.hops - 1 }, n, none⟩
    else undeliverable now (freeSlots y n k) n (.link m) { k with hops := k.hops - 1 } := by
  refine (if_neg numbered).trans ((if_neg hops).trans ?_)
  dsimp only
  rw [egress]
  rfl

theorem forwardPacket_unreachable (egress : egressOf y k.dst = .unreachable) : forwardPacket now y n k =
    undeliverable now (freeSlots y n k) n .unreachable { k with hops := k.hops - 1 } := by
  refine (if_neg numbered).trans ((if_neg hops).trans ?_)
  dsimp only
  rw [egress]
  rfl

end Forward

theorem takeReceived_regs (x : Stack) (n : Nat) (k : Packet) : (takeReceived x n k).2.regs = x.regs := by
  unfold takeReceived
  dsimp only
  split
  · rfl
  · rfl

theorem exec_packetForward {s : State} {l : LinkAt} {k : Packet} {y : Stack} (copy : k.ty ≠ .mcWr) (up : linkUp (s.stack l.st) l.l.val = true)
    (other : k.dst ≠ nodeId (s.stack l.st))
    (h : forwardPacket s.now (takeReceived (s.stack l.st) l.l.val k).2 l.l.val (takeReceived (s.stack l.st) l.l.val k).1 = y) :
    exec (.packetForward l k) s = .next (s.setStack l.st y) := by
  rw [← h]
  exact congrArg Host.Outcome.next (if_neg (by simp [copy, up, other]))

/-- A row of a link's member. -/
theorem exec_memberRow {s : State} {st : StackIx} {i : Instr} {f : Stack → Stack} {y : Stack} (hi : exec i s = .next (onMember s st f))
    (h : f (s.stack st) = y) : exec i s = .next (onMember s st (fun _ => y)) := by rw [hi, ← h]; rfl

/-- Settles O38, row by row. -/
theorem linksAndNodesAreLost : Obligations.LinksAndNodesAreLost := by
  intro s l x n
  refine ⟨fun runs => ⟨exec_memberRow rfl rfl, exec_memberRow rfl rfl⟩,
    fun stopped => ⟨exec_memberRow rfl (linkLost_idle stopped), exec_memberRow rfl (linkLost_idle stopped)⟩,
    fun outstanding => exec_memberRow rfl (if_neg outstanding), fun none_ => exec_memberRow rfl (if_pos none_),
    ?lost, fun k0 comes => exec_answerRow rfl comes rfl, fun k0 copy up other numbered => ?forward⟩
  case lost =>
    have same := (sendLinkDown_keeps (n := n) (x := x) s.now).regs
    have stopped : linkStopped s.now n x = raise (setReg (setReg (sendLinkDown s.now x n) (rIvtLink n) (setFld (reg x (rIvtLink n)) 0 3 3)) (rIvtLinkCnt n)
        (addSat (reg (setReg x (rIvtLink n) (setFld (reg x (rIvtLink n)) 0 3 3)) (rIvtLinkCnt n)) 0 16 1)) { source := fIvtLinkDown, addr := haLink n } := by
      simp only [linkStopped, reg_of_regs same, reg_of_regs (setReg_regs same _ _)]
    intro z y w
    have whole : w = (forgetFrom (linkStopped s.now n x) n).setLink n Link.reset := by rw [stopped]
    rw [whole]
    exact linkLost_bare
  case forward =>
    intro k y z k'
    have own : nodeId y ≠ 0xFFFF := by
      rw [nodeId, reg_of_regs (takeReceived_regs x n k0)]
      exact numbered
    exact ⟨fun spent => exec_packetForward copy up other (forwardPacket_spent own spent),
      fun hops m egress => ⟨fun carries => exec_packetForward copy up other ((forwardPacket_link own hops egress).trans (if_pos carries)),
        fun down => exec_packetForward copy up other ((forwardPacket_link own hops egress).trans (if_neg (ne_true_of_eq_false down)))⟩,
      fun hops egress => exec_packetForward copy up other (forwardPacket_unreachable own hops egress)⟩

end Sys2Proof.Machine
end

section
/-! PROOFS. Multicast copies, their answers and the lines of collectives (O39). -/

namespace Sys2Proof.Machine
open Sys2Proof

/-! ### The rows of a packet -/

section Packets
variable {s : State} {l : LinkAt} {k : Packet}

/-- A packet that arrives has its effect on the stack that has received it. -/
theorem onPacket_arrives {ty : PktType} {f : Stack → Packet → Stack} (comes : arrives (s.stack l.st) l.l.val k ty = true) :
    onPacket s l k ty f = s.setStack l.st (f (received (s.stack l.st) l.l.val k).2 (received (s.stack l.st) l.l.val k).1) := if_pos comes

theorem exec_mcWr (copy : k.ty = .mcWr) (up : linkUp (s.stack l.st) l.l.val = true) (numbered : nodeId (s.stack l.st) ≠ 0xFFFF) (group : k.dst < 4096) :
    exec (.mcWr l k) s = .next (
      if groupLocal (s.stack l.st) k.dst = true ∧ maxCopies ≤ ((s.stack l.st).router.rsps.filter (fun r => r.multicast)).length then s
      else s.setStack l.st (mcReplicate s.now (received (s.stack l.st) l.l.val k).2 (received (s.stack l.st) l.l.val k).1 l.l.val)) := by
  have down : ((!linkUp (s.stack l.st) l.l.val) = true) = False := by rw [up]; decide
  change execMcWr l k s = _
  simp only [execMcWr, copy, ne_eq, not_true_eq_false, down, numbered, Nat.not_le.mpr group, false_or]
  rfl

theorem exec_mcTimeout_none (none_ : ((s.stack l.st).link l.l.val).branch = []) : exec (.mcTimeout l) s = .next s := by
  refine exec_stackRow_idle rfl ?_
  unfold mcTimeout
  dsimp only
  rw [none_]

theorem exec_collective (held : columnsHeld (s.stack l.st) = true) : exec (.collUp l k) s = .next s ∧ exec (.collDown l k) s = .next s :=
  ⟨congrArg Host.Outcome.next (if_pos held), congrArg Host.Outcome.next (if_pos held)⟩

theorem exec_collUp (free : columnsHeld (s.stack l.st) = false) (comes : arrives (s.stack l.st) l.l.val k .collUp = true) :
    exec (.collUp l k) s = .next (s.setStack l.st
      (collUpArrive s.now (received (s.stack l.st) l.l.val k).2 (received (s.stack l.st) l.l.val k).1)) :=
  congrArg Host.Outcome.next ((if_neg (ne_true_of_eq_false free)).trans (onPacket_arrives comes))

theorem exec_collDown (free : columnsHeld (s.stack l.st) = false) (comes : arrives (s.stack l.st) l.l.val k .collDown = true) :
    exec (.collDown l k) s = .next (s.setStack l.st
      (collDownArrive s.now (received (s.stack l.st) l.l.val k).2 (received (s.stack l.st) l.l.val k).1)) :=
  congrArg Host.Outcome.next ((if_neg (ne_true_of_eq_false free)).trans (onPacket_arrives comes))

end Packets

/-- The oldest copy of a branch that is held too long is dropped with the range of the branch. -/
theorem mcTimeout_drops {now n t : Nat} {x : Stack} {c : Packet} {rest : List (Packet × Nat)} {e : Nat × Nat × Nat}
    (oldest : (x.link n).branch = (c, t) :: rest) (range : (groupEgress x c.dst).find? (fun e => e.1 = n) = some e) :
    mcTimeout now x n = mcDropTo now (x.setLink n { x.link n with branch := rest }) c e.2.1 e.2.2 := by
  have same : groupEgress (x.setLink n { x.link n with branch := rest }) c.dst = groupEgress x c.dst := rfl
  unfold mcTimeout
  dsimp only
  split
  next none_ => cases none_.symm.trans oldest
  next c' t' rest' found =>
    cases found.symm.trans oldest
    rw [same, range]

/-! ### A child's partial (R400, R402) -/

section Partial
variable {now c : Nat} {y : Stack} {k : Packet} (joined : y.tick.joined = true) (domain : k.domain = domainId y) (running : y.tick.phase ≠ .idle)
  (child : (treeKids y).find? (fun c => decide (memberNode y c = k.src)) = some c)
include joined domain running child

theorem collUpArrive_unlisted (none_ : y.tick.entries[k.entry]? = none) :
    collUpArrive now y k = raise y { source := fCollMismatch, addr := haCollective } := by
  unfold collUpArrive
  simp only [joined, domain, running, child, none_, ne_eq, not_true_eq_false, not_false_eq_true, decide_true, decide_false, Bool.not_true, Bool.true_or,
    Bool.or_self, Bool.false_eq_true, if_false]

/-- The first line of a run opens it. -/
theorem collUpArrive_opens {e : List Word} {t : Nat} (listed : y.tick.entries[k.entry]? = some e) (tick : t = fullTick y k.tick)
    (fresh : findRun y k.entry t = none) (inside : k.addr < collN e) :
    collUpArrive now y k = collAdvance now (putRun y { newRun k.entry t with got := [(c, k.addr, packetLine k)] }) e k.entry t := by
  subst tick
  unfold collUpArrive
  simp only [joined, domain, running, child, listed, fresh, Nat.not_le.mpr inside, ne_eq, not_true_eq_false, not_false_eq_true, decide_true, decide_false,
    Bool.not_true, Bool.true_or, Bool.or_self, Bool.false_eq_true, if_false, Option.getD_none]
  rfl

end Partial

/-- Settles O39, row by row. -/
theorem multicastsAndCollectives : Obligations.MulticastsAndCollectives := by
  intro s l k0 x n k y
  refine ⟨fun copy up numbered group => ⟨fun room => ?room, fun member full => ?full⟩,
    fun comes => exec_answerRow rfl comes rfl, fun comes => exec_answerRow rfl comes rfl, exec_mcTimeout_none,
    fun c t rest e oldest range => exec_stackRow rfl (mcTimeout_drops oldest range), exec_collective, exec_collUp, exec_collDown,
    fun e c t joined domain running child listed tick fresh inside => collUpArrive_opens joined domain running child listed tick fresh inside,
    fun c joined domain running child none_ => collUpArrive_unlisted joined domain running child none_⟩
  case room =>
    refine (exec_mcWr copy up numbered group).trans (congrArg Host.Outcome.next (if_neg fun ⟨member, full⟩ => ?_))
    exact room.elim (ne_true_of_eq_false · member) (Nat.not_lt.mpr full)
  case full => exact (exec_mcWr copy up numbered group).trans (congrArg Host.Outcome.next (if_pos ⟨member, full⟩))

end Sys2Proof.Machine
end

section
/-! PROOFS. Commands at the port of a stack: arrival, assembly and start (O41). -/

namespace Sys2Proof.Machine
open Sys2Proof

/-! ### The status of a command on arrival (R428) -/

section Arrival
variable {checks : Nat → Nat → Bool} {x : Stack} {parts : List Nat} {c : Cmd} {w2 w3 : Word} {rest reset : Bool}

theorem arrivalStatus_busy (h : maxHeld ≤ (heldCmds x).length ∨ reset = true ∨ busyFor x c.op = true) :
    arrivalStatus checks x parts c w2 w3 rest reset = some stBusy :=
  if_pos (by
    obtain full | held | busy := h
    · simp [full]
    · simp [held]
    · simp [busy])

theorem not_busyFor (enabled : x.pstate ≠ .disabling) (flows : x.power.coolantHold = false) (op : Nat) : busyFor x op = false := by
  simp [busyFor, enabled, flows]

theorem arrivalStatus_outstanding (room : (heldCmds x).length < maxHeld) (free : reset = false) (ready : busyFor x c.op = false)
    (outstanding : (heldCmds x).any (fun h => decide (h.ref = c.ref)) = true) :
    arrivalStatus checks x parts c w2 w3 rest reset = some stInvalidParam := by
  unfold arrivalStatus
  simp only [Nat.not_le.mpr room, free, ready, outstanding, decide_false, Bool.or_self, Bool.or_true, Bool.false_eq_true, if_false, if_true]

theorem arrivalStatus_unknown (unknown : opInfo c.op = none) : arrivalStatus checks x parts c w2 w3 rest reset ≠ none := fun accepted => by
  simp only [arrivalStatus, unknown] at accepted
  split_ifs at accepted

/-- What holds of a command that is accepted. -/
theorem of_arrivalStatus_none (accepted : arrivalStatus checks x parts c w2 w3 rest reset = none) :
    (heldCmds x).length < maxHeld ∧ reset = false ∧ (∀ h ∈ heldCmds x, h.ref ≠ c.ref) ∧ (opInfo c.op).isSome = true := by
  have ready : ¬ (maxHeld ≤ (heldCmds x).length ∨ reset = true ∨ busyFor x c.op = true) := fun busy => by
    rw [arrivalStatus_busy busy] at accepted
    cases accepted
  simp only [not_or, Nat.not_le, Bool.not_eq_true] at ready
  obtain ⟨room, free, idle⟩ := ready
  refine ⟨room, free, fun h held same => ?_, Option.isSome_iff_ne_none.mpr fun unknown => arrivalStatus_unknown unknown accepted⟩
  rw [arrivalStatus_outstanding room free idle (List.any_eq_true.mpr ⟨h, held, decide_eq_true same⟩)] at accepted
  cases accepted

end Arrival

/-! ### A segment at the port (R388, R426) -/

section Segment
variable {checks : Nat → Nat → Bool} {now n : Nat} {x : Stack} {parts : Tbl Word} {reset : Bool} {k : Packet}

/-- Whether further segments of a command are to come after its first one. -/
def moreComes (k : Packet) (reset : Bool) : Prop :=
  k.data.length < cmdLength k.data ∧ k.data.length < 65665 ∧ fld (word64At k.data 8) 32 32 ≤ 65536 ∧ reset = false

theorem wholeSegment_iff : (k.data.length ≥ min (128 + 65537) (cmdLength k.data) ∨ 65536 < fld (word64At k.data 8) 32 32 ∨ reset = true) ↔ ¬ moreComes k reset := by
  unfold moreComes
  generalize cmdLength k.data = m
  cases reset with
  | true => simp
  | false =>
    simp only [Bool.false_eq_true, or_false, and_true]
    omega

theorem portSegment_whole (first : k.addr = 0) (whole : ¬ moreComes k reset) :
    portSegment checks now x parts reset n k = arriveCmd checks now x parts reset (cmdOfBytes k.src n k.tag now k.data) k.data :=
  (if_pos first).trans (if_pos (wholeSegment_iff.mpr whole))

theorem portSegment_more (first : k.addr = 0) (more : moreComes k reset) :
    portSegment checks now x parts reset n k =
      if maxAsm ≤ x.port.asm.length then
        let c := cmdOfBytes k.src n k.tag now k.data
        sendReply now x c (replyBytes now (arrivalTick x parts c) c stBusy [] [] false)
      else { x with port := { x.port with asm := x.port.asm ++ [⟨k.src, k.tag, now, n, [(0, k.data)]⟩] } } :=
  (if_pos first).trans (if_neg (mt wholeSegment_iff.mp (not_not_intro more)))

/-- The status on arrival of a whole command, from its bytes. -/
def bytesStatus (checks : Nat → Nat → Bool) (x : Stack) (parts : Tbl Word) (reset : Bool) (c : Cmd) (bs : List Byte) : Option Nat :=
  arrivalStatus checks x (parts.map (fun e => e.1)) c (word64At bs 16) (word64At bs 24)
    ((List.range 4).any (fun i => decide (word64At bs (8 * (4 + i)) ≠ 0))) reset

theorem arriveCmd_refused {c : Cmd} {bs : List Byte} {e : Nat} (refused : bytesStatus checks x parts reset c bs = some e) :
    arriveCmd checks now x parts reset c bs = sendReply now x c (replyBytes now (arrivalTick x parts c) c e [] [] false) := by
  change bytesStatus .. = _ at refused
  unfold bytesStatus at refused
  simp only [arriveCmd, Nat.reduceMul, refused]

theorem arriveCmd_accepted {c : Cmd} {bs : List Byte} (accepted : bytesStatus checks x parts reset c bs = none) :
    arriveCmd checks now x parts reset c bs = wake now { x with port := { x.port with held := x.port.held ++ [c] } } := by
  unfold bytesStatus at accepted
  simp only [arriveCmd, Nat.reduceMul, accepted]

end Segment

theorem exec_cmd {s : State} {l : LinkAt} {k : Packet} {y : Stack} (cmd : k.ty = .cmd) (up : linkUp (s.stack l.st) l.l.val = true)
    (own : k.dst = nodeId (s.stack l.st)) (noProbe : isProbe k = false) (noFetch : isFetch k = false)
    (h : portSegment hasChecker s.now (received (s.stack l.st) l.l.val k).2 (usedParts s) (columnsHeld (s.stack l.st)) l.l.val
      (received (s.stack l.st) l.l.val k).1 = y) : exec (.cmd l k) s = .next (s.setStack l.st y) := by
  have takes : ¬ (k.ty ≠ .cmd ∨ (!linkUp (s.stack l.st) l.l.val) = true ∨ (k.dst ≠ nodeId (s.stack l.st) ∧ (!isFetch k) = true) ∨ isProbe k = true) := by
    simp [cmd, up, own, noProbe]
  rw [← h]
  refine congrArg Host.Outcome.next ((if_neg takes).trans ?_)
  simp only [State.onStack, noFetch, Bool.false_eq_true, if_false]

/-! ### An assembly that times out (R426) -/

theorem asmTimeout_none {now src : Nat} {x : Stack} {parts : Tbl Word} {tag : BitVec 32}
    (none_ : x.port.asm.find? (fun a => decide (a.src = src) && decide ((word64At (asmBytes a) 0 >>> 32).setWidth 32 = tag)) = none) :
    asmTimeout now x parts src tag = x := by
  unfold asmTimeout
  rw [none_]

theorem asmTimeout_answers {now src : Nat} {x : Stack} {parts : Tbl Word} {tag : BitVec 32} {a : Asm}
    (found : x.port.asm.find? (fun a => decide (a.src = src) && decide ((word64At (asmBytes a) 0 >>> 32).setWidth 32 = tag)) = some a) :
    asmTimeout now x parts src tag =
      let c := cmdOfBytes a.src a.link a.ptag a.at_ ((asmBytes a).take 128)
      let y := { x with port := { x.port with asm := x.port.asm.filter (fun z => decide (z ≠ a)) } }
      sendReply now y c (replyBytes now (arrivalTick y parts c) c stTimeout [] [] false) := by
  unfold asmTimeout
  rw [found]

/-! ### The command that starts (R429, R461, R529) -/

section Start
variable {x : Stack} {r : CmdRef} {c : Cmd} {rest : List Cmd} (front : x.port.held = c :: rest)

theorem startCmd_empty (none_ : x.port.held = []) : startCmd x r = x := by
  unfold startCmd
  rw [none_]

/-- Whether the first command held by a stack may start as `r`. -/
def mayStartNow (x : Stack) (r : CmdRef) (c : Cmd) : Prop :=
  c.ref = r ∧ x.power.idle = 0 ∧ x.mend.since.any (fun t => decide (t ≤ c.at_)) = false ∧ x.port.started.any (fun b => !letsBeside b c) = false
    ∧ x.port.started.any (fun b => mustWait b c) = false ∧ (isB c = true → (x.port.started.filter isB).length < maxB)

include front

theorem startCmd_starts (may : mayStartNow x r c) :
    startCmd x r = { x with port := { x.port with held := rest, started := x.port.started ++ [c] } } := by
  obtain ⟨named, active, unmended, beside, apart, few⟩ := may
  have room : (isB c && decide (maxB ≤ (x.port.started.filter isB).length)) = false := by
    cases blocking : isB c with
    | false => rfl
    | true => simpa using few blocking
  unfold startCmd
  simp only [front, named, active, unmended, beside, apart, room, ne_eq, not_true_eq_false, Bool.false_eq_true, or_self, if_false]

theorem startCmd_waits (may : ¬ mayStartNow x r c) : startCmd x r = x := by
  unfold startCmd
  rw [front]
  dsimp only
  split
  · rfl
  next clear =>
    split
    · rfl
    next room =>
      simp only [not_or, ne_eq, not_not, Bool.not_eq_true] at clear
      obtain ⟨named, active, unmended, beside, apart⟩ := clear
      refine absurd ⟨named, active, unmended, beside, apart, fun blocking => ?_⟩ may
      simpa [blocking] using room

end Start

/-- Settles O41: arrival, assembly, timeout and start by the lemmas of each. -/
theorem commandsArriveAndStart : Obligations.CommandsArriveAndStart := by
  intro s
  refine ⟨fun l k0 cmd up own noProbe noFetch => ?arrives, fun st src tag a => ?timeout, fun st r c rest front => ?starts, fun st r none_ => ?empty⟩
  case arrives =>
    have comes := fun {y : Stack} => exec_cmd (y := y) cmd up own noProbe noFetch
    exact ⟨fun first whole => ⟨fun e refused => comes ((portSegment_whole first whole).trans (arriveCmd_refused refused)),
        fun accepted => comes ((portSegment_whole first whole).trans (arriveCmd_accepted accepted))⟩,
      fun h => arrivalStatus_busy (h.imp_right .inl), fun room free enabled flows outstanding => arrivalStatus_outstanding room free (not_busyFor enabled flows _) outstanding,
      of_arrivalStatus_none, fun first more => ⟨fun full => comes ((portSegment_more first more).trans (if_pos full)),
        fun room => comes ((portSegment_more first more).trans (if_neg (Nat.not_le.mpr room)))⟩⟩
  case timeout => exact ⟨fun found => exec_stackRow rfl (asmTimeout_answers found), fun none_ => exec_stackRow_idle rfl (asmTimeout_none none_)⟩
  case starts => exact ⟨fun may => exec_stackRow rfl (startCmd_starts front may), fun may => exec_stackRow_idle rfl (startCmd_waits front may)⟩
  case empty => exact exec_stackRow_idle rfl (startCmd_empty none_)

end Sys2Proof.Machine
end

section
/-! PROOFS. A raise that reaches the collector of its stack (O45). -/

namespace Sys2Proof.Machine
open Sys2Proof

/-! ### The record that a raise opens (R521) -/

section Opened
variable {now on prog : Nat} {x : Stack} {r : Raise} {latest : Option Record}

theorem newRecord_programmed (plain : latest = none ∨ prog < sevJob) :
    (newRecord now on x r prog latest).sev = prog ∧ (newRecord now on x r prog latest).escalated = false := by
  obtain none_ | low := plain
  · subst none_
    exact ⟨rfl, rfl⟩
  · cases latest with
    | none => exact ⟨rfl, rfl⟩
    | some z => simp [newRecord, Nat.not_le.mpr low]

theorem newRecord_escalates {z : Record} (high : sevJob ≤ prog) :
    (newRecord now on x r prog (some z)).sev = min sevModule (max prog (z.sev + 1)) ∧ (newRecord now on x r prog (some z)).escalated = true := by
  simp [newRecord, high]

end Opened

/-! ### The collector with its records (R522) -/

section Hold
variable {c : Collector} {x : Record}

theorem holdRecord_room (room : c.records.length < maxRecords) : holdRecord c x = (true, { c with records := c.records ++ [x], next := c.next + 1 }) := if_pos room

variable (full : maxRecords ≤ c.records.length)
include full

theorem holdRecord_dropped (low : x.sev < sevJob) : holdRecord c x = (false, { c with dropped := min 0xFFFF (c.dropped + 1) }) :=
  (if_neg (Nat.not_lt.mpr full)).trans (if_pos low)

theorem holdRecord_replaces {y : Record} (high : sevJob ≤ x.sev) (weaker : c.records.find? (fun w => decide (w.sev < sevJob)) = some y) :
    holdRecord c x = (true, { c with records := c.records.filter (fun w => decide (w.seq ≠ y.seq)) ++ [x], next := c.next + 1 }) := by
  refine (if_neg (Nat.not_lt.mpr full)).trans ((if_neg (Nat.not_lt.mpr high)).trans ?_)
  rw [weaker]

theorem holdRecord_overflows (high : sevJob ≤ x.sev) (none_ : c.records.find? (fun w => decide (w.sev < sevJob)) = none) :
    holdRecord c x = (false, { c with high := some (max x.sev (c.high.getD 0)) }) := by
  refine (if_neg (Nat.not_lt.mpr full)).trans ((if_neg (Nat.not_lt.mpr high)).trans ?_)
  rw [none_]

end Hold

/-! ### A raise that arrives (R518-R522) -/

section Arrive
variable {s : State} {i : StackIx} {r : Raise}

/-- The module in which the collector of stack `i` is `c` and the pair of a raise is tied to record `seq`. -/
def collected (s : State) (i : StackIx) (r : Raise) (c : Collector) (seq : Nat) : State :=
  s.setStack i (tieWire { s.stack i with faults := c } r seq)

theorem arrive_coalesces {z : Record} (latest : latestOf (s.stack i) r.source r.addr = some z) (same : coalesces s.now r z = true) :
    arrive s i r =
      let y := { z with count := min (2 ^ 64 - 1) (z.count + 1), injected := z.injected || r.injected }
      countCopy (collected s i r { (s.stack i).faults with records := (s.stack i).faults.records.map (fun w => if w.seq = z.seq then y else w) } z.seq) i y := by
  unfold arrive
  simp only [latest, Option.filter, same, if_true]
  rfl

/-- The record that a raise opens at stack `i`. -/
def opened (s : State) (i : StackIx) (r : Raise) : Record :=
  newRecord s.now s.mc.onAt (s.stack i) r (programmedSev (s.stack i) r) (latestOf (s.stack i) r.source r.addr)

variable (fresh : ∀ z, latestOf (s.stack i) r.source r.addr = some z → coalesces s.now r z = false)
include fresh

/-- A record that is held is copied and acts. -/
theorem arrive_held {c : Collector} (held : holdRecord (s.stack i).faults (opened s i r) = (true, c)) :
    arrive s i r = updateFaultL (actSeverity (keepCopy (collected s i r c (opened s i r).seq) i (opened s i r)) i r (opened s i r)) := by
  have none_ : (latestOf (s.stack i) r.source r.addr).filter (coalesces s.now r) = none := Option.filter_eq_none_iff.mpr fun z found => by
    simp [fresh z found]
  unfold opened at held
  unfold arrive
  simp only [none_, held, if_true]
  rfl

/-- A record that is not held acts without a copy. -/
theorem arrive_lost {c : Collector} (lost : holdRecord (s.stack i).faults (opened s i r) = (false, c)) :
    arrive s i r = updateFaultL (actSeverity (collected s i r c 0) i r (opened s i r)) := by
  have none_ : (latestOf (s.stack i) r.source r.addr).filter (coalesces s.now r) = none := Option.filter_eq_none_iff.mpr fun z found => by
    simp [fresh z found]
  unfold opened at lost
  unfold arrive
  simp only [none_, lost, Bool.false_eq_true, if_false]
  rfl

end Arrive

theorem actSeverity_low {s : State} {i : StackIx} {r : Raise} {x : Record} (low : x.sev < sevJob) : actSeverity s i r x = s := if_pos low

theorem exec_faultRecordArrive {s t : State} {st : StackIx} {r : Raise} {rest : List Raise} (oldest : (s.stack st).bus = r :: rest)
    (h : arrive (s.setStack st { s.stack st with bus := rest }) st r = t) :
    exec (.faultRecordArrive st) s = .next (if r.source = fSiteFailed then t.onStack st (mendIdle s.now) else t) := by
  have now_ : t.now = s.now := h ▸ (arrive_kept _ st r).now
  change Host.Outcome.next (faultArrive s st) = _
  unfold faultArrive
  dsimp only
  rw [oldest]
  dsimp only
  rw [h, now_]

/-- Settles O45: the oldest raise coalesces, or what it opens is held or lost as the collector has room. -/
theorem faultRecordsAreKept : Obligations.FaultRecordsAreKept := by
  intro s st
  refine ⟨fun none_ => ?idle, fun r rest oldest => ?arrives⟩
  case idle =>
    change Host.Outcome.next (faultArrive s st) = _
    unfold faultArrive
    dsimp only
    rw [none_]
  case arrives =>
    intro x c prog latest here done
    let s' := s.setStack st x
    have back : s'.stack st = x := State.stack_setStack_same _ _ _
    have put : ∀ f seq, collected s' st r f seq = here f seq := fun f seq => by
      simp only [collected, back]
      exact State.setStack_setStack _ _ _ _
    have goes : ∀ {t}, arrive s' st r = t → done t := fun h => exec_faultRecordArrive oldest h
    have known : latestOf (s'.stack st) r.source r.addr = latest := by rw [back]
    refine ⟨fun z found same => goes ?hit, fun fresh => ?opens⟩
    case hit =>
      refine (arrive_coalesces (known.trans found) same).trans ?_
      dsimp only
      rw [put, back]
    case opens =>
      have fresh' : ∀ z, latestOf (s'.stack st) r.source r.addr = some z → coalesces s'.now r z = false := by rwa [known]
      have rec_ : opened s' st r = newRecord s.now s.mc.onAt x r prog latest := by rw [opened, back]; rfl
      have faults : (s'.stack st).faults = c := by rw [back]
      refine ⟨newRecord s.now s.mc.onAt x r prog latest, rfl, rfl, rfl, rfl, rfl, rfl, rfl, rfl, rfl, rfl, newRecord_programmed, ?_, ?_, ?_, ?_, ?_⟩
      · intro z found high
        rw [found]
        exact newRecord_escalates high
      all_goals rw [← rec_]
      · intro room
        rw [← put]
        refine goes (arrive_held fresh' ?_)
        rw [faults]
        exact holdRecord_room room
      · intro full low
        rw [← put]
        refine goes ((arrive_lost fresh' ?_).trans (congrArg updateFaultL (actSeverity_low low)))
        rw [faults]
        exact holdRecord_dropped full low
      · intro y full high weaker
        rw [← put]
        refine goes (arrive_held fresh' ?_)
        rw [faults]
        exact holdRecord_replaces full high weaker
      · intro full high none_
        rw [← put]
        refine goes (arrive_lost fresh' ?_)
        rw [faults]
        exact holdRecord_overflows full high none_

end Sys2Proof.Machine
end

section
/-! PROOFS. Commands to the fault collector, pairs that read equal, migration and coil tests (O46). -/

namespace Sys2Proof.Machine
open Sys2Proof

/-! ### A pair that reads equal (R517, R526) -/

section Wire
variable {x : Stack} {u : BitVec 16} {n : Fin 5}

theorem errorWire_idle (known : x.faults.wires.any (fun e => decide (e.key = u.toNat ∧ e.pair = n.val)) = true ∨ unitCheckers u.toNat = none) :
    errorWire x ⟨.unit u, n⟩ = x :=
  if_pos (Bool.or_eq_true_iff.mpr (known.symm.imp_left fun none_ => by simp [senderExists, none_]))

/-- A pair that is not remembered, with no check of it injected. -/
theorem errorWire_raises (fresh : ¬ x.faults.wires.any (fun e => decide (e.key = u.toNat ∧ e.pair = n.val)) = true)
    (exists_ : (unitCheckers u.toNat).isSome = true) (quiet : tget (fun _ => 0) x.inject (checkerKey u.toNat (8 + n.val)) = 0) :
    errorWire x ⟨.unit u, n⟩ = raise { x with faults := { x.faults with wires := x.faults.wires ++ [⟨u.toNat, n.val, none, false⟩] } }
      { source := fErrorWire, addr := u.toNat, wire := some (u.toNat, n.val) } := by
  have acts : (!senderExists (.unit u) || x.faults.wires.any (fun e => decide (e.key = u.toNat ∧ e.pair = n.val))) = false :=
    Bool.or_eq_false_iff.mpr ⟨by simp [senderExists, exists_], Bool.eq_false_iff.mpr fresh⟩
  have own : u.toNat < 0x10000 := u.isLt
  unfold errorWire
  simp only [wireKey, own, if_true, takeInject_none quiet]
  exact if_neg (ne_true_of_eq_false acts)

end Wire

/-! ### Migration (R530, R531) -/

section Migration
variable {now c p : Nat} {x : Stack} {rest : List (Nat × Nat)}

theorem migrationComplete_away (other : x.mend.moves.head?.map (fun e => e.1) ≠ some c) : migrationComplete now x c = x := by
  cases moves : x.mend.moves with
  | nil => exact migrationComplete_idle moves
  | cons e rest => exact migrationComplete_other moves fun same => other (by rw [moves, ← same]; rfl)

/-- Whether the core that migrates need not wait for a request in progress. -/
def unhindered (x : Stack) (c : Nat) : Prop := x.mend.line ≠ 0 ∨ requestAt x c = false

theorem not_hindered (clear : unhindered x c) : ¬ (c ≠ c ∨ (x.mend.line = 0 ∧ requestAt x c = true)) := by
  obtain later | free := clear
  · simp [later]
  · simp [free]

variable (moves : x.mend.moves = (c, p) :: rest)
include moves

theorem migrationComplete_held (first : x.mend.line = 0) (busy : requestAt x c = true) : migrationComplete now x c = x := by
  unfold migrationComplete
  rw [moves]
  exact if_pos (.inr ⟨first, busy⟩)

variable (clear : unhindered x c)
include clear

theorem migrationComplete_waits (row : migrateStep now x c p = none) :
    migrationComplete now x c = { x with mend := { x.mend with lineAt := some (x.mend.lineAt.getD (now - 2)) } } := by
  unfold migrationComplete
  rw [moves]
  refine (if_neg (not_hindered clear)).trans ?_
  rw [row]

theorem migrationComplete_moves {y : Stack} (row : migrateStep now x c p = some y) (more : y.mend.line + 1 < 2 * migrateLines c) :
    migrationComplete now x c = { y with mend := { y.mend with line := y.mend.line + 1, lineAt := some now } } := by
  unfold migrationComplete
  rw [moves]
  refine (if_neg (not_hindered clear)).trans ?_
  rw [row]
  exact if_pos more

theorem migrationComplete_switches {y : Stack} (row : migrateStep now x c p = some y) (last : 2 * migrateLines c ≤ y.mend.line + 1) :
    migrationComplete now x c = migrateSwitch now y c p rest := by
  unfold migrationComplete
  rw [moves]
  refine (if_neg (not_hindered clear)).trans ?_
  rw [row]
  exact if_neg (Nat.not_lt.mpr last)

end Migration

theorem exec_migrationComplete {s : State} {st : StackIx} {c : CoreIx} {y : Stack} (h : migrationComplete s.now (s.stack st) c.val = y) :
    exec (.migrationComplete ⟨st, c⟩) s = .next (reportGeometry s (s.setStack st y)) := by
  rw [← h]
  rfl

theorem exec_migrationComplete_idle {s : State} {st : StackIx} {c : CoreIx} (h : migrationComplete s.now (s.stack st) c.val = s.stack st) :
    exec (.migrationComplete ⟨st, c⟩) s = .next (reportGeometry s s) := by
  rw [exec_migrationComplete h, State.setStack_self]

/-! ### Coil tests (R533, R534) -/

section Coils
variable {now : Nat} {x : Stack} {p : Nat} {t : CoilTest}

/-- Whether the coil test of site `p` is due now and no reset holds the columns. -/
def testMay (x : Stack) (p : Nat) : Prop := (x.vault p).testDue = true ∧ atBoundary x = true ∧ columnsHeld x = false

theorem resetting_any_base (x : Stack) : x.resetting.any (fun r => decide (r.domain = 2)) = columnsHeld x := by
  unfold columnsHeld
  cases x.resetting with
  | none => rfl
  | some r => rfl

theorem testMay_iff : testMay x p ↔ ¬ ((!testing x p || x.resetting.any (fun r => decide (r.domain = 2))) = true) := by
  rw [resetting_any_base]
  simp [testMay, testing, and_assoc]

theorem coilTest_idle (waits : ¬ testMay x p) : coilTest now x p t = x := if_pos (not_not.mp (mt testMay_iff.mpr waits))

theorem coilTest_tests (may : testMay x p) : coilTest now x p t =
    endTest now (t.failing.foldl (coilFails p) (x.setVault p { x.vault p with testDue := false, replays := [] })) := if_neg (testMay_iff.mp may)

theorem endTest_eq (y : Stack) : endTest now y =
    if y.tick.testHold = true ∧ testsDue y = false then endHold now { y with tick := { y.tick with testHold := false } } else y := by
  simp only [endTest, Bool.not_eq_true']

end Coils

theorem exec_coilTest {s : State} {st : StackIx} {p : SiteIx} {t : CoilTest} {y : Stack} (h : coilTest s.now (s.stack st) p.val t = y) :
    exec (.coilTest ⟨st, p⟩ t) s = .next (writeTrainings st ((y.vault p.val).coilSpares.length - ((s.stack st).vault p.val).coilSpares.length) (s.setStack st y)) := by
  have goes : s.onStack st (fun y => coilTest s.now y p.val t) = s.setStack st y := by rw [← h]; rfl
  change execCoilTest ⟨st, p⟩ t s = _
  simp only [execCoilTest, goes, State.stack_setStack_same]

/-- Settles O46, row by row. -/
theorem faultCommandsAndRepairs : Obligations.FaultCommandsAndRepairs := by
  intro s st x
  refine ⟨fun r k started => ?read, fun r k started => ?ack, fun r k started => exec_cmdRow rfl started rfl,
    fun u n => ⟨fun known => ?wireIdle, fun fresh exists_ quiet => ?wire⟩, fun c => ⟨fun other => exec_migrationComplete_idle (migrationComplete_away other), ?moves⟩,
    fun p t => ⟨fun waits => ?untested, fun may => ?tests⟩⟩
  case read =>
    intro rs n
    refine exec_cmdRow rfl started ?_
    have taken : (rs.take n).length = min n rs.length := List.length_take
    have left : rs.length - min n rs.length = rs.length - n := by omega
    change reply s.now x k stOk [bv 64 (rs.take n).length, bv 64 (rs.length - (rs.take n).length)] ((rs.take n).flatMap recordBytes) = _
    rw [taken, left]
  case ack =>
    intro all p
    have refused : (all = false ∧ x.faults.records.filter p = []) ↔ ((!all) = true ∧ (x.faults.records.filter p).length = 0) := by
      rw [Bool.not_eq_true', List.length_eq_zero_iff]
    have row := onCmdAll_started (fun k s =>
      let all := decide (k.arg 0 = BitVec.allOnes 64)
      let p := fun (r : Record) => all || decide (r.seq = (k.arg 0).toNat)
      let n := ((s.stack st).faults.records.filter p).length
      if !all ∧ n = 0 then replyAll s st k stInvalidParam [] []
      else replyAll (clearRecords s st all p) st k stOk [bv 64 n] []) started
    exact ⟨fun one none_ => row.trans (congrArg Host.Outcome.next (if_pos (refused.mp ⟨one, none_⟩))),
      fun some_ => row.trans (congrArg Host.Outcome.next (if_neg (mt refused.mpr fun ⟨one, none_⟩ =>
        some_.elim (fun whole => ne_true_of_eq_false one whole) (absurd none_))))⟩
  case wireIdle => exact congrArg (fun t => Host.Outcome.next (updateFaultL t)) (onStack_id (errorWire_idle known))
  case wire =>
    change Host.Outcome.next (updateFaultL (s.onStack st (fun y => errorWire y ⟨.unit u, n⟩))) = _
    rw [State.onStack, errorWire_raises fresh exists_ quiet]
  case moves =>
    intro p rest moves i goes old a since row
    have same : migrateStep s.now x c.val p = row := by
      have site : a = migrateAddr c.val (coreSite x c.val) (x.mend.line / 2) := rfl
      unfold row migrateStep
      dsimp only
      rw [← site]
      clear_value a
      obtain ⟨g, sram⟩ := a
      cases sram with
      | none => rfl
      | some e => rfl
    refine ⟨fun first busy => exec_migrationComplete (migrationComplete_held moves first busy), fun clear => ⟨fun none_ => ?_, fun y some_ more => ?_, fun y some_ last => ?_⟩⟩
    · exact exec_migrationComplete (migrationComplete_waits moves clear (same.trans none_))
    · exact exec_migrationComplete (migrationComplete_moves moves clear (same.trans some_) more)
    · exact exec_migrationComplete (migrationComplete_switches moves clear (same.trans some_) last)
  case untested =>
    rw [exec_coilTest (coilTest_idle waits), Nat.sub_self, State.setStack_self]
    rfl
  case tests => exact exec_coilTest ((coilTest_tests may).trans (endTest_eq _))

end Sys2Proof.Machine
end

section
/-! PROOFS. The power commands of Cipauc (O47). -/

namespace Sys2Proof.Machine
open Sys2Proof

/-! ### A command on its targets (R434, R462) -/

section Targets
variable {f : StackIx → State → Nat × State}

/-- The first status other than OK of a command carried out on a target after others. -/
def targetStep (f : StackIx → State → Nat × State) (a : Nat × State) (i : StackIx) : Nat × State :=
  let b := if (a.2.stack i).boot = .off then (stState, a.2) else f i a.2
  (if a.1 = stOk then b.1 else a.1, b.2)

theorem onTargets_eq (s : State) (ts : List StackIx) : onTargets s ts f = ts.foldl (targetStep f) (stOk, s) := rfl

/-- What the later targets answer counts only where the earlier ones have answered OK. -/
theorem foldl_targetStep (ts : List StackIx) (e : Nat) (s : State) :
    ts.foldl (targetStep f) (e, s) = (if e = stOk then (onTargets s ts f).1 else e, (onTargets s ts f).2) := by
  induction ts generalizing e s with
  | nil =>
    by_cases ok : e = stOk
    · simp [onTargets, ok]
    · simp [onTargets, ok]
  | cons i ts ih =>
    rw [onTargets_eq, List.foldl_cons, List.foldl_cons]
    by_cases ok : e = stOk
    · simp only [targetStep, ok, if_true]
    · simp only [targetStep, ok, if_true, if_false, ih]

theorem onTargets_cons {s : State} {i : StackIx} (on : (s.stack i).boot ≠ .off) (ts : List StackIx) :
    onTargets s (i :: ts) f = (if (f i s).1 = stOk then (onTargets (f i s).2 ts f).1 else (f i s).1, (onTargets (f i s).2 ts f).2) := by
  rw [onTargets_eq, List.foldl_cons, ← foldl_targetStep]
  simp only [targetStep, if_neg on, if_true]

end Targets

section Self
variable {s : State} {st : StackIx} {k : Cmd} {f : StackIx → State → Nat × State} (notPart : k.tkind ≠ 2) (notModule : k.tkind ≠ 3)
include notPart notModule

/-- A command on the stack itself, which has power. -/
theorem runTargets_self (on : (s.stack st).boot ≠ .off) : runTargets s st k f = replyAll (f st s).2 st k (f st s).1 [] [] := by
  simp only [runTargets, targets_self s st notPart notModule, onTargets_one _ on, gate_self, ne_eq, not_true_eq_false, if_false]

/-- A command on the stack itself, which has no power. -/
theorem runTargets_off (off : (s.stack st).boot = .off) : runTargets s st k f = replyAll s st k stState [] [] := by
  simp only [runTargets, targets_self s st notPart notModule, onTargets, List.foldl_cons, List.foldl_nil, off, if_true]

end Self

/-! ### SET_CAP on the module (R445, R476) -/

/-- The budget and the slope of the module shown in a stack's PWR_LIMIT. -/
def limitShown (b sl : Nat) (t : State) (i : StackIx) : State :=
  t.setStack i (setReg (t.stack i) rPwrLimit (setFld (setFld (reg (t.stack i) rPwrLimit) 48 16 b) 32 16 sl))

theorem limitShown_mc (b sl : Nat) (t : State) (i : StackIx) : (limitShown b sl t i).mc = t.mc := rfl

theorem limitShown_other {b sl : Nat} {t : State} {i j : StackIx} (h : j ≠ i) : (limitShown b sl t i).stack j = t.stack j :=
  State.stack_setStack_other _ _ h

/-- The status of a target depends on the target alone. -/
theorem gate_of_stack {s t : State} {st i : StackIx} {k : Cmd} (same : t.stack i = s.stack i) : gate t st k i = gate s st k i := by
  rw [gate, gate, same]

/-- What SET_CAP does at a target of the module. -/
def limitAt (st : StackIx) (k : Cmd) (i : StackIx) (t : State) : Nat × State :=
  if gate t st k i ≠ stOk then (gate t st k i, t) else (stOk, limitShown t.mc.budget t.mc.slope t i)

theorem onTargets_limitAt {st : StackIx} {k : Cmd} (ts : List StackIx) (distinct : ts.Nodup) (t : State)
    (agrees : ∀ i ∈ ts, (t.stack i).boot ≠ .off ∧ gate t st k i = stOk) :
    onTargets t ts (limitAt st k) = (stOk, ts.foldl (limitShown t.mc.budget t.mc.slope) t) := by
  induction ts generalizing t with
  | nil => rfl
  | cons i ts ih =>
    obtain ⟨on, agreed⟩ := agrees i List.mem_cons_self
    obtain ⟨fresh, rest⟩ := List.nodup_cons.mp distinct
    have acts : limitAt st k i t = (stOk, limitShown t.mc.budget t.mc.slope t i) := if_neg (not_not_intro agreed)
    have later : ∀ j ∈ ts, ((limitShown t.mc.budget t.mc.slope t i).stack j).boot ≠ .off ∧ gate (limitShown t.mc.budget t.mc.slope t i) st k j = stOk := by
      intro j mem
      have same : (limitShown t.mc.budget t.mc.slope t i).stack j = t.stack j := limitShown_other fun e => fresh (e ▸ mem)
      rw [gate_of_stack same, same]
      exact agrees j (List.mem_cons_of_mem _ mem)
    rw [onTargets_cons on, acts, ih rest _ later]
    rfl

/-- A command on the module that every target answers OK. -/
theorem runTargets_module {s u : State} {st : StackIx} {k : Cmd} {f : StackIx → State → Nat × State} (module : k.tkind = 3)
    (whole : onTargets s allStacks (fun i t => if gate t st k i ≠ stOk then (gate t st k i, t) else f i t) = (stOk, u)) :
    runTargets s st k f = replyAll u st k stOk [] [] := by
  rw [runTargets, targets, if_pos module, whole]

theorem exec_enterCold {s : State} {st : StackIx} {r : CmdRef} {k : Cmd} (started : CmdStarted s st r 0x0504 k) :
    let status := fun (i : StackIx) => if gate s st k i ≠ stOk then gate s st k i else if (s.stack i).boot = .off ∨ jobHeld (s.stack i) = true then stState else stOk
    exec (.enterCold st r) s = .next (updateFaultL (((targets s st k).filter (fun i => status i = stOk)).foldl
      (fun t i => t.setStack i (coldEntry (abortAccepted t.now (t.stack i))))
      (replyAll s st k ((((targets s st k).map status).find? (fun n => n ≠ stOk)).getD stOk) [] []))) := by
  intro status
  change execEnterCold st r s = _
  rw [execEnterCold, onCmdAll_started _ started]
  rfl

/-- Settles O47: the commands on the stack itself, on the module, and ENTER_COLD. -/
theorem powerCommands : Obligations.PowerCommands := by
  intro s st r k x p0 say
  refine ⟨fun notPart notModule on => ⟨fun started => ?tolerance, fun started => ⟨fun zero => ?noCap, fun nonzero => ?cap⟩, fun started => ?opp,
      fun started => ⟨fun noJob => ?noJob, fun job late => ?late, fun job ahead => ?forecast⟩⟩,
    fun notPart notModule off => ⟨fun started => ?off1, fun started => ?off2, fun started => ?off3, fun started => ?off4⟩,
    fun started module agrees => ?module, exec_enterCold, fun ts f i on => onTargets_cons on ts⟩
  case tolerance =>
    change execSetLatencyTolerance st r s = _
    rw [execSetLatencyTolerance, onCmdAll_started _ started, runTargets_self notPart notModule on]
    rfl
  case noCap =>
    change execSetCap st r s = _
    rw [execSetCap, onCmdAll_started _ started]
    simp only [if_neg notModule, runTargets_self notPart notModule on]
    rw [setCap, if_pos zero]
  case cap =>
    change execSetCap st r s = _
    rw [execSetCap, onCmdAll_started _ started]
    simp only [if_neg notModule, runTargets_self notPart notModule on]
    rw [setCap, if_neg nonzero]
    rfl
  case opp =>
    change execPhaseOpp st r s = _
    rw [execPhaseOpp, onCmdAll_started _ started, runTargets_self notPart notModule on]
    rfl
  case noJob =>
    change execPhaseForecast st r s = _
    have none_ : jobRuns (s.stack st) = false := noJob
    rw [execPhaseForecast, onCmdAll_started _ started, runTargets_self notPart notModule on]
    simp only [none_, Bool.not_false, if_true]
  case late =>
    change execPhaseForecast st r s = _
    have runs : jobRuns (s.stack st) = true := job
    have past : (k.arg 0).toNat ≤ tickOf (s.stack st) := late
    rw [execPhaseForecast, onCmdAll_started _ started, runTargets_self notPart notModule on]
    simp only [runs, past, Bool.not_true, Bool.false_eq_true, if_false, if_true]
  case forecast =>
    change execPhaseForecast st r s = _
    have runs : jobRuns (s.stack st) = true := job
    have later : ¬ (k.arg 0).toNat ≤ tickOf (s.stack st) := Nat.not_le.mpr ahead
    rw [execPhaseForecast, onCmdAll_started _ started, runTargets_self notPart notModule on]
    simp only [runs, later, Bool.not_true, Bool.false_eq_true, if_false]
    rfl
  case off1 =>
    change execSetLatencyTolerance st r s = _
    rw [execSetLatencyTolerance, onCmdAll_started _ started, runTargets_off notPart notModule off]
  case off2 =>
    change execSetCap st r s = _
    rw [execSetCap, onCmdAll_started _ started]
    simp only [if_neg notModule, runTargets_off notPart notModule off]
  case off3 =>
    change execPhaseOpp st r s = _
    rw [execPhaseOpp, onCmdAll_started _ started, runTargets_off notPart notModule off]
  case off4 =>
    change execPhaseForecast st r s = _
    rw [execPhaseForecast, onCmdAll_started _ started, runTargets_off notPart notModule off]
  case module =>
    intro b sl put
    have whole := onTargets_limitAt (st := st) (k := k) allStacks (by decide) { s with mc := { s.mc with budget := b, slope := sl } } fun i _ => agrees i
    change execSetCap st r s = _
    rw [execSetCap, onCmdAll_started _ started]
    simp only [if_pos module]
    exact congrArg Host.Outcome.next (runTargets_module module whole)

end Sys2Proof.Machine
end

section
/-! PROOFS. The commands of trust (O48). -/

namespace Sys2Proof.Machine
open Sys2Proof

section Trust
variable {s : State} {st : StackIx} {r : CmdRef} {k : Cmd}

/-! ### ATTEST (R551, R554) -/

section Attest
variable (started : CmdStarted s st r 0x0700 k)
include started

theorem exec_attest_certificate (certificate : k.flags / 2 % 2 = 1) :
    exec (.attest st r) s = .next (if certOk (s.stack st) st.val (s.mc.certs.get st) = true then replyAll s st k stOk [] (s.mc.certs.get st)
      else replyAll s st k stAuthFailed [] []) := by
  change execAttest st r s = _
  rw [execAttest, onCmdAll_started _ started]
  exact congrArg Host.Outcome.next (if_pos certificate)

variable (report : ¬ k.flags / 2 % 2 = 1)
include report

/-- The stack whose next leaf has signed: a reservation begins where few are left. -/
def leafUsed (x : Stack) : Stack :=
  let y := setReg x rSecLeaf (setFld (reg x rSecLeaf) 0 31 (leafNext x + 1))
  if leafEnd y - leafNext y ≤ 128 then startReserve y else y

theorem exec_attest_signs (left : leafNext (s.stack st) < leafEnd (s.stack st)) :
    let x := s.stack st
    let bytes := attestReport x (decide (k.flags % 2 = 1)) (wordsBytes [k.arg 0, k.arg 1, k.arg 2, k.arg 3]) (leafNext x)
    exec (.attest st r) s = .next (replyAll { s.setStack st (leafUsed x) with freeIx := s.freeIx + 1 } st k stOk []
      (bytes ++ identitySign st.val (leafNext x) (Config.freeWord s.freeIx) bytes)) := by
  intro x bytes
  change execAttest st r s = _
  rw [execAttest, onCmdAll_started _ started]
  exact congrArg Host.Outcome.next ((if_neg report).trans (if_pos left))

variable (spent : leafEnd (s.stack st) ≤ leafNext (s.stack st))
include spent

theorem exec_attest_spent : exec (.attest st r) s = .next (
    if ((s.stack st).trust.reserving.isSome || canReserve (s.stack st)) = true then replyAll (s.setStack st (startReserve (s.stack st))) st k stBusy [] []
    else replyAll s st k stState [] []) := by
  change execAttest st r s = _
  rw [execAttest, onCmdAll_started _ started]
  exact congrArg Host.Outcome.next ((if_neg report).trans (if_neg (Nat.not_lt.mpr spent)))

end Attest

theorem mayReserve_iff (x : Stack) : (x.trust.reserving.isSome || canReserve x) = true ↔ x.trust.reserving ≠ none ∨ leafEnd x + 1024 ≤ 2 ^ 30 := by
  rw [Bool.or_eq_true, Option.isSome_iff_ne_none, canReserve, decide_eq_true_iff]

/-! ### LICENCE_INSTALL (R556) -/

/-- The licence as a powered stack loads it, with the burns of its floor. -/
def licenceLoaded (data : List Byte) (y : Stack) : Stack :=
  let z := loadLicence y (some data)
  { z with burns := z.burns ++ (countsTo z.trust.lfuse (min 64 (licenceFloor data))).map Burn.lfuse }

theorem exec_licenceInstall (started : CmdStarted s st r 0x0701 k) {e : Nat}
    (status : licenceStatus (s.stack st) ((s.stack st).trust.licence.map licenceSeq) k.data = e) :
    exec (.licenceInstall st r) s = .next (
      if e ≠ stOk then replyAll s st k e [] []
      else settleLicence ((beginAll ((allStacks.filter (fun i => decide ((s.stack i).boot ≠ .off))).foldl (fun t i => t.onStack i (licenceLoaded k.data))
        { s with mc := { s.mc with licences := if s.mc.licenceLast then (some k.data, s.mc.licences.2) else (s.mc.licences.1, some k.data)
                                   licenceLast := !s.mc.licenceLast } }) st k).onStack st
        (fun y => { y with trust := { y.trust with installing := some r } }))) := by
  change execLicenceInstall st r s = _
  rw [execLicenceInstall, onCmdAll_started _ started]
  dsimp only
  rw [status]
  rfl

/-! ### FW_STAGE (R549) -/

section Stage
variable {x : Stack} {o n : Nat} {last : Bool} {data : List Byte}

/-- The bytes staged before a chunk at offset `o`. -/
def stagedBefore (x : Stack) (o : Nat) : List Byte := if o = 0 then [] else x.trust.stage

/-- A chunk that is out of order, or does not fit. -/
def chunkBad (x : Stack) (o n : Nat) (last : Bool) (data : List Byte) : Prop :=
  n < 4096 ∨ 0x1000000 < n ∨ (o ≠ 0 ∧ (o ≠ (stagedBefore x o).length ∨ n ≠ x.trust.stageLen)) ∨ n < o + data.length ∨ (last = true ∧ o + data.length ≠ n)

/-- A chunk whose mark as the last one is a proposition. -/
theorem chunkBad_decide {p : Prop} [Decidable p] : chunkBad x o n (decide p) data ↔
    n < 4096 ∨ 0x1000000 < n ∨ (o ≠ 0 ∧ (o ≠ (stagedBefore x o).length ∨ n ≠ x.trust.stageLen)) ∨ n < o + data.length ∨ (p ∧ o + data.length ≠ n) := by
  rw [chunkBad, decide_eq_true_iff]

theorem stageChunk_bad (bad : chunkBad x o n last data) : stageChunk x o n last data = (stInvalidParam, x) := if_pos bad

theorem stageChunk_more (good : ¬ chunkBad x o n last data) (more : last = false) : stageChunk x o n last data =
    (stOk, { x with trust := { x.trust with stage := stagedBefore x o ++ data, stageLen := n, verified := false } }) :=
  (if_neg good).trans (if_pos (by rw [more]; rfl))

theorem stageChunk_last (good : ¬ chunkBad x o n last data) (whole : last = true) {e : Nat}
    (status : imageStatus x.trust.svn x.trust.revoke (stagedBefore x o ++ data) = e) : stageChunk x o n last data =
    (e, { x with trust := if e = stOk then { x.trust with stage := stagedBefore x o ++ data, stageLen := n, verified := true }
      else { x.trust with stage := [], stageLen := 0, verified := false } }) := by
  refine (if_neg good).trans ((if_neg (by rw [whole]; decide)).trans ?_)
  rw [← status]
  rfl

end Stage

theorem exec_fwStage (started : CmdStarted s st r 0x0702 k) {e : Nat} {y : Stack}
    (staged : stageChunk (s.stack st) (k.arg 0).toNat (k.arg 1).toNat (decide (k.flags % 2 = 1)) k.data = (e, y)) :
    exec (.fwStage st r) s = .next (s.setStack st (answerCmd s.now y k e)) := by
  refine exec_cmdRow rfl started ?_
  rw [staged]

/-! ### FW_ACTIVATE and FW_FETCH (R535, R548) -/

theorem exec_fwActivate (started : CmdStarted s st r 0x0703 k) :
    exec (.fwActivate st r) s = .next (if (!(s.stack st).trust.verified) = true ∨ jobHeld (s.stack st) = true then replyAll s st k stState [] []
      else activate s st (some r)) := by
  change execFwActivate st r s = _
  rw [execFwActivate, onCmdAll_started _ started]

theorem exec_fwFetch (started : CmdStarted s st r 0x0704 k) :
    exec (.fwFetch st r) s = .next (s.setStack st (
      if (s.stack st).boot ≠ .ready then answerCmd s.now (s.stack st) k stState
      else if (s.stack st).trust.run.length < (k.arg 0).toNat + (k.arg 1).toNat then answerCmd s.now (s.stack st) k stInvalidParam
      else reply s.now (s.stack st) k stOk [bv 64 (s.stack st).trust.run.length] (((s.stack st).trust.run.drop (k.arg 0).toNat).take (k.arg 1).toNat))) :=
  exec_cmdRow rfl started rfl

end Trust

/-- Settles O48, command by command. -/
theorem trustCommands : Obligations.TrustCommands := by
  intro s st r k x o n
  refine ⟨fun started => ⟨fun certificate good => ?cert, fun certificate bad => ?noCert, fun report left => exec_attest_signs started report left,
      fun report spent => ⟨fun may => ?reserves, fun idle full => ?exhausted⟩⟩,
    fun started => ⟨fun bad => ?refused, fun good => ?installs⟩, fun started => ?stage,
    fun started => ⟨fun stays => ?stays, fun verified free => ?activates⟩,
    fun started => ⟨fun early => ?early, fun ready short => ?short, fun ready inside => ?fetched⟩⟩
  case cert => exact (exec_attest_certificate started certificate).trans (congrArg Host.Outcome.next (if_pos good))
  case noCert => exact (exec_attest_certificate started certificate).trans (congrArg Host.Outcome.next (if_neg (ne_true_of_eq_false bad)))
  case reserves => exact (exec_attest_spent started report spent).trans (congrArg Host.Outcome.next (if_pos ((mayReserve_iff x).mpr may)))
  case exhausted =>
    refine (exec_attest_spent started report spent).trans (congrArg Host.Outcome.next (if_neg (mt (mayReserve_iff x).mp ?_)))
    exact not_or.mpr ⟨not_not_intro idle, Nat.not_le.mpr full⟩
  case refused => exact (exec_licenceInstall started rfl).trans (congrArg Host.Outcome.next (if_pos bad))
  case installs => exact (exec_licenceInstall started good).trans (congrArg Host.Outcome.next (if_neg (not_not_intro rfl)))
  case stage =>
    intro last held bs bad say
    have bad_iff : chunkBad x o n (decide last) k.data ↔ bad := chunkBad_decide
    refine ⟨fun h => exec_fwStage started (stageChunk_bad (bad_iff.mpr h)),
      fun good more => exec_fwStage started (stageChunk_more (mt bad_iff.mp good) (decide_eq_false more)), fun good whole accepted => ?_, fun good whole rejected => ?_⟩
    · have chunk := stageChunk_last (mt bad_iff.mp good) (decide_eq_true whole) accepted
      rw [if_pos rfl] at chunk
      exact exec_fwStage started chunk
    · have chunk := stageChunk_last (mt bad_iff.mp good) (decide_eq_true whole) (e := imageStatus x.trust.svn x.trust.revoke bs) rfl
      rw [if_neg rejected] at chunk
      exact exec_fwStage started chunk
  case stays =>
    exact (exec_fwActivate started).trans (congrArg Host.Outcome.next (if_pos (stays.imp_left fun unverified => by rw [unverified]; rfl)))
  case activates =>
    have staged : ¬ (!x.trust.verified) = true := by rw [verified]; decide
    exact (exec_fwActivate started).trans (congrArg Host.Outcome.next (if_neg (not_or.mpr ⟨staged, ne_true_of_eq_false free⟩)))
  case early => exact (exec_fwFetch started).trans (congrArg (fun y => Host.Outcome.next (s.setStack st y)) (if_pos early))
  case short =>
    exact (exec_fwFetch started).trans (congrArg (fun y => Host.Outcome.next (s.setStack st y)) ((if_neg (not_not_intro ready)).trans (if_pos short)))
  case fetched =>
    exact (exec_fwFetch started).trans (congrArg (fun y => Host.Outcome.next (s.setStack st y))
      ((if_neg (not_not_intro ready)).trans (if_neg (Nat.not_lt.mpr inside))))

end Sys2Proof.Machine
end

section
/-! PROOFS. Operating points, floors, grants and idle states (O50). -/

namespace Sys2Proof.Machine
open Sys2Proof

/-! ### A request of the control window that stands at a stack without power -/

/-- A read of the control window for a responder transaction that the router does not hold. -/
def strayRead : Access :=
  { id := 0, origin := .packet 0, kind := .read, addr := 0xF000000000, data := Line.zero, mask := 0, arrived := 0, granted := 0, result := Line.zero,
    unchecked := false, syn := [], refused := none, done := false }

/-- The module as reset leaves it, with the read at the router of stack 0. -/
def strayAtReset : State := State.reset.setStack 0 { Stack.reset with entering := [strayRead] }

theorem strayRead_control : place strayRead.addr = .control 0 := by decide +kernel

/-- The end of the exit from an idle state takes the read away, though the stack has no power. -/
theorem strayAtReset_taken : exec (.idleExitComplete 0) strayAtReset = .next (strayAtReset.setStack 0 Stack.reset) := by
  change Host.Outcome.next (settleControl (onLive strayAtReset 0 (idleExit strayAtReset.now)) 0) = _
  have off : onLive strayAtReset 0 (idleExit strayAtReset.now) = strayAtReset := if_pos rfl
  have waits : (strayAtReset.stack 0).entering = [strayRead] := rfl
  rw [off, settleControl, waits]
  simp only [List.filter, strayRead_control, List.foldl, controlAccess]
  rfl

/-- Refutes O50: IDLE_EXIT_COMPLETE at a stack without power that has a control-window access waiting at its router (no hypothesis excludes that). The
model performs the control accesses that stand there whatever becomes of the exit; the statement has the row change nothing. -/
theorem not_powerFollowsItsRules : ¬ Obligations.PowerFollowsItsRules := by
  intro h
  obtain ⟨off, -⟩ := h strayAtReset 0
  have stays := off rfl 0 none (.idleExitComplete 0) (by simp)
  have same := congrArg (fun t => (State.stack t 0).entering.length) (Host.Outcome.next.inj (stays.symm.trans strayAtReset_taken))
  cases same

end Sys2Proof.Machine
end

section
/-! PROOFS. Sensors, the governor, the thermal model and THERMTRIP (O51). -/

namespace Sys2Proof.Machine
open Sys2Proof

/-! ### The rows of a stack with power -/

section Rows
variable {s : State} {st : StackIx}

theorem onLive_off {f : Stack → Stack} (off : (s.stack st).boot = .off) : onLive s st f = s := if_pos off

theorem onLive_on {f : Stack → Stack} {y : Stack} (on : (s.stack st).boot ≠ .off) (h : f (s.stack st) = y) : onLive s st f = s.setStack st y := by
  rw [onLive, if_neg on, State.onStack, h]

theorem exec_sensorSample {l : List SensorSample} : exec (.sensorSample st l) s = .next (
    if (s.stack st).boot = .off then s
    else l.foldl (sampleEvents (s.stack st) st) (s.setStack st (cutFloor s.now (sensorSample (s.stack st) l)))) := rfl

theorem exec_thermalUpdate {p : DiePower} : exec (.thermalUpdate st p) s = .next (
    if (s.stack st).boot = .off then s
    else ((thermalUpdate s.now (s.stack st) p).1.filter (fun a => a.low)).foldl
      (fun t a => sendEvent t (.thermalForecast st.val a.die a.entry.tag a.entry.first)) (s.setStack st (thermalUpdate s.now (s.stack st) p).2)) := rfl

theorem exec_thermtrip_stays (off : (s.stack st).boot = .off) (warm : (s.stack st).cold = false) : exec (.thermtrip st) s = .next s := by
  have still : (s.stack st).boot = .off ∧ (!(s.stack st).cold) = true := ⟨off, by rw [warm]; rfl⟩
  change execThermtrip st s = _
  rw [execThermtrip, if_pos still]

/-- A module in which a trip has latched, turned off. -/
def tripLatched (t : State) : State := moduleOff { t with mc := { t.mc with thermtripL := true, thermal := true, input := 5 } }

theorem exec_thermtrip_trips (live : (s.stack st).boot ≠ .off ∨ (s.stack st).cold = true) :
    exec (.thermtrip st) s = .next (tripLatched (raiseModule (s.setStack st (powerOff (s.stack st))) fThermtrip)) := by
  have trips : ¬ ((s.stack st).boot = .off ∧ (!(s.stack st).cold) = true) := fun ⟨off, warm⟩ => live.elim (absurd off) fun cold => by
    rw [cold] at warm
    cases warm
  have goes : s.onStack st powerOff = s.setStack st (powerOff (s.stack st)) := rfl
  change execThermtrip st s = _
  rw [execThermtrip, if_neg trips, goes]
  generalize raiseModule (s.setStack st (powerOff (s.stack st))) fThermtrip = t
  rfl

end Rows

/-! ### The thermal model (R472) -/

section Model
variable {now die n : Nat} {x : Stack}

theorem modelUpdate_stays (h : n = 0 ∨ steadyPower now x die n = false) : modelUpdate now x die n = x :=
  if_pos (h.imp_right fun unsteady => by rw [unsteady]; rfl)

theorem modelUpdate_moves (draws : 0 < n) (steady : steadyPower now x die n = true) :
    modelUpdate now x die n =
      let r := (((dieReading x die : Int) : Rat) / 8 - inletTemp x) / watts n
      { x with power := { x.power with resist := tput x.power.resist die (modelR x die + (r - modelR x die) / 64) } } := by
  refine if_neg (not_or.mpr ⟨Nat.ne_of_gt draws, ?_⟩)
  rw [steady]
  decide

end Model

/-! ### Twin sensors (R468) -/

section Sensors
variable {n : Nat} {a b : BitVec 12}

theorem sensorRow_forced : sensorRow n a b true = (2, hardTemp (hotDie n)) := by
  simp [sensorRow]

theorem sensorRow_none : sensorRow n 0x800#12 0x800#12 false = (2, hardTemp (hotDie n)) := by
  simp [sensorRow]

variable (validA : a ≠ 0x800#12)
include validA

theorem sensorRow_first : sensorRow n a 0x800#12 false = (3, a.toInt) := by
  simp [sensorRow, codeTemp, validA]

variable (validB : b ≠ 0x800#12)
include validB

theorem sensorRow_both : sensorRow n a b false =
    if (a.toInt - b.toInt).natAbs ≤ 24 then (0, max a.toInt b.toInt)
    else if (a.toInt - b.toInt).natAbs ≤ 96 then (1, max a.toInt b.toInt)
    else (2, hardTemp (hotDie n)) := by
  simp [sensorRow, codeTemp, validA, validB]
  rfl

omit validA in
theorem sensorRow_second : sensorRow n 0x800#12 b false = (4, b.toInt) := by
  simp [sensorRow, codeTemp, validB]

end Sensors

/-- Settles O51, row by row. -/
theorem heatIsWatched : Obligations.HeatIsWatched := by
  intro s st x
  refine ⟨fun off l p d n i row => ?off, fun on => ⟨fun l => ?sample, ?governor, fun p => ?update, fun p => rfl, fun d n still => ?still, fun d n draws steady => ?moves⟩,
    fun n a b validA validB => ⟨fun near => ?near, fun apart close => ?split, fun apart => ?apart, sensorRow_first validA, sensorRow_second validB,
      sensorRow_none, sensorRow_forced⟩, fun live => ?trips, exec_thermtrip_stays⟩
  case off =>
    simp only [List.mem_cons, List.not_mem_nil, or_false] at row
    obtain rfl | rfl | rfl | rfl := row
    · exact exec_sensorSample.trans (congrArg Host.Outcome.next (if_pos off))
    · exact congrArg Host.Outcome.next (onLive_off off)
    · exact exec_thermalUpdate.trans (congrArg Host.Outcome.next (if_pos off))
    · exact congrArg Host.Outcome.next (onLive_off off)
  case sample => exact exec_sensorSample.trans (congrArg Host.Outcome.next (if_neg on))
  case governor => exact congrArg Host.Outcome.next (onLive_on on rfl)
  case update => exact exec_thermalUpdate.trans (congrArg Host.Outcome.next (if_neg on))
  case still => exact congrArg Host.Outcome.next (onLive_on on (modelUpdate_stays still))
  case moves => exact congrArg Host.Outcome.next (onLive_on on (modelUpdate_moves draws steady))
  case trips =>
    intro t
    change exec (.thermtrip st) s = .next (tripLatched t)
    exact exec_thermtrip_trips live
  case near => exact (sensorRow_both validA validB).trans (if_pos near)
  case split => exact (sensorRow_both validA validB).trans ((if_neg (Nat.not_le.mpr apart)).trans (if_pos close))
  case apart =>
    have far : ¬ (a.toInt - b.toInt).natAbs ≤ 24 := by omega
    exact (sensorRow_both validA validB).trans ((if_neg far).trans (if_neg (Nat.not_le.mpr apart)))

end Sys2Proof.Machine
end

section
/-! PROOFS. The coolant as the module controller watches it (O52). -/

namespace Sys2Proof.Machine
open Sys2Proof

/-! ### What a raise of the module controller leaves of its view of the coolant -/

theorem sendEvent_cool (s : State) (e : Event) : (sendEvent s e).mc.cool = s.mc.cool := by
  unfold sendEvent
  split
  · rfl
  · rfl

theorem foldl_cool {α : Type} {f : State → α → State} (h : ∀ s a, (f s a).mc.cool = s.mc.cool) (l : List α) (s : State) :
    (l.foldl f s).mc.cool = s.mc.cool := by
  induction l generalizing s with
  | nil => rfl
  | cons a l ih => exact (ih (f s a)).trans (h s a)

theorem onMember_cool (s : State) (i : StackIx) (f : Stack → Stack) : (onMember s i f).mc.cool = s.mc.cool :=
  congrArg ModCtl.cool (onMember_stacksAlone s i f).mc

theorem actSeverity_cool (s : State) (i : StackIx) (r : Raise) (x : Record) : (actSeverity s i r x).mc.cool = s.mc.cool := by
  have own : ∀ f : Stack → Stack, (if jobRuns (s.stack i) = true then onMember s i f else s).mc.cool = s.mc.cool := fun f => by
    split
    · exact onMember_cool s i f
    · rfl
  unfold actSeverity
  dsimp only
  split
  · rfl
  · split
    · exact own _
    · refine (sendEvent_cool _ _).trans ((foldl_cool (fun t j => ?_) _ _).trans (own _))
      split
      · exact onMember_cool _ _ _
      · rfl

theorem keepCopy_cool (s : State) (i : StackIx) (x : Record) : (keepCopy s i x).mc.cool = s.mc.cool := by
  unfold keepCopy
  dsimp only
  split
  · rfl
  · rfl

theorem arrive_cool (s : State) (i : StackIx) (r : Raise) : (arrive s i r).mc.cool = s.mc.cool := by
  unfold arrive
  dsimp only
  split
  · rfl
  · refine (actSeverity_cool _ _ _ _).trans ?_
    split
    · exact keepCopy_cool _ _ _
    · rfl

theorem raiseModule_cool (s : State) (source : Nat) : (raiseModule s source).mc.cool = s.mc.cool :=
  foldl_cool (fun t i => by
    split
    · rfl
    · exact arrive_cool _ _ _) _ _

/-! ### Conditions and derates (R469) -/

/-- The derates of the coolant with their factors. -/
def coolDerates (c : CoolCtl) : Bool × Rat × Bool × Rat := (c.low, c.lowFactor, c.warm, c.warmFactor)

theorem sendEvent_derates (s : State) (e : Event) : coolDerates (sendEvent s e).mc.cool = coolDerates s.mc.cool :=
  congrArg coolDerates (sendEvent_cool s e)

theorem sayLow_derates (s : State) : coolDerates (sayLow s).mc.cool = coolDerates s.mc.cool := by
  unfold sayLow
  split
  · exact sendEvent_derates s _
  · rfl

theorem sayWarm_derates (s : State) : coolDerates (sayWarm s).mc.cool = coolDerates s.mc.cool := by
  unfold sayWarm
  split
  · exact sendEvent_derates s _
  · rfl

theorem sayDecline_derates (s : State) : coolDerates (sayDecline s).mc.cool = coolDerates s.mc.cool := by
  unfold sayDecline
  split
  · exact sendEvent_derates s _
  · rfl

/-- Each condition holds on from where it held, or from the averages that show it; its factor follows while it holds. -/
theorem coolConditions_derates (s : State) (q tin : Rat) :
    let low := s.mc.cool.low || decide (q < 34 / 10)
    let warm := s.mc.cool.warm || decide (40 < tin)
    coolDerates (coolConditions s q tin).mc.cool
      = (low, if low = true then min 1 (q / 4) else 1, warm, if warm = true then min 1 (max (2 / 10) (1 - 4 / 100 * (tin - 40))) else 1) := by
  have raisedLow : ∀ (t : State) (p : Prop) [Decidable p],
      coolDerates (if p then sayLow (raiseModule t fCoolantLow) else t).mc.cool = coolDerates t.mc.cool := fun t p _ => by
    split
    · exact (sayLow_derates _).trans (congrArg coolDerates (raiseModule_cool t _))
    · rfl
  have raisedWarm : ∀ (t : State) (p : Prop) [Decidable p],
      coolDerates (if p then sayWarm (raiseModule t fCoolantWarm) else t).mc.cool = coolDerates t.mc.cool := fun t p _ => by
    split
    · exact (sayWarm_derates _).trans (congrArg coolDerates (raiseModule_cool t _))
    · rfl
  have said : ∀ (t : State) (p : Prop) [Decidable p], coolDerates (if p then sayDecline t else t).mc.cool = coolDerates t.mc.cool := fun t p _ => by
    split
    · exact sayDecline_derates t
    · rfl
  intro low warm
  unfold coolConditions
  exact (said _ _).trans ((raisedWarm _ _).trans (raisedLow _ _))

/-! ### A sample (R469, R470, R581) -/

section Sample
variable {s : State} {x : Coolant}

/-- The sample of a row as the controller keeps it. -/
def sampleOf (x : Coolant) : CoolSample := ⟨x.flow, x.inlet, x.outlet⟩

theorem coolantSample_unpowered (off : s.mc.supply = false) : coolantSample s x = s := if_pos (by rw [off]; rfl)

variable (on : s.mc.supply = true)
include on

theorem coolantSample_early (early : averages (takeSample s.mc.cool (sampleOf x)) = none) :
    coolantSample s x = { s with mc := { s.mc with cool := takeSample s.mc.cool (sampleOf x) } } := by
  have powered : ¬ (!s.mc.supply) = true := by rw [on]; decide
  unfold sampleOf at early
  unfold coolantSample
  rw [if_neg powered]
  dsimp only
  rw [early]
  rfl

/-- Whether a sampled second qualifies the coolant, or it stays qualified. -/
def qualifies (m : ModCtl) (c : CoolCtl) (q tin : Rat) : Bool := decide (36 / 10 ≤ q ∧ tin ≤ 40) || (m.vin && c.qualified)

variable {q tin tout : Rat} (second : averages (takeSample s.mc.cool (sampleOf x)) = some (q, tin, tout))
include second

theorem coolantSample_unqualified (unfit : qualifies s.mc (takeSample s.mc.cool (sampleOf x)) q tin = false) :
    coolantSample s x = { s with mc := { s.mc with cool := { takeSample s.mc.cool (sampleOf x) with qualified := false } } } := by
  have powered : ¬ (!s.mc.supply) = true := by rw [on]; decide
  unfold sampleOf at second
  unfold qualifies sampleOf at unfit
  unfold coolantSample
  rw [if_neg powered]
  dsimp only
  rw [second]
  dsimp only
  rw [unfit]
  rfl

theorem coolantSample_qualified (fit : qualifies s.mc (takeSample s.mc.cool (sampleOf x)) q tin = true) :
    coolantSample s x =
      let c := takeSample s.mc.cool (sampleOf x)
      let t := coolConditions { s with mc := { s.mc with cool := { c with qualified := true } } } q tin
      let u := if (t.mc.cool.stop.isNone && stopSeen t.mc.cool) = true then coolantStop t else t
      if c.taken % 1000 = 0 then loadCoolant u else u := by
  have powered : ¬ (!s.mc.supply) = true := by rw [on]; decide
  unfold sampleOf at second
  unfold qualifies sampleOf at fit
  unfold coolantSample
  rw [if_neg powered]
  dsimp only
  rw [second]
  dsimp only
  rw [fit]
  rfl

end Sample

theorem qualifies_iff {m : ModCtl} {c : CoolCtl} {q tin : Rat} :
    qualifies m c q tin = true ↔ (36 / 10 ≤ q ∧ tin ≤ 40) ∨ (m.vin = true ∧ c.qualified = true) := by
  rw [qualifies, Bool.or_eq_true, decide_eq_true_iff, Bool.and_eq_true]

/-! ### Derates lifted (R469) -/

section Lift
variable {s : State}

theorem exec_coolantDerateLift_low : exec (.coolantDerateLift 0) s = .next (
    if (s.mc.cool.low && s.mc.cool.lowClear.isSome) = true then
      { s with mc := { s.mc with rising := true, cool := { s.mc.cool with low := false, lowFactor := 1, lowClear := none } } }
    else s) := rfl

theorem exec_coolantDerateLift_warm : exec (.coolantDerateLift 1) s = .next (
    if (s.mc.cool.warm && s.mc.cool.warmClear.isSome) = true then
      { s with mc := { s.mc with rising := true, cool := { s.mc.cool with warm := false, warmFactor := 1, warmClear := none } } }
    else s) := rfl

theorem lifts_iff {b : Bool} {t : Option Nat} : (b && t.isSome) = true ↔ b = true ∧ t ≠ none := by
  rw [Bool.and_eq_true, Option.isSome_iff_ne_none]

theorem lifts_not {b : Bool} {t : Option Nat} (h : b = false ∨ t = none) : ¬ (b && t.isSome) = true := fun lifts => by
  obtain ⟨held, clear⟩ := lifts_iff.mp lifts
  exact h.elim (ne_true_of_eq_false · held) clear

end Lift

/-! ### The stop's deadline and the end of its hold (R470) -/

section Stop
variable {s : State}

theorem stopDeadline_idle (h : s.mc.cool.stop = none ∨ s.mc.cool.ended = true) : stopDeadline s = s :=
  if_pos (h.imp_left fun none_ => by rw [none_]; rfl)

/-- A stack that the deadline reaches. -/
def deadlineAt (t : State) (i : StackIx) : State :=
  if (t.stack i).boot = .off then t
  else onMember t i (fun x =>
    let y := abortJob t.now x none fCoolantStop
    let z := if jobOn y then endMember t.now y else y
    holdCommands t.now (selfRefreshAll t.now { z with power := { z.power with coolantHold := true } } true))

theorem stopDeadline_ends (stop : s.mc.cool.stop ≠ none) (first : s.mc.cool.ended = false) :
    stopDeadline s = allStacks.foldl deadlineAt { s with mc := { s.mc with cool := { s.mc.cool with ended := true } } } := by
  refine if_neg (not_or.mpr ⟨?_, ne_true_of_eq_false first⟩)
  rw [Option.isNone_iff_eq_none]
  exact stop

/-- A stack whose hold has ended. -/
def holdLifted (now : Nat) (x : Stack) : Stack :=
  if x.boot = .off then x
  else
    let y := selfRefreshAll now { cutFloor now x with power := { (cutFloor now x).power with coolantStop := false, coolantHold := false } } false
    if jobRuns y then y else setRates (choosePoint y 0) 1024

/-- A change of each stack by itself. -/
theorem foldl_onStack (s : State) (f : Stack → Stack) :
    allStacks.foldl (fun t i => t.onStack i f) s = { s with quad := ⟨f (s.stack 0), f (s.stack 1), f (s.stack 2), f (s.stack 3)⟩ } := rfl

/-- Whether the hold may end. -/
def holdPast (s : State) : Prop := s.mc.cool.stop ≠ none ∧ s.mc.cool.ended = true ∧ s.mc.cool.flowBack ≠ none ∧ stopCleared s = true

theorem holdPast_iff : holdPast s ↔ ¬ (s.mc.cool.stop.isNone = true ∨ (!s.mc.cool.ended) = true ∨ s.mc.cool.flowBack.isNone = true ∨ (!stopCleared s) = true) := by
  simp [holdPast]

theorem holdEnd_idle (waits : ¬ holdPast s) : holdEnd s = s := if_pos (not_not.mp (mt holdPast_iff.mpr waits))

theorem holdEnd_ends (past : holdPast s) : holdEnd s = allStacks.foldl (fun t i => t.onStack i (fun x => holdLifted t.now x))
    { s with mc := { s.mc with cool := { s.mc.cool with stop := none, ended := false } } } := if_neg (holdPast_iff.mp past)

end Stop

/-- Settles O52: samples, conditions, messages, derates, the stop and the hold by the lemmas of each. -/
theorem coolantIsWatched : Obligations.CoolantIsWatched := by
  intro s m
  refine ⟨fun x => ⟨fun off => ?unpowered, fun on early => ?kept, fun q tin tout on second => ⟨fun unfit stays => ?unfit, fun fit => ?fit⟩⟩,
    fun q tin => ?conditions, rfl, rfl, rfl, fun low clear => ?low, fun warm clear => ?warm, fun h => ?notLow, fun h => ?notWarm, fun x => rfl,
    fun h => congrArg Host.Outcome.next (stopDeadline_idle h), fun stop first => congrArg Host.Outcome.next (stopDeadline_ends stop first),
    fun waits => congrArg Host.Outcome.next (holdEnd_idle waits), fun past => ?held⟩
  case unpowered => exact congrArg Host.Outcome.next (coolantSample_unpowered off)
  case kept => exact congrArg Host.Outcome.next (coolantSample_early on early)
  case unfit =>
    exact congrArg Host.Outcome.next (coolantSample_unqualified on second (Bool.eq_false_iff.mpr (mt qualifies_iff.mp (not_or.mpr ⟨unfit, stays⟩))))
  case fit =>
    intro t u
    have sample := coolantSample_qualified on second (qualifies_iff.mpr fit)
    simp only [Bool.and_eq_true, Option.isNone_iff_eq_none] at sample
    exact congrArg Host.Outcome.next sample
  case conditions =>
    intro c
    have derates := coolConditions_derates s q tin
    simp only [coolDerates, Prod.mk.injEq] at derates
    obtain ⟨low, lowFactor, warm, warmFactor⟩ := derates
    refine ⟨low, warm, fun holds => ?_, fun clear => ?_, fun holds => ?_, fun clear => ?_⟩
    · exact lowFactor.trans (if_pos (low.symm.trans holds))
    · exact lowFactor.trans (if_neg (ne_true_of_eq_false (low.symm.trans clear)))
    · exact warmFactor.trans (if_pos (warm.symm.trans holds))
    · exact warmFactor.trans (if_neg (ne_true_of_eq_false (warm.symm.trans clear)))
  case low => exact exec_coolantDerateLift_low.trans (congrArg Host.Outcome.next (if_pos (lifts_iff.mpr ⟨low, clear⟩)))
  case warm => exact exec_coolantDerateLift_warm.trans (congrArg Host.Outcome.next (if_pos (lifts_iff.mpr ⟨warm, clear⟩)))
  case notLow => exact exec_coolantDerateLift_low.trans (congrArg Host.Outcome.next (if_neg (lifts_not h)))
  case notWarm => exact exec_coolantDerateLift_warm.trans (congrArg Host.Outcome.next (if_neg (lifts_not h)))
  case held =>
    intro at_
    exact congrArg Host.Outcome.next ((holdEnd_ends past).trans rfl)

end Sys2Proof.Machine
end

section
/-! PROOFS. Pins, supplies, power-on, power loss and REFCLK (O54). -/

namespace Sys2Proof.Machine
open Sys2Proof

section Pins
variable {s : State}

/-! ### The housekeeping supply and PWR_EN (R462, R573, R581) -/

theorem execHousekeepingStart_idle {id : BitVec 6} (on : s.mc.supply = true) : exec (.housekeepingStart id) s = .next s := congrArg Host.Outcome.next (if_pos on)

theorem execHousekeepingStart_starts {id : BitVec 6} (off : s.mc.supply = false) : exec (.housekeepingStart id) s = .next (updateFaultL { s with
    mc := { s.mc with
      supply := true, slotId := id, thermtripL := s.mc.thermal, cool := CoolCtl.reset, i3c := none, eid := 0, receiver := none, expected := none } }) :=
  congrArg Host.Outcome.next (if_neg (ne_true_of_eq_false off))

theorem mayPower_iff (n : ModCtl) : mayPower n = true ↔ (n.supply = true ∧ n.pwrEn = true ∧ n.cool.qualified = true ∧ n.overcurrent = false ∧ n.thermal = false
    ∧ n.input ≠ 2 ∧ n.input ≠ 3 ∧ n.blue = 0) := by
  simp [mayPower, and_assoc]

/-- The module controller with the latches of a trip cleared. -/
def latchesCleared (m : ModCtl) : ModCtl :=
  { m with overcurrent := false, thermal := false, thermtripL := false, input := if m.input = 4 ∨ m.input = 5 then 0 else m.input }

/-- The module controller with PWR_EN asserted. -/
def enabled (m : ModCtl) : ModCtl := { m with pwrEn := true, blue := 0, vin := mayPower { m with pwrEn := true, blue := 0 } }

theorem exec_pwrEnAssert : exec .pwrEnAssert s = .next (if s.mc.pwrEn = true then s
    else { s with mc := enabled (if latchOver s = true then latchesCleared s.mc else s.mc) }) := rfl

theorem latchOver_eq (low : s.mc.pwrEn = false) : latchOver s = decide (s.mc.enLow + cyclesSecond ≤ s.now) := by
  rw [latchOver, low, Bool.not_false, Bool.true_and]

theorem execPwrEnAssert_idle (high : s.mc.pwrEn = true) : exec .pwrEnAssert s = .next s := exec_pwrEnAssert.trans (congrArg Host.Outcome.next (if_pos high))

variable (low : s.mc.pwrEn = false)
include low

theorem execPwrEnAssert_clears (long : s.mc.enLow + cyclesSecond ≤ s.now) : exec .pwrEnAssert s = .next { s with mc := enabled (latchesCleared s.mc) } := by
  have cleared : latchOver s = true := (latchOver_eq low).trans (decide_eq_true long)
  rw [exec_pwrEnAssert, if_neg (ne_true_of_eq_false low), if_pos cleared]

theorem execPwrEnAssert_keeps (short : s.now < s.mc.enLow + cyclesSecond) : exec .pwrEnAssert s = .next { s with mc := enabled s.mc } := by
  have held : latchOver s = false := (latchOver_eq low).trans (decide_eq_false (Nat.not_le.mpr short))
  rw [exec_pwrEnAssert, if_neg (ne_true_of_eq_false low), if_neg (ne_true_of_eq_false held)]

omit low

/-! ### VIN_PKG goes (R573, R576, R590) -/

/-- The module without VIN_PKG, its controller changed further. -/
def moduleOffThen (s : State) (f : ModCtl → ModCtl) : State := { moduleOff s with mc := f (moduleOff s).mc }

theorem execPwrEnDeassert_eq : exec .pwrEnDeassert s = .next (if (!s.mc.pwrEn) = true then s
    else moduleOffThen s (fun n => { n with
      pwrEn := false, lost := false, enLow := s.now, powerCycles := s.mc.powerCycles + one s.mc.pwrGood 1, input := if s.mc.input = 1 then 0 else s.mc.input })) := rfl

/-- A stack of a module without VIN_PKG has no power, and keeps its fuses. -/
theorem moduleOff_stack (s : State) (i : StackIx) : (moduleOff s).stack i = powerOff (s.stack i) := by
  have quad : (moduleOff s).quad = ⟨powerOff (s.stack 0), powerOff (s.stack 1), powerOff (s.stack 2), powerOff (s.stack 3)⟩ := rfl
  rw [State.stack, quad]
  fin_cases i
  · rfl
  · rfl
  · rfl
  · rfl

/-! ### PWR_GOOD (R445, R485, R497, R525) -/

theorem execPwrGood_idle (h : mayPower s.mc = false ∨ s.mc.pwrGood = true) : exec .pwrGood s = .next s :=
  congrArg Host.Outcome.next (if_pos (h.imp_left fun no => by rw [no]; rfl))

/-- The record copies that the stacks get back at module power-on. -/
def copiesBack (m : ModCtl) : Quad (List Record) := if m.lost then m.copies else Quad.all []

theorem execPwrGood_starts (may : mayPower s.mc = true) (down : s.mc.pwrGood = false) :
    exec .pwrGood s = .next (updateFaultL { s with
      quad := ⟨powerOnStack s.now ((copiesBack s.mc).get 0) (s.stack 0), powerOnStack s.now ((copiesBack s.mc).get 1) (s.stack 1),
        powerOnStack s.now ((copiesBack s.mc).get 2) (s.stack 2), powerOnStack s.now ((copiesBack s.mc).get 3) (s.stack 3)⟩
      mc := { s.mc with vin := true, pwrGood := true, onAt := s.now, input := 1, attn := none, copies := copiesBack s.mc, lost := false, expected := none,
                        activating := none, budget := 2200, slope := 400, caps := Quad.all 520, swings := [] } }) := by
  have starts : ¬ ((!mayPower s.mc) = true ∨ s.mc.pwrGood = true) := by
    rw [may, down]
    decide
  change execPwrGood s = _
  rw [execPwrGood, if_neg starts]
  rfl

/-! ### The input stage (R569-R571) -/

theorem exec_inputUndervoltage : exec .inputUndervoltage s = .next (if (!s.mc.supply) = true then s
    else moduleOffThen s (fun n => { n with input := 2, supply := false, faultL := false, thermtripL := false })) := rfl

theorem exec_inputOvervoltage : exec .inputOvervoltage s = .next (if (!s.mc.supply) = true then s
    else moduleOffThen s (fun n => { n with input := 3 })) := rfl

theorem exec_inputOvercurrent : exec .inputOvercurrent s = .next (if (!s.mc.supply) = true then s
    else moduleOffThen s (fun n => { n with input := 4, overcurrent := true })) := rfl

/-- Whether every rail is dark as REMOVE_INDICATOR asks. -/
def railsDark (m : ModCtl) : Prop := m.vin = false ∧ (m.pwrEn = false ∨ m.blue = 1)

theorem exec_removeIndicator : exec .removeIndicator s = .next (if s.mc.supply = true ∧ (!s.mc.vin) = true ∧ ((!s.mc.pwrEn) = true ∨ s.mc.blue = 1)
    then { s with mc := { s.mc with blue := 2 } } else s) := rfl

theorem removes_iff (m : ModCtl) : (m.supply = true ∧ (!m.vin) = true ∧ ((!m.pwrEn) = true ∨ m.blue = 1)) ↔ m.supply = true ∧ railsDark m := by
  simp only [railsDark, Bool.not_eq_true']

theorem execInputRestore_idle (h : s.mc.pwrEn = false ∨ (s.mc.input ≠ 2 ∧ s.mc.input ≠ 3)) : exec .inputRestore s = .next s :=
  congrArg Host.Outcome.next (if_pos (h.imp_left fun low => by rw [low]; rfl))

theorem execInputRestore_returns (high : s.mc.pwrEn = true) (out : s.mc.input = 2 ∨ s.mc.input = 3) :
    let n := { s.mc with input := if s.mc.overcurrent then 4 else if s.mc.thermal then 5 else 0 }
    exec .inputRestore s = .next { s with mc := { n with vin := mayPower n } } := by
  have returns : ¬ ((!s.mc.pwrEn) = true ∨ (s.mc.input ≠ 2 ∧ s.mc.input ≠ 3)) := by
    rw [high]
    exact not_or.mpr ⟨by decide, fun ⟨no2, no3⟩ => out.elim no2 no3⟩
  exact congrArg Host.Outcome.next (if_neg returns)

/-! ### REFCLK (R572) -/

/-- A stack of the module loses codeword lock on its four ports. -/
def portsLost (t : State) (i : StackIx) : State :=
  if (t.stack i).boot = .off then t else onMember t i (fun x => ([0, 1, 2, 3] : List Nat).foldl (linkLost t.now) x)

theorem portsLost_eq (t : State) (i : StackIx) : portsLost t i = if (t.stack i).boot = .off then t
    else onMember t i (fun x => linkLost t.now (linkLost t.now (linkLost t.now (linkLost t.now x 0) 1) 2) 3) := by
  simp only [portsLost, List.foldl_cons, List.foldl_nil]

theorem exec_refclkLoss : exec .refclkLoss s =
    .next (portsLost (portsLost (portsLost (portsLost { s with mc := { s.mc with refclk := false } } 0) 1) 2) 3) := by
  change execRefclkLoss s = _
  rw [execRefclkLoss]
  change Host.Outcome.next (List.foldl portsLost _ [0, 1, 2, 3]) = _
  simp only [List.foldl_cons, List.foldl_nil]

/-- The ports of a stack that are down. -/
def portsDown (x : Stack) : List Nat := ([0, 1, 2, 3] : List Nat).filter (fun l => linkState x l = 3)

/-- Whether a stack has stopped its links for a QUIESCE. -/
def quiesceStopped (x : Stack) : Bool := match x.quiesce with | some q => decide (2 ≤ q.stage) | none => false

/-- A stack at the return of REFCLK. -/
def refclkBack (now : Nat) (x : Stack) : Stack :=
  if x.boot = .off ∨ quiesceStopped x = true then x
  else if transitHeld x = true then { x with resetting := x.resetting.map (fun r => { r with runs := r.runs ++ (portsDown x).map (fun l => (l, 0)) }) }
  else (portsDown x).foldl (fun x l => trainLink now x l (retrained x l)) x

theorem exec_refclkReturn : exec .refclkReturn s = .next { s with
    quad := ⟨refclkBack s.now (s.stack 0), refclkBack s.now (s.stack 1), refclkBack s.now (s.stack 2), refclkBack s.now (s.stack 3)⟩
    mc := { s.mc with refclk := true } } := rfl

theorem refclkBack_stays {now : Nat} {x : Stack} (h : x.boot = .off ∨ ∃ q, x.quiesce = some q ∧ 2 ≤ q.stage) : refclkBack now x = x := by
  refine if_pos (h.imp_right fun ⟨q, quiesces, stopped⟩ => ?_)
  rw [quiesceStopped, quiesces]
  exact decide_eq_true stopped

theorem refclkBack_trains {now : Nat} {x : Stack} (calm : x.quiesce = none) (on : x.boot ≠ .off) : refclkBack now x =
    if transitHeld x = true then { x with resetting := x.resetting.map (fun r => { r with runs := r.runs ++ (portsDown x).map (fun l => (l, 0)) }) }
    else (portsDown x).foldl (fun x l => trainLink now x l (retrained x l)) x := by
  have runs : quiesceStopped x = false := by rw [quiesceStopped, calm]
  exact if_neg (not_or.mpr ⟨on, ne_true_of_eq_false runs⟩)

end Pins

/-- Settles O54, row by row. -/
theorem pinsAndSupplies : Obligations.PinsAndSupplies := by
  intro s m off
  have unpowered : m.supply = false → (!s.mc.supply) = true := fun h => by rw [show s.mc.supply = false from h]; rfl
  have powered : m.supply = true → ¬ (!s.mc.supply) = true := fun h => by rw [show s.mc.supply = true from h]; decide
  refine ⟨fun id => ⟨execHousekeepingStart_idle, execHousekeepingStart_starts⟩, execPwrEnAssert_idle, execPwrEnAssert_clears, execPwrEnAssert_keeps,
    mayPower_iff, fun low => ?low, fun high => ?high, fun i => ?dark, execPwrGood_idle, execPwrGood_starts, fun dead i row => ?dead, fun live => ?live,
    execInputRestore_idle, execInputRestore_returns, ?lost, fun stays => ?stays, fun calm => ?trains⟩
  case low => exact execPwrEnDeassert_eq.trans (congrArg Host.Outcome.next (if_pos (by rw [show s.mc.pwrEn = false from low]; rfl)))
  case high => exact execPwrEnDeassert_eq.trans (congrArg Host.Outcome.next (if_neg (by rw [show s.mc.pwrEn = true from high]; decide)))
  case dark =>
    intro t
    have dark : t.stack i = powerOff (s.stack i) := moduleOff_stack s i
    rw [dark]
    exact ⟨rfl, rfl, rfl, rfl, rfl, rfl, rfl, rfl, rfl, rfl⟩
  case dead =>
    simp only [List.mem_cons, List.not_mem_nil, or_false] at row
    obtain rfl | rfl | rfl | rfl := row
    · exact exec_inputUndervoltage.trans (congrArg Host.Outcome.next (if_pos (unpowered dead)))
    · exact exec_inputOvervoltage.trans (congrArg Host.Outcome.next (if_pos (unpowered dead)))
    · exact exec_inputOvercurrent.trans (congrArg Host.Outcome.next (if_pos (unpowered dead)))
    · exact exec_removeIndicator.trans (congrArg Host.Outcome.next (if_neg fun ⟨supplied, _⟩ => ne_true_of_eq_false dead supplied))
  case live =>
    refine ⟨exec_inputUndervoltage.trans (congrArg Host.Outcome.next (if_neg (powered live))),
      exec_inputOvervoltage.trans (congrArg Host.Outcome.next (if_neg (powered live))),
      exec_inputOvercurrent.trans (congrArg Host.Outcome.next (if_neg (powered live))), fun dark => ?_, fun lit => ?_⟩
    · exact exec_removeIndicator.trans (congrArg Host.Outcome.next (if_pos ((removes_iff m).mpr ⟨live, dark⟩)))
    · exact exec_removeIndicator.trans (congrArg Host.Outcome.next (if_neg fun removes => lit ((removes_iff m).mp removes).2))
  case lost =>
    intro lose
    have each : ∀ t i, lose t i = portsLost t i := fun t i => (portsLost_eq t i).symm
    simp only [each]
    exact exec_refclkLoss
  case stays =>
    rw [exec_refclkReturn, refclkBack_stays (stays 0), refclkBack_stays (stays 1), refclkBack_stays (stays 2), refclkBack_stays (stays 3)]
    rfl
  case trains =>
    intro all
    have each : ∀ i, refclkBack s.now (s.stack i) = all i := fun i => refclkBack_trains (calm i).1 (calm i).2
    rw [exec_refclkReturn, each, each, each, each]

end Sys2Proof.Machine
end

section
/-! PROOFS. The sideband: I3C addresses, MCTP control, commands over MCTP, PLDM (O55). -/

namespace Sys2Proof.Machine
open Sys2Proof

section Sideband
variable {s : State}

/-! ### Addresses and control messages (R577, R578) -/

theorem exec_setdasa (a : BitVec 7) :
    exec (.setdasa a) s = .next (if s.mc.supply = true ∧ s.mc.i3c = none then { s with mc := { s.mc with i3c := some a } } else s) := rfl

theorem exec_entdaa (a : BitVec 7) :
    exec (.entdaa a) s = .next (if s.mc.supply = true ∧ s.mc.i3c = none then { s with mc := { s.mc with i3c := some a } } else s) := rfl

/-- A control message is answered with the housekeeping supply alone. -/
theorem controlMessage_off {t : State} (off : s.mc.supply = false) : (if (!s.mc.supply) = true then s else t) = s := if_pos (by rw [off]; rfl)

theorem controlMessage_on {t : State} (on : s.mc.supply = true) : (if (!s.mc.supply) = true then s else t) = t := if_neg (by rw [on]; decide)

/-- Any other message is discarded where no endpoint ID is assigned. -/
theorem otherMessage_discarded {t : State} (no : hasEid s = false) : (if (!hasEid s) = true then s else t) = s := if_pos (by rw [no]; rfl)

theorem otherMessage_taken {t : State} (yes : hasEid s = true) : (if (!hasEid s) = true then s else t) = t := if_neg (by rw [yes]; decide)

/-! ### PLDM (R580, R582, R590, Table 18.10) -/

theorem exec_pldmBase (b : Byte) (bs : List Byte) :
    exec (.pldmBase b bs) s = .next (if hasEid s = true then say s (Config.sidebandBody (0x100 + b.toNat) bs) else s) := rfl

theorem exec_eventReceiver (e : Byte) :
    exec (.eventReceiver e) s = .next (if hasEid s = true then { s with mc := { s.mc with receiver := some e } } else s) := rfl

theorem exec_pldmSensorRead_some {n v : Nat} (yes : hasEid s = true) (reads : sensorValue s n = some v) :
    exec (.pldmSensorRead n) s = .next (say s (Config.sidebandBody 0x211 (natBytes 2 n ++ natBytes 4 v))) := by
  change execPldmSensorRead n s = _
  rw [execPldmSensorRead, otherMessage_taken yes, reads]

theorem exec_pldmSensorRead_none {n : Nat} (yes : hasEid s = true) (reads : sensorValue s n = none) :
    exec (.pldmSensorRead n) s = .next (say s (Config.sidebandBody 0x2FF (natBytes 2 n))) := by
  change execPldmSensorRead n s = _
  rw [execPldmSensorRead, otherMessage_taken yes, reads]

theorem sensorValue_boot (s : State) (i : StackIx) : sensorValue s (0x40 + i.val) = some (bootCode (s.stack i).boot) := by
  have same : Fin.ofNat 4 (0x40 + i.val - 0x40) = i := by
    rw [Nat.add_sub_cancel_left]
    exact Fin.ofNat_val_eq_self i
  have small := i.isLt
  rw [sensorValue, if_neg (by omega), if_neg (by omega), if_neg (by omega), if_neg (by omega), if_neg (by omega), if_neg (by omega), if_pos (by omega), same]

theorem sensorValue_refclk (s : State) : sensorValue s 0x51 = some (if s.mc.refclk = true then 1 else 0) := rfl

theorem sensorValue_powerCycles (s : State) : sensorValue s 0x60 = some s.mc.powerCycles := rfl

theorem sensorValue_thermalCycles (s : State) : sensorValue s 0x61 = some s.mc.thermalCycles := rfl

/-! ### Firmware over PLDM (R579, R582) -/

theorem exec_requestFirmwareData {c : FwChunk} (yes : hasEid s = true) : exec (.requestFirmwareData c) s
    = .next (say (onTargets s allStacks (chunkAt c)).2 (Config.sidebandBody 0x515 (natBytes 2 (onTargets s allStacks (chunkAt c)).1))) := by
  change execRequestFirmwareData c s = _
  rw [execRequestFirmwareData, otherMessage_taken yes]

/-- Whether activation may begin: none runs, no partition has a job or runs a reset, and every image is verified. -/
def mayActivate (s : State) : Prop :=
  s.mc.activating = none ∧ ∀ i : StackIx, jobHeld (s.stack i) = false ∧ (s.stack i).trust.verified = true ∧ columnsHeld (s.stack i) = false

theorem activation_refused_iff (s : State) : (s.mc.activating.isSome = true
    ∨ allStacks.any (fun i => let x := s.stack i; jobHeld x || !x.trust.verified || columnsHeld x) = true) ↔ ¬ mayActivate s := by
  have stack_refuses : ∀ i : StackIx, (jobHeld (s.stack i) || !(s.stack i).trust.verified || columnsHeld (s.stack i)) = true
      ↔ ¬ (jobHeld (s.stack i) = false ∧ (s.stack i).trust.verified = true ∧ columnsHeld (s.stack i) = false) := by
    intro i
    simp only [Bool.or_eq_true, Bool.not_eq_true', not_and_or, Bool.not_eq_false, Bool.not_eq_true, or_assoc]
  simp only [List.any_eq_true, stack_refuses, mem_allStacks, true_and, Option.isSome_iff_ne_none, mayActivate, not_and_or, not_forall, ne_eq]

theorem exec_activateFirmware_refused (yes : hasEid s = true) (no : ¬ mayActivate s) : exec .activateFirmware s = .next (say s (Config.sidebandBody 0x51A [1])) := by
  change execActivateFirmware s = _
  rw [execActivateFirmware, otherMessage_taken yes, if_pos ((activation_refused_iff s).mpr no)]

theorem exec_activateFirmware_begins (yes : hasEid s = true) (may : mayActivate s) :
    exec .activateFirmware s = .next (activateNext (say s (Config.sidebandBody 0x51A [0])) 0) := by
  change execActivateFirmware s = _
  rw [execActivateFirmware, otherMessage_taken yes, if_neg fun refused => (activation_refused_iff s).mp refused may]

/-! ### Commands over MCTP (R425, R427, R462, R500, R578, R579) -/

theorem execMctpMessage_discarded {bs : List Byte} (discards : mctpCommand bs = none) : exec (.mctpMessage bs) s = .next s := by
  change execMctpMessage bs s = _
  rw [execMctpMessage, discards]
  exact congrArg Host.Outcome.next (ite_self s)

/-- The command that a message carries. -/
def overMctp (s : State) (body : List Byte) : Cmd := cmdOfBytes 0x10000 8 0 s.now body

/-- The stack that a command over MCTP goes to. -/
def mctpStack (s : State) (body : List Byte) : StackIx :=
  let c := overMctp s body
  if c.tkind = 3 then (carrier s c body).getD 0 else Fin.ofNat 4 (fld c.w1 14 2)

/-- The module controller's own answer to a command over MCTP. -/
def mctpAnswer (s : State) (body : List Byte) (t : State) (status : Nat) : State :=
  let c := overMctp s body
  say t (mctpReply (replyBytes t.now (arrivalTick (s.stack (mctpStack s body)) (usedParts s) c) c status [] [] false))

/-- What the module controller makes of a command over MCTP. -/
theorem execMctpMessage_carries {bs body : List Byte} (yes : hasEid s = true) (carries : mctpCommand bs = some body) :
    exec (.mctpMessage bs) s =
      let c := overMctp s body
      let i := mctpStack s body
      let x := s.stack i
      let reset := decide (c.op = 0x0003 ∧ c.arg 0 = 1)
      .next (if body.length < 128 ∨ body.length ≠ 128 + fld c.w1 32 32 then mctpAnswer s body s stInvalidParam
        else if 16 ≤ relayed s then mctpAnswer s body s stBusy
        else if x.boot = .off then
          if (x.cold && s.mc.vin && reset) = true then mctpAnswer s body (coldExit s i) stOk else mctpAnswer s body s stState
        else if (columnsHeld x && reset) = true then mctpAnswer s body (startStack s i 1) stOk
        else s.setStack i (arriveCmd hasChecker s.now x (usedParts s) (columnsHeld x) c body)) := by
  change execMctpMessage bs s = _
  rw [execMctpMessage, otherMessage_taken yes, carries]
  rfl

/-- The answer carries the time of the state it is given in; what the module controller does to a stack leaves the time. -/
theorem mctpAnswer_eq {body : List Byte} {t : State} {status : Nat} (now : t.now = s.now) : mctpAnswer s body t status =
    { t with mc := { t.mc with out := mctpReply (replyBytes s.now (arrivalTick (s.stack (mctpStack s body)) (usedParts s) (overMctp s body))
      (overMctp s body) status [] [] false) :: t.mc.out } } := by
  rw [← now]
  rfl

section Carried
variable {bs body : List Byte} (yes : hasEid s = true) (carries : mctpCommand bs = some body)
include yes carries

theorem execMctpMessage_short (short : body.length < 128 ∨ body.length ≠ 128 + fld (overMctp s body).w1 32 32) :
    exec (.mctpMessage bs) s = .next (mctpAnswer s body s stInvalidParam) :=
  (execMctpMessage_carries yes carries).trans (congrArg Host.Outcome.next (if_pos short))

variable (whole : ¬ (body.length < 128 ∨ body.length ≠ 128 + fld (overMctp s body).w1 32 32))
include whole

theorem execMctpMessage_busy (many : 16 ≤ relayed s) : exec (.mctpMessage bs) s = .next (mctpAnswer s body s stBusy) :=
  (execMctpMessage_carries yes carries).trans (congrArg Host.Outcome.next ((if_neg whole).trans (if_pos many)))

variable (few : relayed s < 16)
include few

theorem execMctpMessage_off (off : (s.stack (mctpStack s body)).boot = .off) : exec (.mctpMessage bs) s = .next
    (if ((s.stack (mctpStack s body)).cold && s.mc.vin && decide ((overMctp s body).op = 0x0003 ∧ (overMctp s body).arg 0 = 1)) = true
      then mctpAnswer s body (coldExit s (mctpStack s body)) stOk else mctpAnswer s body s stState) :=
  (execMctpMessage_carries yes carries).trans
    (congrArg Host.Outcome.next ((if_neg whole).trans ((if_neg (Nat.not_le.mpr few)).trans (if_pos off))))

theorem execMctpMessage_on (on : (s.stack (mctpStack s body)).boot ≠ .off) : exec (.mctpMessage bs) s = .next
    (if (columnsHeld (s.stack (mctpStack s body)) && decide ((overMctp s body).op = 0x0003 ∧ (overMctp s body).arg 0 = 1)) = true
      then mctpAnswer s body (startStack s (mctpStack s body) 1) stOk
      else s.setStack (mctpStack s body) (arriveCmd hasChecker s.now (s.stack (mctpStack s body)) (usedParts s)
        (columnsHeld (s.stack (mctpStack s body))) (overMctp s body) body)) :=
  (execMctpMessage_carries yes carries).trans
    (congrArg Host.Outcome.next ((if_neg whole).trans ((if_neg (Nat.not_le.mpr few)).trans (if_neg on))))

end Carried

end Sideband

/-- Settles O55, row by row. -/
theorem sidebandMessages : Obligations.SidebandMessages := by
  intro s m tells
  refine ⟨fun a => ⟨fun on free => ?takes, fun held => ?keeps⟩, fun e off i row => ?off, fun on => ?control, fun no b bs n c i row => ?discarded, fun yes =>
    ⟨fun e => ?receiver, fun b bs => ?base, fun n v reads => exec_pldmSensorRead_some yes reads, fun n reads => exec_pldmSensorRead_none yes reads,
      sensorValue_boot s, sensorValue_refclk s, sensorValue_powerCycles s, sensorValue_thermalCycles s, fun c => exec_requestFirmwareData yes,
      ⟨exec_activateFirmware_refused yes, exec_activateFirmware_begins yes⟩, fun bs => execMctpMessage_discarded, fun bs body carries => ?mctp⟩⟩
  case takes => exact ⟨(exec_setdasa a).trans (congrArg _ (if_pos ⟨on, free⟩)), (exec_entdaa a).trans (congrArg _ (if_pos ⟨on, free⟩))⟩
  case keeps =>
    have not_taken : ¬ (s.mc.supply = true ∧ s.mc.i3c = none) := fun ⟨on, free⟩ => held.elim (ne_false_of_eq_true on) (fun has => has free)
    exact ⟨(exec_setdasa a).trans (congrArg _ (if_neg not_taken)), (exec_entdaa a).trans (congrArg _ (if_neg not_taken))⟩
  case off =>
    simp only [List.mem_cons, List.not_mem_nil, or_false] at row
    obtain rfl | rfl | rfl | rfl := row
    · exact congrArg Host.Outcome.next (controlMessage_off off)
    · exact congrArg Host.Outcome.next (controlMessage_off off)
    · exact congrArg Host.Outcome.next (controlMessage_off off)
    · exact congrArg Host.Outcome.next (controlMessage_off off)
  case control =>
    exact ⟨fun e => congrArg Host.Outcome.next (controlMessage_on on), congrArg Host.Outcome.next (controlMessage_on on),
      congrArg Host.Outcome.next (controlMessage_on on), congrArg Host.Outcome.next (controlMessage_on on)⟩
  case discarded =>
    simp only [List.mem_cons, List.not_mem_nil, or_false] at row
    obtain rfl | rfl | rfl | rfl | rfl | rfl := row
    · exact congrArg Host.Outcome.next (otherMessage_discarded no)
    · exact (exec_pldmBase b bs).trans (congrArg _ (if_neg (ne_true_of_eq_false no)))
    · exact congrArg Host.Outcome.next (otherMessage_discarded no)
    · exact congrArg Host.Outcome.next (otherMessage_discarded no)
    · exact congrArg Host.Outcome.next (otherMessage_discarded no)
    · exact (exec_eventReceiver b).trans (congrArg _ (if_neg (ne_true_of_eq_false no)))
  case receiver => exact (exec_eventReceiver e).trans (congrArg _ (if_pos yes))
  case base => exact (exec_pldmBase b bs).trans (congrArg _ (if_pos yes))
  case mctp =>
    intro c i tick x answer short reset
    have answers : ∀ {t : State} {status : Nat}, t.now = s.now → exec (.mctpMessage bs) s = .next (mctpAnswer s body t status) → answer t status :=
      fun now acts => acts.trans (congrArg _ (mctpAnswer_eq now))
    refine ⟨fun cut => answers rfl (execMctpMessage_short yes carries cut), fun whole many => answers rfl (execMctpMessage_busy yes carries whole many),
      fun whole few => ⟨fun off cold vin resets => ?cold, fun off stays => ?state, fun on held resets => ?driven, fun on stays => ?arrives⟩⟩
    case cold =>
      refine answers (coldExit_same s i).now ((execMctpMessage_off yes carries whole few off).trans (congrArg _ (if_pos ?_)))
      simp only [Bool.and_eq_true, decide_eq_true_eq]
      exact ⟨⟨cold, vin⟩, resets⟩
    case state =>
      refine answers rfl ((execMctpMessage_off yes carries whole few off).trans (congrArg _ (if_neg ?_)))
      simp only [Bool.and_eq_true, decide_eq_true_eq]
      exact fun ⟨⟨cold, vin⟩, resets⟩ => stays ⟨cold, vin, resets⟩
    case driven =>
      refine answers (startStack_same s i 1).now ((execMctpMessage_on yes carries whole few on).trans (congrArg _ (if_pos ?_)))
      simp only [Bool.and_eq_true, decide_eq_true_eq]
      exact ⟨held, resets⟩
    case arrives =>
      refine (execMctpMessage_on yes carries whole few on).trans (congrArg _ (if_neg ?_))
      simp only [Bool.and_eq_true, decide_eq_true_eq]
      exact stays

end Sys2Proof.Machine
end
